-- ==== Sys2Proof/Word.lean ====
section
/-!
DEFINITION. The word types of the part and the records that carry an instruction's decoded operands
(chapters "Bundles, slots and encodings" and the instruction chapters of spec/).
-/
namespace Sys2Proof

/-- One byte (R1). -/
abbrev Byte := BitVec 8
/-- A 32-bit value: an s-register, one lane of a v-register (R61, R98). -/
abbrev Word := BitVec 32
/-- A 64-bit value: an s-register pair, a q-register, an address (R98). -/
abbrev DWord := BitVec 64
/-- One bit for each of the 128 lanes. -/
abbrev Mask := BitVec 128
/-- A 48-bit slot word (R22). -/
abbrev SlotWord := BitVec 48

/-- The privilege levels, lowest first (R21). -/
inductive Level where
  | u | s | f
  deriving DecidableEq, Repr

/-- The level's number as RDID returns it (R113). -/
def Level.num : Level → Nat
  | .u => 0
  | .s => 1
  | .f => 2

/-- The eight slots of a bundle, in slot order (R22). -/
inductive Slot where
  | sa | sb | va | vb | vc | xe | ma | mb
  deriving DecidableEq, Repr

/-- The presence bit, and the rank in slot order, of a slot (R23, R30). -/
def Slot.num : Slot → Nat
  | .sa => 0
  | .sb => 1
  | .va => 2
  | .vb => 3
  | .vc => 4
  | .xe => 5
  | .ma => 6
  | .mb => 7

/-- All slots in slot order (R22). -/
def Slot.all : List Slot := [.sa, .sb, .va, .vb, .vc, .xe, .ma, .mb]

/-- A predicate or flag guard: register number and negation (R31, R32). -/
structure Guard where
  neg : Bool
  reg : BitVec 3
  deriving DecidableEq, Repr

/-- `f0`/`p0` negated never holds (R31, R32). -/
def Guard.never (g : Guard) : Bool := g.neg && g.reg == 0

/-- A 10-bit operand specifier (R38). The index sources are 0 `%lane`, 1 `%strip`, 2 `%warp`, 3 `%glane`. -/
inductive Spec where
  | v (n : BitVec 9)
  | s (n : BitVec 7)
  | k (n : BitVec 3)
  | latch (n : BitVec 3)
  | ps (n : BitVec 2)
  | idx (n : BitVec 2)
  | null
  | imm (b : Byte)
  deriving DecidableEq, Repr

/-- Source B of an S-form instruction (R32, R99). -/
inductive SSrc where
  | reg (n : BitVec 7)
  | imm (i : BitVec 14)
  deriving DecidableEq, Repr

/-- An operand given by an 8-bit immediate or an s-register (R192, R219, R221). -/
inductive ImmOrS where
  | imm (b : Byte)
  | s (n : BitVec 7)
  deriving DecidableEq, Repr

/-- An operand given by an even vN pair or an even sN pair (R160). -/
inductive PairSpec where
  | v (n : BitVec 9)
  | s (n : BitVec 7)
  deriving DecidableEq, Repr

/-- S-form with destination, source A and source B (R32). -/
structure S3 where
  g : Guard
  d : BitVec 7
  a : BitVec 7
  b : SSrc
  deriving DecidableEq, Repr

/-- S-form with destination and source A (R103). -/
structure S2 where
  g : Guard
  d : BitVec 7
  a : BitVec 7
  deriving DecidableEq, Repr

/-- The conditions of ICMP and VCMP (R106, R146). -/
inductive Cond where
  | eq | ne | ltI | leI | gtI | geI | ltN | leN | gtN | geN
  deriving DecidableEq, Repr

/-- The conditions of FCMP (R138). -/
inductive FCond where
  | eq | ne | lt | le | gt | ge | ord | uno
  deriving DecidableEq, Repr

/-- V-form with no source (VRAND, R152). -/
structure V0 where
  p : Guard
  d : Spec
  kc : Bool
  ki : BitVec 3
  deriving DecidableEq, Repr

/-- V-form with one source (R31). -/
structure V1 where
  p : Guard
  d : Spec
  a : Spec
  da : Bool
  kc : Bool
  ki : BitVec 3
  deriving DecidableEq, Repr

/-- V-form with two sources (R31). -/
structure V2 where
  p : Guard
  d : Spec
  a : Spec
  b : Spec
  da : Bool
  db : Bool
  kc : Bool
  ki : BitVec 3
  deriving DecidableEq, Repr

/-- V-form accumulate: the destination is a vN and is read (R130). -/
structure VAcc where
  p : Guard
  d : BitVec 9
  a : Spec
  b : Spec
  da : Bool
  db : Bool
  kc : Bool
  ki : BitVec 3
  deriving DecidableEq, Repr

/-- V-form compare into predicate pd (R131). -/
structure VCmp where
  p : Guard
  pd : BitVec 3
  a : Spec
  b : Spec
  da : Bool
  db : Bool
  deriving DecidableEq, Repr

/-- The packed half-width formats (R139). -/
inductive Half where
  | h16 | bf16
  deriving DecidableEq, Repr

/-- The rounding selector of FRND (R137): 0 to 3 static, 4 dynamic. -/
inductive FrndMode where
  | rne | rz | ru | rd | dyn
  deriving DecidableEq, Repr

/-- The element formats of CVT (R147). -/
inductive CvtFmt where
  | f32 | h16 | bf16 | e4m3 | e5m2 | i8 | n8 | i16 | n16 | i32 | n32
  deriving DecidableEq, Repr

/-- The rounding selector RMO of CVT, CVTMX and CVTXM (R147). -/
inductive Rmo where
  | rne | rz | ru | rd | sr | dyn
  deriving DecidableEq, Repr

/-- The element formats of an MX block (R148). -/
inductive MxFmt where
  | e4m3 | e5m2 | e2m1
  deriving DecidableEq, Repr

/-- The lane patterns of VLANE (R151). -/
inductive VlanePat where
  | xor | add | bcast | rev
  deriving DecidableEq, Repr

/-- The element types of RED.ADD, RED.MIN, RED.MAX (R156). -/
inductive RedTy where
  | f32 | i32 | n32
  deriving DecidableEq, Repr

/-- Operands of RED.ADD, RED.MIN, RED.MAX (R156). -/
structure VRed where
  p : Guard
  ps : BitVec 2
  a : Spec
  da : Bool
  acc : Bool
  ty : RedTy
  w : BitVec 3
  deriving DecidableEq, Repr

/-- The fill codes of RCLR (R158). -/
inductive FillCode where
  | zero | negzero | pinf | ninf | imax | ones
  deriving DecidableEq, Repr

/-- The control fields of an X-form command (R36). -/
structure XCtl where
  p : Guard
  sco : BitVec 12
  ae : Bool
  ac : BitVec 3
  deriving DecidableEq, Repr

/-- Load element types (R164, R165). -/
inductive LdTy where
  | i8 | n8 | i16 | n16 | b32
  deriving DecidableEq, Repr

/-- Store element types (R164, R165). -/
inductive StTy where
  | n8 | n16 | b32
  deriving DecidableEq, Repr

/-- Bytes of a load element. -/
def LdTy.bytes : LdTy → Nat
  | .i8 | .n8 => 1
  | .i16 | .n16 => 2
  | .b32 => 4

/-- Bytes of a store element. -/
def StTy.bytes : StTy → Nat
  | .n8 => 1
  | .n16 => 2
  | .b32 => 4

/-- M-form operands (R33). -/
structure MOps where
  p : Guard
  dat : Spec
  seg : BitVec 3
  adr : Spec
  ofs : BitVec 12
  ad : Bool
  deriving DecidableEq, Repr

/-- MW-form operands (R34). -/
structure MWOps where
  p : Guard
  dat : Spec
  seg : BitVec 3
  adr : Spec
  ofs : BitVec 9
  ac : BitVec 3
  ad : Bool
  deriving DecidableEq, Repr

/-- The operations of ATOM and ATOM.SC; `wide` selects 64 bits, `uns` the unsigned comparison (R44, R173). -/
inductive AtomOp where
  | add (wide : Bool)
  | min (wide uns : Bool)
  | max (wide uns : Bool)
  | and (wide : Bool)
  | or (wide : Bool)
  | xor (wide : Bool)
  | exch (wide : Bool)
  | cas (wide : Bool)
  | addF32
  | addBf16
  deriving DecidableEq, Repr

/-- Whether the operation is on 8 bytes. -/
def AtomOp.wide : AtomOp → Bool
  | .add w | .min w _ | .max w _ | .and w | .or w | .xor w | .exch w | .cas w => w
  | .addF32 | .addBf16 => false

/-- Whether the operation is a compare and swap. -/
def AtomOp.isCas : AtomOp → Bool
  | .cas _ => true
  | _ => false

/-- The reductions of the reduction buffer (R174). -/
inductive RedOp where
  | addF32 | addN32 | minF32 | maxF32 | addBf16
  deriving DecidableEq, Repr

/-- The scopes of R168. -/
inductive Scope where
  | wp | co | qd | di | pk | fb | sy
  deriving DecidableEq, Repr

/-- The scope's code (R168). -/
def Scope.num : Scope → Nat
  | .wp => 0
  | .co => 1
  | .qd => 2
  | .di => 3
  | .pk => 4
  | .fb => 5
  | .sy => 6

/-- The q-offset fields QE and QN of a routine step (R208). -/
structure StepQ where
  qe : Bool
  qn : BitVec 3
  deriving DecidableEq, Repr

/-- A fetched bundle: its head and the slot words present, in slot order (R22). -/
structure Bundle where
  head : BitVec 16
  words : List SlotWord
  deriving DecidableEq, Repr

end Sys2Proof
end

