-- ==== Sys2Proof/Syntax.lean ====
section
/-!
DEFINITION. Every step of the part as one constructor: the rows of spec/opcode_table.json in the table's order,
with decoded operands. A row that is an event of the machine has no operand field of its own: the record Ev
that the step puts into the state says where it takes place and what it brings.
-/
namespace Sys2Proof

/-- The answer of a remote part, or of the host link, to a request this part sent out (R424, R426). -/
structure RemoteAns where
  vals : List DWord
  poison : Mask
  fault : Mask
  deriving DecidableEq, Repr

/-- What a remote request asks for (R424, R425): of a store, `rel` says that it is an ST.REL (R428). -/
inductive RemoteOp where
  | load (t : LdTy)
  | store (t : StTy) (rel : Bool)
  | atom (op : AtomOp)
  | red (op : RedOp)
  deriving DecidableEq, Repr

/-- One lane of a remote request: its number, its window offset and its operands. -/
structure RemoteLane where
  lane : Nat
  ofs : Nat
  x : DWord
  y : DWord
  deriving DecidableEq, Repr

/-- A packet of one instruction's lanes arriving from another part, with the number of the request there and the port on
which it arrived (R424, R428). -/
structure RemoteReq where
  src : Nat
  id : Nat
  port : Nat
  op : RemoteOp
  lanes : List RemoteLane
  deriving DecidableEq, Repr

/-- A composite packet: the part that sent it, the port it takes, its header flit and its payload (R409, R415). -/
structure CompPacket where
  src : Nat
  port : Nat
  header : List Byte
  payload : List Byte
  deriving DecidableEq, Repr

/-- A flush record that another part sends, an add to a DONE counter that it asks for, or, with `mark`, its word that an entry of a
contribution was dropped (R177, R178): the port it came on, the key and the sender's number of the contribution, the
session, whether its home is the first one listed, the part and die that are, the dies of this part that are listed, the entries with
the window offset of their block, and the counter. -/
structure RemoteFlush where
  port : Nat
  mark : Bool
  part : Nat
  rid : Nat
  home1 : Nat × Nat
  core : Nat
  warp : Nat
  die : Nat
  sid : Nat
  ncon : Nat
  evicted : Bool
  err : Bool
  first : Bool
  listed : List Nat
  ents : List (Nat × RedOp × List (Nat × Word))
  doneAddr : DWord
  deriving DecidableEq, Repr

/-- The subject of an event: where it takes place and what it brings. Each event reads the fields it needs:
a core, a warp (the resident slot), an index (a queue, stream, die, quad, port, channel or head), a second index,
a value written, an address, bytes, a remote answer, a remote request, a composite packet or a flush record. -/
structure Ev where
  core : Nat
  warp : Nat
  idx : Nat
  idx2 : Nat
  val : DWord
  addr : DWord
  write : Bool
  data : List Byte
  ans : Option RemoteAns
  req : Option RemoteReq
  pkt : Option CompPacket
  flu : Option RemoteFlush
  deriving DecidableEq, Repr

/-- The event record with nothing in it. -/
def Ev.none : Ev :=
  ⟨0, 0, 0, 0, 0, 0, false, [], Option.none, Option.none, Option.none, Option.none⟩

/-- The instructions of the slots, the steps of matrix routines, and the events of the machine. -/
inductive Instr where
  -- bundles (R22, R24)
  | bundleIssue (b : Bundle)
  | idleBundle (head : BitVec 16)
  -- scalar arithmetic (R101 to R108)
  | iadd (o : S3)
  | isub (o : S3)
  | imul (o : S3)
  | imulh (o : S3) (uns : Bool)
  | imad (o : S3) (c : BitVec 7)
  | idiv (o : S3) (uns : Bool)
  | irem (o : S3) (uns : Bool)
  | iand (o : S3)
  | ior (o : S3)
  | ixor (o : S3)
  | iandn (o : S3)
  | shl (o : S3)
  | shr (o : S3)
  | shra (o : S3)
  | rot (o : S3)
  | clz (o : S2)
  | popc (o : S2)
  | brev (o : S2)
  | bfx (o : S3) (w : BitVec 5) (sgn : Bool)
  | bfi (o : S3) (w : BitVec 5)
  | imin (o : S3) (uns : Bool)
  | imax (o : S3) (uns : Bool)
  | icmp (g : Guard) (fd : BitVec 3) (a : BitVec 7) (b : SSrc) (c : Cond)
  | sel (o : S3) (fl : BitVec 3) (neg : Bool)
  -- moves, addresses, clock (R109 to R113)
  | movi (g : Guard) (d : BitVec 7) (i : BitVec 14)
  | limmB32 (g : Guard) (d : BitVec 7) (w : Word)
  | limmB64 (g : Guard) (d : BitVec 7) (w : BitVec 48)
  | movsRf (g : Guard) (d : BitVec 7)
  | movsWf (g : Guard) (a : BitVec 7)
  | movsLc (g : Guard) (d : BitVec 7) (n : BitVec 3)
  | movsRp (g : Guard) (d : BitVec 7) (p : BitVec 3) (j : BitVec 2)
  | movsWp (g : Guard) (p : BitVec 3) (j : BitVec 2) (a : BitVec 7)
  | movsRm (g : Guard) (d : BitVec 7) (j : BitVec 2)
  | aadd (o : S3)
  | alea (o : S3) (k : BitVec 3) (z : Bool)
  | flop (g : Guard) (fd fa fb : BitVec 3) (t : BitVec 4)
  | rdgcc (g : Guard) (d : BitVec 7)
  | rdid (g : Guard) (d : BitVec 7) (sel : BitVec 3)
  -- control (R114 to R127)
  | bru (g : Guard) (off : BitVec 26)
  | brv (p : Guard) (off : BitVec 26)
  | brd (g : Guard) (off : BitVec 26) (p : Guard) (pft ptk : BitVec 16)
  | jmp (g : Guard) (off : BitVec 26)
  | call (g : Guard) (off : BitVec 26) (link : BitVec 7)
  | ret (g : Guard) (a : BitVec 7)
  | chk (off : BitVec 26) (v : BitVec 9)
  | loop (g : Guard) (b : SSrc) (body : BitVec 6)
  | lstr (g : Guard) (d : BitVec 7) (b : SSrc) (level : BitVec 3) (reg : Bool)
  | yield (g : Guard)
  | exit (g : Guard)
  -- waiting and phases (R181 to R187)
  | waita (g : Guard) (mask : Byte) (n : BitVec 6)
  | twait (g : Guard) (pred : Bool) (num : BitVec 3) (h : BitVec 7) (mask : Byte) (watch : Bool)
  | bar (g : Guard) (b : SSrc) (num : BitVec 4) (arrive : Bool)
  | barq (g : Guard) (b : SSrc) (num : BitVec 4) (arrive : Bool)
  | phase (g : Guard) (a : BitVec 7) (b : SSrc)
  | phwait (g : Guard) (b : SSrc)
  -- system (R253 to R265)
  | trap (g : Guard) (b : SSrc)
  | sys (g : Guard) (b : SSrc)
  | eret (g : Guard)
  | ctlr (g : Guard) (d : BitVec 7) (b : SSrc)
  | ctlw (g : Guard) (a : BitVec 7) (b : SSrc)
  | segw (g : Guard) (a : BitVec 7) (seg : BitVec 3) (limit : Bool)
  | prmt (g : Guard) (d : BitVec 7) (a : BitVec 7) (kill : Bool)
  | wfw (o : S3)
  | launch (g : Guard) (d : BitVec 7) (a : BitVec 7) (q : BitVec 2)
  | role (g : Guard) (b : SSrc)
  | wdogRd (g : Guard) (d : BitVec 7)
  | wdogLower (g : Guard) (a : BitVec 7)
  | wdogSet (g : Guard) (a : BitVec 7)
  | govr (g : Guard) (d : BitVec 7) (b : SSrc)
  | govrP (g : Guard) (d : BitVec 7) (b : SSrc)
  | govrW (g : Guard) (a : BitVec 7) (b : SSrc)
  | govrWp (g : Guard) (a : BitVec 7) (b : SSrc)
  -- vector floating point (R134 to R140)
  | fadd (o : V2)
  | fsub (o : V2)
  | fmul (o : V2)
  | ffma (o : VAcc)
  | ffmak (o : V2)
  | fmin (o : V2)
  | fmax (o : V2)
  | fclass (o : V1)
  | frnd (o : V1) (m : FrndMode)
  | fcmp (o : VCmp) (c : FCond)
  | hadd2 (o : V2) (f : Half)
  | hmul2 (o : V2) (f : Half)
  | hfma2 (o : VAcc) (f : Half)
  | hdot2 (o : VAcc) (f : Half)
  -- vector integer (R141 to R146)
  | vadd (o : V2)
  | vsub (o : V2)
  | vmul (o : V2)
  | vmulh (o : V2) (uns : Bool)
  | vmad (o : VAcc)
  | vmin (o : V2) (uns : Bool)
  | vmax (o : V2) (uns : Bool)
  | vabs (o : V1)
  | vmov (o : V1)
  | vand (o : V2)
  | vor (o : V2)
  | vxor (o : V2)
  | vandn (o : V2)
  | vshl (o : V2)
  | vshr (o : V2)
  | vshra (o : V2)
  | vpopc (o : V1)
  | vclz (o : V1)
  | vbfx (o : V2) (uns : Bool)
  | vbfi (o : VAcc)
  | vsel (o : V2)
  | vdot4 (o : VAcc) (uns : Bool)
  | vcmp (o : VCmp) (c : Cond)
  -- conversions and lane movement (R147 to R153)
  | cvt (o : V1) (sf df : CvtFmt) (rmo : Rmo) (sp : BitVec 3)
  | cvtmx (o : V1) (ef : MxFmt) (rmo : Rmo)
  | cvtxm (o : V1) (ef : MxFmt) (rmo : Rmo)
  | pack (o : V2)
  | unpk (o : V1) (x z : Bool) (n : BitVec 2)
  | perm (o : V2)
  | vlane (o : V1) (pat : VlanePat) (k : BitVec 4)
  | xsh (o : V1) (x : Bool) (k : BitVec 3)
  | vrand (o : V0)
  | mode (p : Guard) (value mask : ImmOrS)
  -- special functions (R154)
  | rcp (o : V1)
  | rsq (o : V1)
  | sqrt (o : V1)
  | exp2 (o : V1)
  | log2 (o : V1)
  | sin (o : V1)
  | cos (o : V1)
  | tanh (o : V1)
  | rcpA (o : V1)
  | rsqA (o : V1)
  | sqrtA (o : V1)
  | exp2A (o : V1)
  | log2A (o : V1)
  | sinA (o : V1)
  | cosA (o : V1)
  | tanhA (o : V1)
  -- reductions into the partial sums (R156 to R158)
  | redAdd (o : VRed)
  | redMin (o : VRed)
  | redMax (o : VRed)
  | rdrn (p : Guard) (d : Spec) (ps : BitVec 2) (w : BitVec 3) (kc : Bool) (ki : BitVec 3)
  | rclr (p : Guard) (ps : BitVec 2) (c : FillCode)
  -- matrix commands (R219 to R222, R202, R205, R207)
  | mcall (x : XCtl) (k o : ImmOrS)
  | mpar (x : XCtl) (q : BitVec 3) (v : ImmOrS)
  | mfmt (x : XCtl) (v : ImmOrS)
  | mstat (x : XCtl) (d : BitVec 7)
  | mpsw (x : XCtl) (v t : BitVec 7)
  | wst (x : XCtl) (a : BitVec 7) (wb : Bool)
  | wstat (x : XCtl) (d : BitVec 7)
  -- ray, texture, copy, composite and markers
  | rqCl (x : XCtl) (blk : BitVec 9) (st : BitVec 7)
  | rqAn (x : XCtl) (blk : BitVec 9) (st : BitVec 7)
  | rqOc (x : XCtl) (blk : BitVec 9) (st : BitVec 7)
  | bvhb (x : XCtl) (a : BitVec 7)
  | bvhf (x : XCtl) (a : BitVec 7)
  | texS (x : XCtl) (blk : BitVec 9) (a : BitVec 7)
  | texF (x : XCtl) (blk : BitVec 9) (a : BitVec 7)
  | texL (x : XCtl) (blk : BitVec 9) (a : BitVec 7)
  | texq (x : XCtl) (blk : BitVec 9) (a : BitVec 7)
  | copy (x : XCtl) (a : BitVec 7) (q : BitVec 2)
  | cmpt (x : XCtl) (a : BitVec 7)
  | cmpq (x : XCtl) (d s : BitVec 7)
  | mark (x : XCtl) (mask : BitVec 9) (m : BitVec 3)
  | markw (x : XCtl) (m : BitVec 3)
  -- memory (R164 to R171)
  | ldM (t : LdTy) (o : MOps)
  | stM (t : StTy) (o : MOps)
  | ldt (o : MOps)
  | ldMw (t : LdTy) (o : MWOps)
  | stMw (t : StTy) (o : MWOps)
  | ldS (o : MWOps)
  | ldPoll (o : MWOps)
  | ldAcq (o : MWOps)
  | stRel (o : MWOps)
  | ldSc (o : MWOps)
  | stSc (o : MWOps)
  | pref (p : Guard) (core : Bool) (adr : PairSpec) (ofs : BitVec 9) (ad : Bool)
  -- atomics (R172, R173)
  | atomAdd (o : MWOps) (wide : Bool)
  | atomMin (o : MWOps) (wide uns : Bool)
  | atomMax (o : MWOps) (wide uns : Bool)
  | atomAnd (o : MWOps) (wide : Bool)
  | atomOr (o : MWOps) (wide : Bool)
  | atomXor (o : MWOps) (wide : Bool)
  | atomExch (o : MWOps) (wide : Bool)
  | atomCas (o : MWOps) (wide : Bool)
  | atomAddF32 (o : MWOps)
  | atomAddBf16 (o : MWOps)
  | atomSc (o : MWOps) (op : AtomOp)
  -- the reduction buffer (R174 to R177)
  | redAddF32 (o : MWOps)
  | redAddN32 (o : MWOps)
  | redMinF32 (o : MWOps)
  | redMaxF32 (o : MWOps)
  | redAddBf16 (o : MWOps)
  | flushr (p : Guard) (ac : BitVec 3)
  | flushrOrdered (p : Guard) (adr : PairSpec) (ofs : BitVec 9) (ac : BitVec 3) (ad : Bool)
  -- fences, semaphores, watches (R179, R180, R184, R186)
  | fenceAcq (p : Guard) (sc : Scope)
  | fenceRel (p : Guard) (sc : Scope)
  | fenceAr (p : Guard) (sc : Scope)
  | xfence (p : Guard) (up down : BitVec 7) (sc : Scope)
  | semp (p : Guard) (n adr : ImmOrS) (ofs : BitVec 12)
  | semw (p : Guard) (n adr : ImmOrS) (ofs : BitVec 12)
  | watchArm (p : Guard) (adr : PairSpec) (ofs : BitVec 12) (ad : Bool)
  | watchDisarm (p : Guard) (adr : PairSpec) (ofs : BitVec 12) (ad : Bool)
  -- streams and timed transfers (R192, R193, R250 to R252)
  | stset (p : Guard) (k : BitVec 4) (cap base : BitVec 7)
  | stapp (p : Guard) (val key : Spec) (zb nk : BitVec 4) (ad : Bool)
  | stcmt (p : Guard) (k : BitVec 4) (sc : Scope) (dest : BitVec 7) (n : Byte)
  | tsend (p : Guard) (val : Spec) (core : ImmOrS) (slot : BitVec 5)
  | tsendM (p : Guard) (val : Spec) (mask : ImmOrS) (slot : BitVec 5)
  | trecv (p : Guard) (d : Spec) (slot : BitVec 5) (stamp : BitVec 12)
  -- steps of a matrix routine (R209)
  | ldsb (q : StepQ) (wb : Bool) (ofs : BitVec 15) (kb : BitVec 4) (n : Byte) (sofs : BitVec 15)
  | ldsv (q : StepQ) (vb vs : BitVec 9) (kb : BitVec 4) (n : Byte)
  | swap
  | strm (q : StepQ) (va vs : BitVec 9) (bk : Bool) (row m : Byte)
  | acc (q : StepQ) (va vs : BitVec 9) (bk : Bool) (row m : Byte)
  | scal (q : StepQ) (vf : BitVec 9) (bk : Bool) (row m : Byte)
  | zero (q : StepQ) (bk : Bool) (row m : Byte)
  | drn (q : StepQ) (bk : Bool) (row m : Byte) (p : BitVec 2) (sync rel : Bool)
  | stepLoop (q : StepQ) (cnt : BitVec 12) (body : BitVec 5) (be : Bool) (qd qs : BitVec 3)
  | waitf (wb : Bool)
  | sync
  | endStep
  -- EVENTS: their subject (core, warp, queue, value, data) stands in State.ev
  -- results and warps
  | resultLanding
  | rowRelease
  | arrival
  | waitaRetire
  | twaitTimeout
  | coreWake
  | warpRetire
  | watchdog
  -- traps, context, groups
  | saveContext
  | trapHandlerStart
  | contextRestore
  | preemptionHalt
  | swapOut
  | swapAreaClose
  | groupAdmission
  | carveChange
  | groupRelocation
  | groupCompletion
  | launchEnqueue
  | childTake
  -- streams and commands
  | streamTableAddress
  | doorbell
  | launchGrid
  | waitEvent
  | waitEventPoll
  | signal
  | copyCommand
  | bin
  | cover
  | compose
  | govern
  | next
  | nextPointerSeen
  -- engines
  | copyRecordCompletion
  | fillEnd
  | routineStart
  | mpswApply
  | bvhCompletion
  | regionEntry
  | timedPacketLanding
  | lateReplyArrival
  | tableWalk
  | windowPortService
  | l2RequestEntry
  | l2LineArrival
  | scOrderEntry
  | flushRecordArrival
  | privetSend
  | privetLanding
  | stcmtIncrement
  | arrivalHandlerStart
  | governorTableUpdate
  | governorAck
  -- Hedgerow and the host
  | controlBlockReload
  | portDown
  | domainJoin
  | compositePacketReceipt
  | fillTime
  | vsync
  | remoteAccess
  | hostMemoryAccess
  | hostRegisterWrite
  | tlbinv
  | invalidationDone
  | fclr
  | pactlClr
  -- tiers, repair, checkpoints
  | eccRateWindow
  | patrolScrub
  | hbmCrcError
  | laneRemap
  | repairWindowEnd
  | checkpointStart
  | checkpointCopy
  | checkpointSeal
  | checkpointRestore
  -- start-up, security, debug, power
  | powerOnStart
  | recoveryImageLoad
  | attest
  | unlock
  | lifeCycleTransition
  | dbgCtlMode
  | soMode
  | quiesce
  | quiesceDone
  | saveCoreState
  | saveDone
  | restoreCoreState
  | restoreDone
  | readmit
  | pmClkGate
  | pmRailLevel
  | railSettled
  | pmWset
  | frequencyChange
  | powerThrottle
  | wfwTimeout
  | binCoverCompletion
  deriving DecidableEq, Repr

end Sys2Proof
end

