-- ==== Sys2Proof/Decode.lean ====
section
/-!
DEFINITION. The decoder of slot words, routine steps and bundles, total on any bits and refusing by name,
and after it the encoder, both written from the forms of R22 to R46 and the entries' tables.
-/
namespace Sys2Proof

/-- Why a bundle does not decode: the four decode traps (R26, R40, R38, R46). -/
inductive DecErr where
  | illegalBundle
  | illegalOpcode
  | illegalOperand
  | privilege
  deriving DecidableEq, Repr

abbrev Dec := Except DecErr

/-- Check a decode condition, in the order the checks are written (R47). -/
def need (c : Bool) (e : DecErr) : Dec Unit := if c then .ok () else .error e

/-- A decode condition whose breach is an illegal operand. -/
def needOp (c : Bool) : Dec Unit := need c .illegalOperand

/-- A decode condition whose breach is an illegal bundle. -/
def needBun (c : Bool) : Dec Unit := need c .illegalBundle

/-! ## Specifiers (R38) -/

/-- The 10-bit pattern of a specifier (R38). -/
def Spec.code : Spec → BitVec 10
  | .v n => 0#1 ++ n
  | .s n => 4#3 ++ n
  | .k n => 0x50#7 ++ n
  | .latch n => 0x51#7 ++ n
  | .ps n => 0xA4#8 ++ n
  | .idx n => 0xA5#8 ++ n
  | .null => 0x298#10
  | .imm b => 3#2 ++ b

/-- The specifier a 10-bit pattern names; the reserved patterns name none (R38). -/
def Spec.ofCode (c : BitVec 10) : Option Spec :=
  if c.extractLsb' 9 1 = 0#1 then some (.v (c.extractLsb' 0 9))
  else if c.extractLsb' 7 3 = 4#3 then some (.s (c.extractLsb' 0 7))
  else if c.extractLsb' 8 2 = 3#2 then some (.imm (c.extractLsb' 0 8))
  else if c.extractLsb' 3 7 = 0x50#7 then some (.k (c.extractLsb' 0 3))
  else if c.extractLsb' 3 7 = 0x51#7 then some (.latch (c.extractLsb' 0 3))
  else if c.extractLsb' 2 8 = 0xA4#8 then some (.ps (c.extractLsb' 0 2))
  else if c.extractLsb' 2 8 = 0xA5#8 then some (.idx (c.extractLsb' 0 2))
  else if c = 0x298#10 then some .null
  else none

def Spec.isV : Spec → Bool
  | .v _ => true
  | _ => false

/-- Usable as a source (R38). -/
def Spec.isSrc : Spec → Bool
  | .null => false
  | _ => true

/-- Usable as the destination of a vector result (R38). -/
def Spec.isDst : Spec → Bool
  | .v _ | .null => true
  | _ => false

/-- Decode a source specifier (R38). -/
def srcSpec (c : BitVec 10) : Dec Spec :=
  match Spec.ofCode c with
  | some sp => if sp.isSrc then .ok sp else .error .illegalOperand
  | none => .error .illegalOperand

/-- Decode a destination specifier (R38). -/
def dstSpec (c : BitVec 10) : Dec Spec :=
  match Spec.ofCode c with
  | some sp => if sp.isDst then .ok sp else .error .illegalOperand
  | none => .error .illegalOperand

/-- Decode a vN specifier. -/
def vSpec (c : BitVec 10) : Dec (BitVec 9) :=
  match Spec.ofCode c with
  | some (.v n) => .ok n
  | _ => .error .illegalOperand

/-- Decode an sN specifier. -/
def sSpec (c : BitVec 10) : Dec (BitVec 7) :=
  match Spec.ofCode c with
  | some (.s n) => .ok n
  | _ => .error .illegalOperand

/-- Decode an 8-bit immediate specifier. -/
def immSpec (c : BitVec 10) : Dec Byte :=
  match Spec.ofCode c with
  | some (.imm b) => .ok b
  | _ => .error .illegalOperand

/-- Decode an immediate or sN specifier. -/
def immOrS (c : BitVec 10) : Dec ImmOrS :=
  match Spec.ofCode c with
  | some (.imm b) => .ok (.imm b)
  | some (.s n) => .ok (.s n)
  | _ => .error .illegalOperand

/-- A register number is even: bit 0 clear (R98). -/
def even {w : Nat} (n : BitVec w) : Bool := n.getLsbD 0 == false

/-- Decode a pair specifier: vN or sN with N even (R160). -/
def pairSpec (c : BitVec 10) : Dec PairSpec :=
  match Spec.ofCode c with
  | some (.v n) => if even n then .ok (.v n) else .error .illegalOperand
  | some (.s n) => if even n then .ok (.s n) else .error .illegalOperand
  | _ => .error .illegalOperand

/-- Decode an sN pair specifier: N even (R196). -/
def sPair (c : BitVec 10) : Dec (BitVec 7) :=
  match Spec.ofCode c with
  | some (.s n) => if even n then .ok n else .error .illegalOperand
  | _ => .error .illegalOperand

def ImmOrS.code : ImmOrS → BitVec 10
  | .imm b => Spec.code (.imm b)
  | .s n => Spec.code (.s n)

def PairSpec.code : PairSpec → BitVec 10
  | .v n => Spec.code (.v n)
  | .s n => Spec.code (.s n)

/-- AD and the dead bits may mark only a vN (R31, R33, R34). -/
def PairSpec.isV : PairSpec → Bool
  | .v _ => true
  | .s _ => false

/-! ## The slot-word forms, field by field (R31 to R37) -/

def bit (b : Bool) : BitVec 1 := BitVec.ofBool b

def isSet (b : BitVec 1) : Bool := b == 1#1

def Guard.bits (g : Guard) : BitVec 4 := bit g.neg ++ g.reg

def guardOf (b : BitVec 4) : Guard := ⟨isSet (b.extractLsb' 3 1), b.extractLsb' 0 3⟩

/-- V-form fields (R31). -/
structure RawV where
  op : BitVec 8
  p : BitVec 4
  dst : BitVec 10
  sra : BitVec 10
  srb : BitVec 10
  da : BitVec 1
  db : BitVec 1
  kc : BitVec 1
  ki : BitVec 3
  deriving DecidableEq, Repr

def RawV.ofWord (w : SlotWord) : RawV :=
  { op := w.extractLsb' 40 8, p := w.extractLsb' 36 4, dst := w.extractLsb' 26 10,
    sra := w.extractLsb' 16 10, srb := w.extractLsb' 6 10, da := w.extractLsb' 5 1,
    db := w.extractLsb' 4 1, kc := w.extractLsb' 3 1, ki := w.extractLsb' 0 3 }

def RawV.toWord (r : RawV) : SlotWord :=
  r.op ++ (r.p ++ (r.dst ++ (r.sra ++ (r.srb ++ (r.da ++ (r.db ++ (r.kc ++ r.ki)))))))

/-- S-form fields (R32). -/
structure RawS where
  op : BitVec 8
  g : BitVec 4
  sd : BitVec 7
  sa : BitVec 7
  i : BitVec 1
  sb : BitVec 14
  fx : BitVec 7
  deriving DecidableEq, Repr

def RawS.ofWord (w : SlotWord) : RawS :=
  { op := w.extractLsb' 40 8, g := w.extractLsb' 36 4, sd := w.extractLsb' 29 7,
    sa := w.extractLsb' 22 7, i := w.extractLsb' 21 1, sb := w.extractLsb' 7 14,
    fx := w.extractLsb' 0 7 }

def RawS.toWord (r : RawS) : SlotWord :=
  r.op ++ (r.g ++ (r.sd ++ (r.sa ++ (r.i ++ (r.sb ++ r.fx)))))

/-- M-form fields (R33). -/
structure RawM where
  op : BitVec 8
  p : BitVec 4
  dat : BitVec 10
  seg : BitVec 3
  adr : BitVec 10
  ofs : BitVec 12
  ad : BitVec 1
  deriving DecidableEq, Repr

def RawM.ofWord (w : SlotWord) : RawM :=
  { op := w.extractLsb' 40 8, p := w.extractLsb' 36 4, dat := w.extractLsb' 26 10,
    seg := w.extractLsb' 23 3, adr := w.extractLsb' 13 10, ofs := w.extractLsb' 1 12,
    ad := w.extractLsb' 0 1 }

def RawM.toWord (r : RawM) : SlotWord :=
  r.op ++ (r.p ++ (r.dat ++ (r.seg ++ (r.adr ++ (r.ofs ++ r.ad)))))

/-- MW-form fields (R34). -/
structure RawW where
  op : BitVec 8
  p : BitVec 4
  dat : BitVec 10
  seg : BitVec 3
  adr : BitVec 10
  ofs : BitVec 9
  ac : BitVec 3
  ad : BitVec 1
  deriving DecidableEq, Repr

def RawW.ofWord (w : SlotWord) : RawW :=
  { op := w.extractLsb' 40 8, p := w.extractLsb' 36 4, dat := w.extractLsb' 26 10,
    seg := w.extractLsb' 23 3, adr := w.extractLsb' 13 10, ofs := w.extractLsb' 4 9,
    ac := w.extractLsb' 1 3, ad := w.extractLsb' 0 1 }

def RawW.toWord (r : RawW) : SlotWord :=
  r.op ++ (r.p ++ (r.dat ++ (r.seg ++ (r.adr ++ (r.ofs ++ (r.ac ++ r.ad))))))

/-- X-form fields (R36). -/
structure RawX where
  op : BitVec 8
  p : BitVec 4
  opa : BitVec 10
  opb : BitVec 10
  sco : BitVec 12
  ae : BitVec 1
  ac : BitVec 3
  deriving DecidableEq, Repr

def RawX.ofWord (w : SlotWord) : RawX :=
  { op := w.extractLsb' 40 8, p := w.extractLsb' 36 4, opa := w.extractLsb' 26 10,
    opb := w.extractLsb' 16 10, sco := w.extractLsb' 4 12, ae := w.extractLsb' 3 1,
    ac := w.extractLsb' 0 3 }

def RawX.toWord (r : RawX) : SlotWord :=
  r.op ++ (r.p ++ (r.opa ++ (r.opb ++ (r.sco ++ (r.ae ++ r.ac)))))

/-- B-form fields (R37). -/
structure RawB where
  op : BitVec 8
  c : BitVec 4
  off : BitVec 26
  aux : BitVec 10
  deriving DecidableEq, Repr

def RawB.ofWord (w : SlotWord) : RawB :=
  { op := w.extractLsb' 40 8, c := w.extractLsb' 36 4, off := w.extractLsb' 10 26,
    aux := w.extractLsb' 0 10 }

def RawB.toWord (r : RawB) : SlotWord := r.op ++ (r.c ++ (r.off ++ r.aux))

/-! ## The S class (R28, R32, R41, R97 to R127, R181 to R187, R253 to R265) -/

/-- Source B of the S-form: I = 0 leaves bits 20:14 zero (R32, R99). -/
def sSrc (i : BitVec 1) (sb : BitVec 14) : Dec SSrc :=
  if isSet i then .ok (.imm sb)
  else if sb.extractLsb' 7 7 = 0#7 then .ok (.reg (sb.extractLsb' 0 7))
  else .error .illegalBundle

def SSrc.iBit : SSrc → BitVec 1
  | .reg _ => 0#1
  | .imm _ => 1#1

def SSrc.bits : SSrc → BitVec 14
  | .reg n => 0#7 ++ n
  | .imm i => i

/-- The pair form of source B: a register number must be even (R98, R111). -/
def SSrc.evenOk : SSrc → Bool
  | .reg n => even n
  | .imm _ => true

def condOf (n : BitVec 4) : Option Cond :=
  match n.toNat with
  | 0 => some .eq
  | 1 => some .ne
  | 2 => some .ltI
  | 3 => some .leI
  | 4 => some .gtI
  | 5 => some .geI
  | 6 => some .ltN
  | 7 => some .leN
  | 8 => some .gtN
  | 9 => some .geN
  | _ => none

def Cond.code : Cond → BitVec 4
  | .eq => 0
  | .ne => 1
  | .ltI => 2
  | .leI => 3
  | .gtI => 4
  | .geI => 5
  | .ltN => 6
  | .leN => 7
  | .gtN => 8
  | .geN => 9

/-- SB_ marked "—": I = 0 and bits 20:7 zero (R99). -/
def RawS.noB (r : RawS) : Bool := r.i == 0#1 && r.sb == 0#14

/-- S-form with d, a, b; FX checked by the caller. -/
def RawS.s3 (r : RawS) : Dec S3 := do
  let b ← sSrc r.i r.sb
  return ⟨guardOf r.g, r.sd, r.sa, b⟩

/-- S-form with d, a, b and FX zero. -/
def RawS.s3z (r : RawS) : Dec S3 := do
  let o ← r.s3
  needBun (r.fx == 0)
  return o

/-- S-form with d, a, b and FX 0 or 1: the signedness bit (R101, R102, R105). -/
def RawS.s3u (r : RawS) : Dec (S3 × Bool) := do
  let o ← r.s3
  needBun (r.fx.extractLsb' 1 6 == 0)
  return (o, isSet (r.fx.extractLsb' 0 1))

/-- S-form with d and a only (R103). -/
def RawS.s2 (r : RawS) : Dec S2 := do
  needBun (r.noB && r.fx == 0)
  return ⟨guardOf r.g, r.sd, r.sa⟩

/-- MOVS by its FX (R110). -/
def decodeMovs (r : RawS) : Dec Instr := do
  let g := guardOf r.g
  needBun (isSet r.i)
  match r.fx.toNat with
  | 0 => needBun (r.sa == 0 && r.sb == 0); return .movsRf g r.sd
  | 1 => needBun (r.sd == 0 && r.sb == 0); return .movsWf g r.sa
  | 2 => needBun (r.sa == 0 && r.sb.extractLsb' 3 11 == 0 && decide ((r.sb.extractLsb' 0 3).toNat ≤ 5))
         return .movsLc g r.sd (r.sb.extractLsb' 0 3)
  | 3 => needBun (r.sa == 0 && r.sb.extractLsb' 5 9 == 0)
         return .movsRp g r.sd (r.sb.extractLsb' 0 3) (r.sb.extractLsb' 3 2)
  | 4 => needBun (r.sd == 0 && r.sb.extractLsb' 5 9 == 0)
         needOp (r.sb.extractLsb' 0 3 != 0)
         return .movsWp g (r.sb.extractLsb' 0 3) (r.sb.extractLsb' 3 2) r.sa
  | 5 => needBun (r.sa == 0 && r.sb.extractLsb' 2 12 == 0)
         return .movsRm g r.sd (r.sb.extractLsb' 0 2)
  | _ => .error .illegalBundle

/-- The B-form opcodes (R37, R116 to R119). -/
def decodeB (r : RawB) (bw : Option SlotWord) : Dec Instr := do
  let g := guardOf r.c
  match r.op.toNat with
  | 0x40 => needOp (r.aux == 0); return .bru g r.off
  | 0x41 => needOp (r.aux == 0); return .brv g r.off
  | 0x42 =>
    needOp (r.aux == 0)
    match bw with
    | none => .error .illegalBundle
    | some w =>
      needBun (w.extractLsb' 36 12 == 0)
      return .brd g r.off (guardOf (w.extractLsb' 32 4)) (w.extractLsb' 16 16) (w.extractLsb' 0 16)
  | 0x43 => needOp (r.aux == 0); return .jmp g r.off
  | 0x44 =>
    let n ← sSpec r.aux
    needOp (even n && n != 0)
    return .call g r.off n
  | 0x4A =>
    let n ← vSpec r.aux
    needOp (r.c == 0)
    return .chk r.off n
  | _ => .error .illegalOpcode

/-- Opcodes of the S class that SA and SB both accept (R28, R41): arithmetic, moves, addresses. -/
def decodeAlu (r : RawS) (bw : Option SlotWord) : Dec Instr := do
  let g := guardOf r.g
  match r.op.toNat with
  | 0x01 => return .iadd (← r.s3z)
  | 0x02 => return .isub (← r.s3z)
  | 0x03 => return .imul (← r.s3z)
  | 0x04 => let x ← r.s3u; return .imulh x.1 x.2
  | 0x05 => return .imad (← r.s3) r.fx
  | 0x06 => let x ← r.s3u; return .idiv x.1 x.2
  | 0x07 => let x ← r.s3u; return .irem x.1 x.2
  | 0x08 => return .iand (← r.s3z)
  | 0x09 => return .ior (← r.s3z)
  | 0x0A => return .ixor (← r.s3z)
  | 0x0B => return .iandn (← r.s3z)
  | 0x0C => return .shl (← r.s3z)
  | 0x0D => return .shr (← r.s3z)
  | 0x0E => return .shra (← r.s3z)
  | 0x0F => return .rot (← r.s3z)
  | 0x10 => return .clz (← r.s2)
  | 0x11 => return .popc (← r.s2)
  | 0x12 => return .brev (← r.s2)
  | 0x13 =>
    let o ← r.s3
    needBun (r.fx.extractLsb' 6 1 == 0)
    return .bfx o (r.fx.extractLsb' 0 5) (isSet (r.fx.extractLsb' 5 1))
  | 0x14 =>
    let o ← r.s3
    needBun (r.fx.extractLsb' 5 2 == 0)
    return .bfi o (r.fx.extractLsb' 0 5)
  | 0x15 => let x ← r.s3u; return .imin x.1 x.2
  | 0x16 => let x ← r.s3u; return .imax x.1 x.2
  | 0x17 =>
    let b ← sSrc r.i r.sb
    needBun (r.fx.extractLsb' 4 3 == 0 && r.sd.extractLsb' 3 4 == 0)
    match condOf (r.fx.extractLsb' 0 4) with
    | none => .error .illegalBundle
    | some c =>
      needOp (r.sd.extractLsb' 0 3 != 0)
      return .icmp g (r.sd.extractLsb' 0 3) r.sa b c
  | 0x18 =>
    let o ← r.s3
    needBun (r.fx.extractLsb' 4 3 == 0)
    return .sel o (r.fx.extractLsb' 0 3) (isSet (r.fx.extractLsb' 3 1))
  | 0x19 =>
    needBun (r.sa == 0 && isSet r.i && r.fx == 0)
    return .movi g r.sd r.sb
  | 0x1A =>
    needBun (r.sa == 0 && r.sb == 0 && r.fx == 0)
    match bw with
    | none => .error .illegalBundle
    | some w =>
      if isSet r.i then
        needOp (even r.sd)
        return .limmB64 g r.sd w
      else
        needBun (w.extractLsb' 32 16 == 0)
        return .limmB32 g r.sd (w.extractLsb' 0 32)
  | 0x1B => decodeMovs r
  | 0x1C =>
    let o ← r.s3z
    needOp (even o.d && even o.a && o.b.evenOk)
    return .aadd o
  | 0x1D =>
    let o ← r.s3
    needBun (r.fx.extractLsb' 4 3 == 0)
    needOp (even o.d && even o.a)
    return .alea o (r.fx.extractLsb' 0 3) (isSet (r.fx.extractLsb' 3 1))
  | 0x1E =>
    needBun (r.i == 0#1 && r.sb.extractLsb' 3 11 == 0 && r.sd.extractLsb' 3 4 == 0 &&
      r.sa.extractLsb' 3 4 == 0 && r.fx.extractLsb' 4 3 == 0)
    needOp (r.sd.extractLsb' 0 3 != 0)
    return .flop g (r.sd.extractLsb' 0 3) (r.sa.extractLsb' 0 3) (r.sb.extractLsb' 0 3)
      (r.fx.extractLsb' 0 4)
  | 0x1F =>
    needBun (r.sa == 0 && r.noB && r.fx == 0)
    needOp (even r.sd)
    return .rdgcc g r.sd
  | 0x20 =>
    needBun (r.sa == 0 && r.noB && r.fx.extractLsb' 3 4 == 0)
    return .rdid g r.sd (r.fx.extractLsb' 0 3)
  | _ => .error .illegalOpcode

/-- The register number of CTLR and CTLW: an immediate has bits 13:12 zero (R262). DEDUCED, log entry 100: another number is
not assigned. -/
def ctlNum (r : RawS) : Dec SSrc := do
  let b ← sSrc r.i r.sb
  match b with
  | .imm i => needOp (i.extractLsb' 12 2 == 0); return b
  | .reg _ => return b

/-- Opcodes of the S class that both slots accept among 0x40 to 0x7F (R28). -/
def decodeBothCtl (r : RawS) : Dec Instr := do
  let g := guardOf r.g
  match r.op.toNat with
  | 0x50 =>
    needBun (r.sd == 0 && r.sa == 0 && isSet r.i && r.sb.extractLsb' 8 6 == 0 &&
      r.sb.extractLsb' 0 8 != 0 && r.fx.extractLsb' 6 1 == 0)
    return .waita g (r.sb.extractLsb' 0 8) (r.fx.extractLsb' 0 6)
  | 0x52 =>
    let b ← sSrc r.i r.sb
    needBun (r.sd == 0 && r.sa == 0 && r.fx.extractLsb' 5 2 == 0)
    return .bar g b (r.fx.extractLsb' 0 4) (isSet (r.fx.extractLsb' 4 1))
  | 0x53 =>
    let b ← sSrc r.i r.sb
    needBun (r.sd == 0 && r.sa == 0 && r.fx.extractLsb' 5 2 == 0)
    return .barq g b (r.fx.extractLsb' 0 4) (isSet (r.fx.extractLsb' 4 1))
  | 0x63 =>
    let b ← ctlNum r
    needBun (r.sa == 0 && r.fx == 0)
    return .ctlr g r.sd b
  | 0x64 =>
    let b ← ctlNum r
    needBun (r.sd == 0 && r.fx == 0)
    return .ctlw g r.sa b
  | _ => .error .illegalOpcode

/-- Privilege check of R46. -/
def needLevel (lv min : Level) : Dec Unit := need (decide (min.num ≤ lv.num)) .privilege

/-- Opcodes of the S class accepted in SA only, other than the B-form (R28, R41). -/
def decodeSaCtl (lv : Level) (r : RawS) : Dec Instr := do
  let g := guardOf r.g
  match r.op.toNat with
  | 0x45 =>
    needBun (r.sd == 0 && r.noB && r.fx == 0)
    needOp (even r.sa && r.sa != 0)
    return .ret g r.sa
  | 0x46 =>
    let b ← sSrc r.i r.sb
    needBun (r.sd == 0 && r.sa == 0 && r.fx.extractLsb' 6 1 == 0)
    return .loop g b (r.fx.extractLsb' 0 6)
  | 0x47 =>
    let b ← sSrc r.i r.sb
    needBun (r.sa == 0 && r.fx.extractLsb' 4 3 == 0 && decide ((r.fx.extractLsb' 0 3).toNat ≤ 5))
    return .lstr g r.sd b (r.fx.extractLsb' 0 3) (isSet (r.fx.extractLsb' 3 1))
  | 0x48 => needBun (r.sd == 0 && r.sa == 0 && r.noB && r.fx == 0); return .yield g
  | 0x49 => needBun (r.sd == 0 && r.sa == 0 && r.noB && r.fx == 0); return .exit g
  | 0x51 =>
    needBun (isSet r.i && r.sb.extractLsb' 8 6 == 0 && r.sd.extractLsb' 4 3 == 0 &&
      r.fx.extractLsb' 1 6 == 0)
    needOp (r.sd.extractLsb' 0 3 != 0)
    return .twait g (isSet (r.sd.extractLsb' 3 1)) (r.sd.extractLsb' 0 3) r.sa
      (r.sb.extractLsb' 0 8) (isSet (r.fx.extractLsb' 0 1))
  | 0x54 =>
    let b ← sSrc r.i r.sb
    needBun (r.sd == 0 && r.fx == 0)
    return .phase g r.sa b
  | 0x55 =>
    let b ← sSrc r.i r.sb
    needBun (r.sd == 0 && r.sa == 0 && r.fx == 0)
    return .phwait g b
  | 0x60 =>
    let b ← sSrc r.i r.sb
    needBun (r.sd == 0 && r.sa == 0 && r.fx == 0)
    return .trap g b
  | 0x61 =>
    let b ← sSrc r.i r.sb
    needBun (r.sd == 0 && r.sa == 0 && r.fx == 0)
    return .sys g b
  | 0x62 =>
    needLevel lv .s
    needBun (r.sd == 0 && r.sa == 0 && r.noB && r.fx == 0)
    return .eret g
  | 0x65 =>
    needLevel lv .s
    needBun (r.sd == 0 && r.noB && r.fx.extractLsb' 4 3 == 0)
    needOp (even r.sa && decide ((r.fx.extractLsb' 0 3).toNat ≤ 5))
    return .segw g r.sa (r.fx.extractLsb' 0 3) (isSet (r.fx.extractLsb' 3 1))
  | 0x66 =>
    needLevel lv .s
    needBun (r.noB && r.fx.extractLsb' 1 6 == 0)
    return .prmt g r.sd r.sa (isSet (r.fx.extractLsb' 0 1))
  | 0x67 =>
    needLevel lv .f
    return .wfw (← r.s3z)
  | 0x68 =>
    needBun (r.noB && r.fx.extractLsb' 2 5 == 0)
    needOp (even r.sa)
    return .launch g r.sd r.sa (r.fx.extractLsb' 0 2)
  | 0x69 =>
    let b ← sSrc r.i r.sb
    needBun (r.sd == 0 && r.sa == 0 && r.fx == 0)
    return .role g b
  | 0x6A =>
    needBun (r.noB && r.fx.extractLsb' 2 5 == 0)
    match (r.fx.extractLsb' 0 2).toNat with
    | 0 => needBun (r.sa == 0); needOp (even r.sd); return .wdogRd g r.sd
    | 1 => needBun (r.sd == 0); needOp (even r.sa); return .wdogLower g r.sa
    | 2 => needBun (r.sd == 0); needOp (even r.sa); return .wdogSet g r.sa
    | _ => .error .illegalBundle
  | 0x6B =>
    let b ← sSrc r.i r.sb
    needBun (r.fx.extractLsb' 2 5 == 0)
    match (r.fx.extractLsb' 0 2).toNat with
    | 0 => needBun (r.sa == 0); return .govr g r.sd b
    | 1 => needBun (r.sd == 0); return .govrW g r.sa b
    | 2 => needBun (r.sa == 0); needOp (even r.sd); return .govrP g r.sd b
    | _ => needBun (r.sd == 0); needOp (even r.sa); return .govrWp g r.sa b
  | _ => .error .illegalOpcode

/-- Whether the opcode uses the B-form (R41). -/
def isBOp (op : BitVec 8) : Bool :=
  op == 0x40 || op == 0x41 || op == 0x42 || op == 0x43 || op == 0x44 || op == 0x4A

/-- A slot word of the S class in SA (`inSa`) or SB (R28, R40, R41). -/
def decodeS (inSa : Bool) (lv : Level) (w : SlotWord) (bw : Option SlotWord) : Dec Instr :=
  let r := RawS.ofWord w
  if r.op.toNat < 0x40 then decodeAlu r bw
  else match decodeBothCtl r with
    | .error .illegalOpcode =>
      if inSa then
        if isBOp r.op then decodeB (RawB.ofWord w) bw else decodeSaCtl lv r
      else .error .illegalOpcode
    | x => x

/-! ## The V class (R31, R42, R129 to R153) -/

/-- The form-wide rules of R31 on dead bits and KI. -/
def RawV.formOk (r : RawV) : Bool :=
  (r.da == 0 || (r.sra.extractLsb' 9 1 == 0)) && (r.db == 0 || (r.srb.extractLsb' 9 1 == 0)) &&
  (isSet r.kc || r.ki == 0)

/-- The second source field is not read: it and DB are zero (R31). -/
def RawV.noB (r : RawV) : Bool := r.srb == 0 && r.db == 0

def RawV.v1 (r : RawV) : Dec V1 := do
  needOp r.formOk
  let d ← dstSpec r.dst
  let a ← srcSpec r.sra
  return ⟨guardOf r.p, d, a, isSet r.da, isSet r.kc, r.ki⟩

/-- One source, SRB not read (R31). -/
def RawV.v1z (r : RawV) : Dec V1 := do
  let o ← r.v1
  needOp r.noB
  return o

/-- One source, SRB an 8-bit immediate of the entry's own (R39). -/
def RawV.v1i (r : RawV) : Dec (V1 × Byte) := do
  let o ← r.v1
  let b ← immSpec r.srb
  return (o, b)

def RawV.v2 (r : RawV) : Dec V2 := do
  needOp r.formOk
  let d ← dstSpec r.dst
  let a ← srcSpec r.sra
  let b ← srcSpec r.srb
  return ⟨guardOf r.p, d, a, b, isSet r.da, isSet r.db, isSet r.kc, r.ki⟩

/-- FFMAK: KI names the addend whatever KC (R31, R134). -/
def RawV.v2k (r : RawV) : Dec V2 := do
  needOp ((r.da == 0 || (r.sra.extractLsb' 9 1 == 0)) && (r.db == 0 || (r.srb.extractLsb' 9 1 == 0)))
  let d ← dstSpec r.dst
  let a ← srcSpec r.sra
  let b ← srcSpec r.srb
  return ⟨guardOf r.p, d, a, b, isSet r.da, isSet r.db, isSet r.kc, r.ki⟩

def RawV.vacc (r : RawV) : Dec VAcc := do
  needOp r.formOk
  let d ← vSpec r.dst
  let a ← srcSpec r.sra
  let b ← srcSpec r.srb
  return ⟨guardOf r.p, d, a, b, isSet r.da, isSet r.db, isSet r.kc, r.ki⟩

/-- A compare: DST holds 1 to 7, KC and KI zero (R131). -/
def RawV.vcmp (r : RawV) : Dec VCmp := do
  needOp (r.formOk && r.kc == 0 && r.dst.extractLsb' 3 7 == 0 && r.dst.extractLsb' 0 3 != 0)
  let a ← srcSpec r.sra
  let b ← srcSpec r.srb
  return ⟨guardOf r.p, r.dst.extractLsb' 0 3, a, b, isSet r.da, isSet r.db⟩

def fcondOf (n : BitVec 3) : FCond :=
  match n.toNat with
  | 0 => .eq
  | 1 => .ne
  | 2 => .lt
  | 3 => .le
  | 4 => .gt
  | 5 => .ge
  | 6 => .ord
  | _ => .uno

def FCond.code : FCond → BitVec 3
  | .eq => 0
  | .ne => 1
  | .lt => 2
  | .le => 3
  | .gt => 4
  | .ge => 5
  | .ord => 6
  | .uno => 7

def frndOf (b : Byte) : Option FrndMode :=
  match b.toNat with
  | 0 => some .rne
  | 1 => some .rz
  | 2 => some .ru
  | 3 => some .rd
  | 4 => some .dyn
  | _ => none

def FrndMode.code : FrndMode → Byte
  | .rne => 0
  | .rz => 1
  | .ru => 2
  | .rd => 3
  | .dyn => 4

def cvtFmtOf (n : BitVec 4) : Option CvtFmt :=
  match n.toNat with
  | 0 => some .f32
  | 1 => some .h16
  | 2 => some .bf16
  | 3 => some .e4m3
  | 4 => some .e5m2
  | 8 => some .i8
  | 9 => some .n8
  | 10 => some .i16
  | 11 => some .n16
  | 12 => some .i32
  | 13 => some .n32
  | _ => none

def CvtFmt.code : CvtFmt → BitVec 4
  | .f32 => 0
  | .h16 => 1
  | .bf16 => 2
  | .e4m3 => 3
  | .e5m2 => 4
  | .i8 => 8
  | .n8 => 9
  | .i16 => 10
  | .n16 => 11
  | .i32 => 12
  | .n32 => 13

/-- Width in bits of a CVT element. -/
def CvtFmt.width : CvtFmt → Nat
  | .f32 | .i32 | .n32 => 32
  | .h16 | .bf16 | .i16 | .n16 => 16
  | .e4m3 | .e5m2 | .i8 | .n8 => 8

def rmoOf (n : BitVec 3) : Option Rmo :=
  match n.toNat with
  | 0 => some .rne
  | 1 => some .rz
  | 2 => some .ru
  | 3 => some .rd
  | 4 => some .sr
  | 7 => some .dyn
  | _ => none

def Rmo.code : Rmo → BitVec 3
  | .rne => 0
  | .rz => 1
  | .ru => 2
  | .rd => 3
  | .sr => 4
  | .dyn => 7

def mxOf (n : BitVec 4) : Option MxFmt :=
  match n.toNat with
  | 3 => some .e4m3
  | 4 => some .e5m2
  | 5 => some .e2m1
  | _ => none

def MxFmt.code : MxFmt → BitVec 4
  | .e4m3 => 3
  | .e5m2 => 4
  | .e2m1 => 5

def patOf (n : BitVec 2) : VlanePat :=
  match n.toNat with
  | 0 => .xor
  | 1 => .add
  | 2 => .bcast
  | _ => .rev

def VlanePat.code : VlanePat → BitVec 2
  | .xor => 0
  | .add => 1
  | .bcast => 2
  | .rev => 3

/-- The borrowed word of CVT (R147). -/
def cvtWord (w : SlotWord) : Option (CvtFmt × CvtFmt × Rmo × BitVec 3) :=
  match cvtFmtOf (w.extractLsb' 12 4), cvtFmtOf (w.extractLsb' 8 4), rmoOf (w.extractLsb' 5 3) with
  | some sf, some df, some rm =>
    let sp : BitVec 3 := w.extractLsb' 2 3
    if w.extractLsb' 16 32 = 0 ∧ w.extractLsb' 0 2 = 0 ∧ sp.toNat * sf.width < 32 then
      some (sf, df, rm, sp)
    else none
  | _, _, _ => none

/-- The borrowed word of CVTMX and CVTXM (R148). -/
def mxWord (w : SlotWord) : Option (MxFmt × Rmo) :=
  match mxOf (w.extractLsb' 12 4), rmoOf (w.extractLsb' 5 3) with
  | some ef, some rm =>
    if w.extractLsb' 16 32 = 0 ∧ w.extractLsb' 8 4 = 0 ∧ w.extractLsb' 0 5 = 0 then some (ef, rm) else none
  | _, _ => none

def needSome {α : Type} (x : Option α) (e : DecErr) : Dec α :=
  match x with
  | some a => .ok a
  | none => .error e

/-- A slot word of the V class (R42). -/
def decodeV (w : SlotWord) (bw : Option SlotWord) : Dec Instr := do
  let r := RawV.ofWord w
  match r.op.toNat with
  | 0x01 => return .fadd (← r.v2)
  | 0x02 => return .fsub (← r.v2)
  | 0x03 => return .fmul (← r.v2)
  | 0x04 => return .ffma (← r.vacc)
  | 0x05 => return .ffmak (← r.v2k)
  | 0x06 => return .fmin (← r.v2)
  | 0x07 => return .fmax (← r.v2)
  | 0x08 => return .fclass (← r.v1z)
  | 0x09 =>
    let x ← r.v1i
    return .frnd x.1 (← needSome (frndOf x.2) .illegalOperand)
  | 0x10 | 0x11 | 0x12 | 0x13 | 0x14 | 0x15 | 0x16 | 0x17 =>
    return .fcmp (← r.vcmp) (fcondOf (r.op.extractLsb' 0 3))
  | 0x20 => return .hadd2 (← r.v2) .h16
  | 0x21 => return .hmul2 (← r.v2) .h16
  | 0x22 => return .hfma2 (← r.vacc) .h16
  | 0x23 => return .hdot2 (← r.vacc) .h16
  | 0x24 => return .hadd2 (← r.v2) .bf16
  | 0x25 => return .hmul2 (← r.v2) .bf16
  | 0x26 => return .hfma2 (← r.vacc) .bf16
  | 0x27 => return .hdot2 (← r.vacc) .bf16
  | 0x40 => return .vadd (← r.v2)
  | 0x41 => return .vsub (← r.v2)
  | 0x42 => return .vmul (← r.v2)
  | 0x43 => return .vmulh (← r.v2) false
  | 0x44 => return .vmulh (← r.v2) true
  | 0x45 => return .vmad (← r.vacc)
  | 0x46 => return .vmin (← r.v2) false
  | 0x47 => return .vmin (← r.v2) true
  | 0x48 => return .vmax (← r.v2) false
  | 0x49 => return .vmax (← r.v2) true
  | 0x4A => return .vabs (← r.v1z)
  | 0x4B => return .vand (← r.v2)
  | 0x4C => return .vor (← r.v2)
  | 0x4D => return .vxor (← r.v2)
  | 0x4E => return .vandn (← r.v2)
  | 0x4F => return .vmov (← r.v1z)
  | 0x50 => return .vshl (← r.v2)
  | 0x51 => return .vshr (← r.v2)
  | 0x52 => return .vshra (← r.v2)
  | 0x53 => return .vpopc (← r.v1z)
  | 0x54 => return .vclz (← r.v1z)
  | 0x55 => return .vbfx (← r.v2) false
  | 0x56 => return .vbfx (← r.v2) true
  | 0x57 => return .vbfi (← r.vacc)
  | 0x58 => return .vsel (← r.v2)
  | 0x59 => return .vdot4 (← r.vacc) false
  | 0x5A => return .vdot4 (← r.vacc) true
  | 0x60 | 0x61 | 0x62 | 0x63 | 0x64 | 0x65 | 0x66 | 0x67 | 0x68 | 0x69 =>
    let o ← r.vcmp
    return .vcmp o (← needSome (condOf (r.op.extractLsb' 0 4)) .illegalOpcode)
  | 0x70 =>
    let o ← r.v1z
    let b ← needSome bw .illegalBundle
    let x ← needSome (cvtWord b) .illegalBundle
    return .cvt o x.1 x.2.1 x.2.2.1 x.2.2.2
  | 0x71 =>
    let o ← r.v1z
    let b ← needSome bw .illegalBundle
    let x ← needSome (mxWord b) .illegalBundle
    return .cvtmx o x.1 x.2
  | 0x72 =>
    let o ← r.v1z
    let b ← needSome bw .illegalBundle
    let x ← needSome (mxWord b) .illegalBundle
    return .cvtxm o x.1 x.2
  | 0x73 => return .pack (← r.v2)
  | 0x74 =>
    let x ← r.v1i
    needOp (x.2.extractLsb' 4 4 == 0 && (x.2.extractLsb' 2 1 == 0 || x.2.extractLsb' 1 1 == 0))
    return .unpk x.1 (isSet (x.2.extractLsb' 3 1)) (isSet (x.2.extractLsb' 2 1)) (x.2.extractLsb' 0 2)
  | 0x75 => return .perm (← r.v2)
  | 0x76 =>
    let x ← r.v1i
    needOp (x.2.extractLsb' 4 4 == 0)
    return .xsh x.1 (isSet (x.2.extractLsb' 3 1)) (x.2.extractLsb' 0 3)
  | 0x77 =>
    let x ← r.v1i
    needOp (x.2.extractLsb' 4 2 == 0 && (x.2.extractLsb' 6 2 != 3 || x.2.extractLsb' 0 4 == 0))
    return .vlane x.1 (patOf (x.2.extractLsb' 6 2)) (x.2.extractLsb' 0 4)
  | 0x78 =>
    needOp (r.formOk && r.sra == 0 && r.da == 0 && r.noB)
    return .vrand ⟨guardOf r.p, ← dstSpec r.dst, isSet r.kc, r.ki⟩
  | 0x79 =>
    needOp (r.dst == 0 && r.kc == 0 && r.ki == 0 && r.da == 0 && r.db == 0)
    return .mode (guardOf r.p) (← immOrS r.sra) (← immOrS r.srb)
  | _ => .error .illegalOpcode

/-! ## The X class (R36, R43, R45, R154 to R158, R196 to R259) -/

/-- RED.ADD, RED.MIN, RED.MAX (R156). -/
def RawV.vred (r : RawV) : Dec VRed := do
  needOp (r.formOk && r.kc == 0 && r.db == 0)
  let a ← srcSpec r.sra
  let b ← immSpec r.srb
  match Spec.ofCode r.dst with
  | some (.ps n) =>
    needOp (b.extractLsb' 6 2 == 0)
    let ty ← match (b.extractLsb' 3 2).toNat with
      | 0 => .ok RedTy.f32
      | 1 => .ok RedTy.i32
      | 2 => .ok RedTy.n32
      | _ => .error DecErr.illegalOperand
    return ⟨guardOf r.p, n, a, isSet r.da, isSet (b.extractLsb' 5 1), ty, b.extractLsb' 0 3⟩
  | _ => .error .illegalOperand

def RedTy.code : RedTy → BitVec 2
  | .f32 => 0
  | .i32 => 1
  | .n32 => 2

def fillOf (n : BitVec 3) : Option FillCode :=
  match n.toNat with
  | 0 => some .zero
  | 1 => some .negzero
  | 2 => some .pinf
  | 3 => some .ninf
  | 4 => some .imax
  | 5 => some .ones
  | _ => none

def FillCode.code : FillCode → BitVec 3
  | .zero => 0
  | .negzero => 1
  | .pinf => 2
  | .ninf => 3
  | .imax => 4
  | .ones => 5

/-- The V-form half of the X class (R43). -/
def decodeXV (r : RawV) : Dec Instr := do
  match r.op.toNat with
  | 0x01 => return .rcp (← r.v1z)
  | 0x02 => return .rsq (← r.v1z)
  | 0x03 => return .sqrt (← r.v1z)
  | 0x04 => return .exp2 (← r.v1z)
  | 0x05 => return .log2 (← r.v1z)
  | 0x06 => return .sin (← r.v1z)
  | 0x07 => return .cos (← r.v1z)
  | 0x08 => return .tanh (← r.v1z)
  | 0x11 => return .rcpA (← r.v1z)
  | 0x12 => return .rsqA (← r.v1z)
  | 0x13 => return .sqrtA (← r.v1z)
  | 0x14 => return .exp2A (← r.v1z)
  | 0x15 => return .log2A (← r.v1z)
  | 0x16 => return .sinA (← r.v1z)
  | 0x17 => return .cosA (← r.v1z)
  | 0x18 => return .tanhA (← r.v1z)
  | 0x20 => return .redAdd (← r.vred)
  | 0x21 => return .redMin (← r.vred)
  | 0x22 => return .redMax (← r.vred)
  | 0x23 =>
    needOp (r.formOk && r.da == 0 && r.db == 0)
    let d ← dstSpec r.dst
    let b ← immSpec r.srb
    needOp (b.extractLsb' 3 5 == 0)
    match Spec.ofCode r.sra with
    | some (.ps n) => return .rdrn (guardOf r.p) d n (b.extractLsb' 0 3) (isSet r.kc) r.ki
    | _ => .error .illegalOperand
  | 0x24 =>
    needOp (r.kc == 0 && r.ki == 0 && r.da == 0 && r.noB && r.dst.extractLsb' 2 8 == 0)
    let b ← immSpec r.sra
    needOp (b.extractLsb' 3 5 == 0)
    return .rclr (guardOf r.p) (r.dst.extractLsb' 0 2) (← needSome (fillOf (b.extractLsb' 0 3)) .illegalOperand)
  | _ => .error .illegalOpcode

/-- How an X-form command uses its arrival fields (R45). -/
inductive ArrivalRule where
  | required | optional | none
  deriving DecidableEq, Repr

/-- The X-form field rules of R36 and R45. -/
def RawX.ctl (r : RawX) (inRegion : Bool) (k : ArrivalRule) : Dec XCtl := do
  needBun (inRegion || r.sco == 0)
  match k with
  | .required => needBun (isSet r.ae)
  | .optional => .ok ()
  | .none => needBun (r.ae == 0 && r.ac == 0)
  return ⟨guardOf r.p, r.sco, isSet r.ae, r.ac⟩

/-- A vector block operand of `size` registers: N a multiple of size, within v511 (R231). -/
def blockSpec (c : BitVec 10) (size : Nat) : Dec (BitVec 9) := do
  let n ← vSpec c
  needOp (decide (n.toNat % size = 0))
  return n

/-- The X-form half of the X class (R43). -/
def decodeXX (inRegion : Bool) (r : RawX) : Dec Instr := do
  match r.op.toNat with
  | 0x40 =>
    let x ← r.ctl inRegion .optional
    return .mcall x (← immOrS r.opa) (← immOrS r.opb)
  | 0x41 =>
    let x ← r.ctl inRegion .none
    needOp (r.opa.extractLsb' 3 7 == 0)
    let v ← immOrS r.opb
    needOp (match v with | .imm _ => true | .s n => even n)
    return .mpar x (r.opa.extractLsb' 0 3) v
  | 0x42 =>
    let x ← r.ctl inRegion .none
    needOp (r.opb == 0)
    return .mfmt x (← immOrS r.opa)
  | 0x43 =>
    let x ← r.ctl inRegion .required
    needOp (r.opb == 0)
    return .mstat x (← sPair r.opa)
  | 0x44 =>
    let x ← r.ctl inRegion .none
    return .mpsw x (← sPair r.opa) (← sSpec r.opb)
  | 0x45 =>
    let x ← r.ctl inRegion .optional
    let a ← sPair r.opa
    let b ← immSpec r.opb
    needOp (b.extractLsb' 1 7 == 0)
    return .wst x a (isSet (b.extractLsb' 0 1))
  | 0x46 =>
    let x ← r.ctl inRegion .required
    needOp (r.opb == 0)
    return .wstat x (← sPair r.opa)
  | 0x50 =>
    let x ← r.ctl inRegion .required
    return .rqCl x (← blockSpec r.opa 8) (← sPair r.opb)
  | 0x51 =>
    let x ← r.ctl inRegion .required
    return .rqAn x (← blockSpec r.opa 8) (← sPair r.opb)
  | 0x52 =>
    let x ← r.ctl inRegion .required
    return .rqOc x (← blockSpec r.opa 8) (← sPair r.opb)
  | 0x53 =>
    let x ← r.ctl inRegion .optional
    needOp (r.opb == 0)
    return .bvhb x (← sPair r.opa)
  | 0x54 =>
    let x ← r.ctl inRegion .optional
    needOp (r.opb == 0)
    return .bvhf x (← sPair r.opa)
  | 0x58 =>
    let x ← r.ctl inRegion .required
    return .texS x (← blockSpec r.opa 4) (← sPair r.opb)
  | 0x59 =>
    let x ← r.ctl inRegion .required
    return .texF x (← blockSpec r.opa 4) (← sPair r.opb)
  | 0x5A =>
    let x ← r.ctl inRegion .required
    return .texL x (← blockSpec r.opa 4) (← sPair r.opb)
  | 0x5B =>
    let x ← r.ctl inRegion .required
    return .texq x (← blockSpec r.opa 4) (← sPair r.opb)
  | 0x60 =>
    let x ← r.ctl inRegion .optional
    let a ← sPair r.opa
    needOp (r.opb.extractLsb' 2 8 == 0)
    return .copy x a (r.opb.extractLsb' 0 2)
  | 0x61 =>
    let x ← r.ctl inRegion .optional
    needOp (r.opb == 0)
    return .cmpt x (← sPair r.opa)
  | 0x62 =>
    let x ← r.ctl inRegion .required
    return .cmpq x (← sPair r.opa) (← sSpec r.opb)
  | 0x63 =>
    let x ← r.ctl inRegion .none
    needOp (r.opa.extractLsb' 9 1 == 0 && r.opa.extractLsb' 0 9 != 0 && r.opb.extractLsb' 3 7 == 0)
    return .mark x (r.opa.extractLsb' 0 9) (r.opb.extractLsb' 0 3)
  | 0x64 =>
    let x ← r.ctl inRegion .required
    needOp (r.opa.extractLsb' 3 7 == 0 && r.opb == 0)
    return .markw x (r.opa.extractLsb' 0 3)
  | _ => .error .illegalOpcode

/-- A slot word of the X class (R28, R43). -/
def decodeX (inRegion : Bool) (w : SlotWord) : Dec Instr :=
  if (RawX.ofWord w).op.toNat < 0x40 then decodeXV (RawV.ofWord w) else decodeXX inRegion (RawX.ofWord w)

/-! ## The M class (R33 to R35, R44, R160 to R193, R249 to R252) -/

/-- Segment codes (R35). -/
def sgl : BitVec 3 := 0
def sgs : BitVec 3 := 1
def sgq : BitVec 3 := 2
def sgc : BitVec 3 := 3
def sgf : BitVec 3 := 4
def sgt : BitVec 3 := 5

/-- The address operand of a segmented access: a pair for sgl and sgf, any source otherwise (R160). -/
def adrOk (seg : BitVec 3) (a : Spec) : Bool :=
  if seg == sgl || seg == sgf then
    match a with
    | .v n => even n
    | .s n => even n
    | _ => false
  else a.isSrc

/-- What a data specifier is used for. -/
inductive DatUse where
  | load | src | vOnly
  deriving DecidableEq, Repr

def datOk (u : DatUse) (d : Spec) : Bool :=
  match u with
  | .load => d.isDst
  | .src => d.isSrc
  | .vOnly => d.isV

/-- The operands of an M-form access. The address may be marked dead only where it is a vN. DESIGN CHOICE, log entry 123. -/
def RawM.mops (r : RawM) (segs : List (BitVec 3)) (u : DatUse) : Dec MOps := do
  needOp (segs.contains r.seg)
  let d ← needSome (Spec.ofCode r.dat) .illegalOperand
  let a ← needSome (Spec.ofCode r.adr) .illegalOperand
  needOp (datOk u d && adrOk r.seg a && (r.ad == 0 || a.isV))
  return ⟨guardOf r.p, d, r.seg, a, r.ofs, isSet r.ad⟩

/-- The operands of an MW-form access. The address may be marked dead only where it is a vN. DESIGN CHOICE, log entry 123. -/
def RawW.mwops (r : RawW) (segs : List (BitVec 3)) (u : DatUse) : Dec MWOps := do
  needOp (segs.contains r.seg)
  let d ← needSome (Spec.ofCode r.dat) .illegalOperand
  let a ← needSome (Spec.ofCode r.adr) .illegalOperand
  needOp (datOk u d && adrOk r.seg a && (r.ad == 0 || a.isV))
  return ⟨guardOf r.p, d, r.seg, a, r.ofs, r.ac, isSet r.ad⟩

/-- The data operand of an atomic (R172). -/
def atomDatOk (op : AtomOp) (d : Spec) : Bool :=
  match op.isCas, op.wide, d with
  | true, false, .v n => even n
  | true, true, .v n => even n && n.getLsbD 1 == false
  | false, true, .v n => even n
  | false, true, .s n => even n
  | false, false, .v _ => true
  | false, false, .s _ => true
  | false, false, .k _ => true
  | false, false, .latch _ => true
  | false, false, .ps _ => true
  | false, false, .imm _ => true
  | _, _, _ => false

/-- The atomic operation of the low part of an atomic opcode (R44): 0x40 to 0x4B and 0x50 to 0x59. -/
def atomOpOf (wide : Bool) (n : BitVec 4) : Option AtomOp :=
  match n.toNat with
  | 0 => some (.add wide)
  | 1 => some (.min wide false)
  | 2 => some (.min wide true)
  | 3 => some (.max wide false)
  | 4 => some (.max wide true)
  | 5 => some (.and wide)
  | 6 => some (.or wide)
  | 7 => some (.xor wide)
  | 8 => some (.exch wide)
  | 9 => some (.cas wide)
  | 10 => if wide then none else some .addF32
  | 11 => if wide then none else some .addBf16
  | _ => none

def AtomOp.low : AtomOp → BitVec 4
  | .add _ => 0
  | .min _ u => if u then 2 else 1
  | .max _ u => if u then 4 else 3
  | .and _ => 5
  | .or _ => 6
  | .xor _ => 7
  | .exch _ => 8
  | .cas _ => 9
  | .addF32 => 10
  | .addBf16 => 11

/-- The constructor of a plain atomic. -/
def atomInstr (o : MWOps) : AtomOp → Instr
  | .add w => .atomAdd o w
  | .min w u => .atomMin o w u
  | .max w u => .atomMax o w u
  | .and w => .atomAnd o w
  | .or w => .atomOr o w
  | .xor w => .atomXor o w
  | .exch w => .atomExch o w
  | .cas w => .atomCas o w
  | .addF32 => .atomAddF32 o
  | .addBf16 => .atomAddBf16 o

/-- An atomic; its address may be marked dead only where it is a vN. DESIGN CHOICE, log entry 123. -/
def decodeAtom (r : RawW) (sc : Bool) (op : AtomOp) : Dec Instr := do
  needOp ((if sc then [sgl] else [sgl, sgf]).contains r.seg)
  let d ← needSome (Spec.ofCode r.dat) .illegalOperand
  let a ← needSome (Spec.ofCode r.adr) .illegalOperand
  needOp (atomDatOk op d && adrOk r.seg a && (r.ad == 0 || a.isV))
  let o : MWOps := ⟨guardOf r.p, d, r.seg, a, r.ofs, r.ac, isSet r.ad⟩
  return if sc then .atomSc o op else atomInstr o op

def scopeOf (n : BitVec 3) : Option Scope :=
  match n.toNat with
  | 0 => some .wp
  | 1 => some .co
  | 2 => some .qd
  | 3 => some .di
  | 4 => some .pk
  | 5 => some .fb
  | 6 => some .sy
  | _ => none

def Scope.code : Scope → BitVec 3
  | .wp => 0
  | .co => 1
  | .qd => 2
  | .di => 3
  | .pk => 4
  | .fb => 5
  | .sy => 6

/-- FENCE by its kind (R179). Of its zero fields the specifiers and SEG have a fate in R35 and R38; AD and the high bits of
OFS have none, and so that of R6. -/
def decodeFence (r : RawM) : Dec Instr := do
  needOp (r.dat == 0 && r.seg == 0 && r.adr == 0)
  needBun (r.ad == 0 && r.ofs.extractLsb' 5 7 == 0)
  let sc ← needSome (scopeOf (r.ofs.extractLsb' 0 3)) .illegalOperand
  match (r.ofs.extractLsb' 3 2).toNat with
  | 1 => return .fenceAcq (guardOf r.p) sc
  | 2 => return .fenceRel (guardOf r.p) sc
  | 3 => return .fenceAr (guardOf r.p) sc
  | _ => .error .illegalOperand

/-- The M-form opcodes (R44). AD of a form whose address operand is no vN, or is not read, is zero. DESIGN CHOICE, log entry 123. -/
def decodeMM (r : RawM) : Dec Instr := do
  let g := guardOf r.p
  match r.op.toNat with
  | 0x01 => return .ldM .i8 (← r.mops [sgs, sgq, sgt] .load)
  | 0x02 => return .ldM .n8 (← r.mops [sgs, sgq, sgt] .load)
  | 0x03 => return .ldM .i16 (← r.mops [sgs, sgq, sgt] .load)
  | 0x04 => return .ldM .n16 (← r.mops [sgs, sgq, sgt] .load)
  | 0x05 => return .ldM .b32 (← r.mops [sgs, sgq, sgt] .load)
  | 0x06 => return .ldt (← r.mops [sgl] .load)
  | 0x08 => return .stM .n8 (← r.mops [sgs, sgq, sgt] .src)
  | 0x09 => return .stM .n16 (← r.mops [sgs, sgq, sgt] .src)
  | 0x0A => return .stM .b32 (← r.mops [sgs, sgq, sgt] .src)
  | 0x90 => decodeFence r
  | 0x91 =>
    needOp (r.seg == 0)
    needBun (r.ad == 0 && r.ofs.extractLsb' 3 9 == 0)
    let sc ← needSome (scopeOf (r.ofs.extractLsb' 0 3)) .illegalOperand
    needOp (r.dat.extractLsb' 7 3 == 0 && r.adr.extractLsb' 7 3 == 0 &&
      r.dat.extractLsb' 0 7 != 0 && r.adr.extractLsb' 0 7 != 0)
    return .xfence g (r.dat.extractLsb' 0 7) (r.adr.extractLsb' 0 7) sc
  | 0x98 =>
    needOp (r.seg == 0 && r.ad == 0)
    return .semp g (← immOrS r.dat) (← immOrS r.adr) r.ofs
  | 0x99 =>
    needOp (r.seg == 0 && r.ad == 0)
    return .semw g (← immOrS r.dat) (← immOrS r.adr) r.ofs
  | 0x9A =>
    needOp (r.seg == 0)
    let a ← pairSpec r.adr
    needOp (r.ad == 0 || a.isV)
    let b ← immSpec r.dat
    needOp (b.extractLsb' 1 7 == 0)
    return if isSet (b.extractLsb' 0 1) then .watchArm g a r.ofs (isSet r.ad)
      else .watchDisarm g a r.ofs (isSet r.ad)
  | 0xA0 =>
    needOp (r.seg == sgt && r.ad == 0 && r.ofs.extractLsb' 4 8 == 0)
    return .stset g (r.ofs.extractLsb' 0 4) (← sSpec r.dat) (← sSpec r.adr)
  | 0xA1 =>
    needOp (r.seg == sgt)
    needBun (r.ofs.extractLsb' 8 4 == 0)
    let v ← srcSpec r.dat
    let k ← srcSpec r.adr
    needOp ((r.ad == 0 || k.isV) &&
      decide ((r.ofs.extractLsb' 0 4).toNat + (r.ofs.extractLsb' 4 4).toNat + 1 ≤ 16))
    return .stapp g v k (r.ofs.extractLsb' 0 4) (r.ofs.extractLsb' 4 4) (isSet r.ad)
  | 0xA2 =>
    needOp (r.seg == sgt && r.ad == 0)
    needBun (r.ofs.extractLsb' 7 5 == 0)
    let sc ← needSome (scopeOf (r.ofs.extractLsb' 4 3)) .illegalOperand
    needOp (decide (1 ≤ sc.num) && decide (sc.num ≤ 4))
    let d ← sSpec r.adr
    return .stcmt g (r.ofs.extractLsb' 0 4) sc d (← immSpec r.dat)
  | 0xB0 =>
    needBun (r.ad == 0)
    needOp (r.seg == 0 && r.ofs.extractLsb' 5 7 == 0)
    let v ← srcSpec r.dat
    return .tsend g v (← immOrS r.adr) (r.ofs.extractLsb' 0 5)
  | 0xB1 =>
    needBun (r.ad == 0)
    needOp (r.seg == 0 && r.ofs.extractLsb' 5 7 == 0)
    let v ← srcSpec r.dat
    return .tsendM g v (← immOrS r.adr) (r.ofs.extractLsb' 0 5)
  | 0xB2 =>
    needOp (r.seg == 0 && r.ad == 0)
    let b ← immSpec r.adr
    needOp (b.extractLsb' 5 3 == 0)
    return .trecv g (← dstSpec r.dat) (b.extractLsb' 0 5) r.ofs
  | _ => .error .illegalOpcode

/-- The MW-form opcodes (R44). AD of a form whose address operand is no vN, or is not read, is zero. DESIGN CHOICE, log entry 123. -/
def decodeMW (r : RawW) : Dec Instr := do
  let g := guardOf r.p
  match r.op.toNat with
  | 0x11 => return .ldMw .i8 (← r.mwops [sgl, sgc, sgf] .load)
  | 0x12 => return .ldMw .n8 (← r.mwops [sgl, sgc, sgf] .load)
  | 0x13 => return .ldMw .i16 (← r.mwops [sgl, sgc, sgf] .load)
  | 0x14 => return .ldMw .n16 (← r.mwops [sgl, sgc, sgf] .load)
  | 0x15 => return .ldMw .b32 (← r.mwops [sgl, sgc, sgf] .load)
  | 0x18 => return .stMw .n8 (← r.mwops [sgl, sgf] .src)
  | 0x19 => return .stMw .n16 (← r.mwops [sgl, sgf] .src)
  | 0x1A => return .stMw .b32 (← r.mwops [sgl, sgf] .src)
  | 0x1C => return .ldS (← r.mwops [sgl] .load)
  | 0x1D => return .ldPoll (← r.mwops [sgl, sgc, sgf] .vOnly)
  | 0x1E =>
    let o ← r.mwops [sgl, sgc, sgf] .load
    needOp (o.ofs.extractLsb' 6 3 != 7)
    return .ldAcq o
  | 0x1F =>
    let o ← r.mwops [sgl, sgf] .src
    needOp (o.ofs.extractLsb' 6 3 != 7)
    return .stRel o
  | 0x20 => return .ldSc (← r.mwops [sgl] .load)
  | 0x21 => return .stSc (← r.mwops [sgl] .src)
  | 0x22 =>
    needOp (r.seg == 0 && r.ac == 0 && r.dat.extractLsb' 1 9 == 0)
    let a ← pairSpec r.adr
    needOp (r.ad == 0 || a.isV)
    return .pref g (isSet (r.dat.extractLsb' 0 1)) a r.ofs (isSet r.ad)
  | 0x80 => return .redAddF32 (← r.mwops [sgl, sgf] .src)
  | 0x81 => return .redAddN32 (← r.mwops [sgl, sgf] .src)
  | 0x82 => return .redMinF32 (← r.mwops [sgl, sgf] .src)
  | 0x83 => return .redMaxF32 (← r.mwops [sgl, sgf] .src)
  | 0x84 => return .redAddBf16 (← r.mwops [sgl, sgf] .src)
  | 0x88 =>
    needOp (r.dat == 0 && r.seg == 0 && r.adr == 0 && r.ad == 0)
    needBun (r.ofs == 0)
    return .flushr g r.ac
  | 0x89 =>
    needOp (r.dat == 0 && r.seg == 0)
    let a ← pairSpec r.adr
    needOp (r.ad == 0 || a.isV)
    return .flushrOrdered g a r.ofs r.ac (isSet r.ad)
  | _ =>
    let hi := r.op.extractLsb' 4 4
    let lo := r.op.extractLsb' 0 4
    let x : Option (Bool × AtomOp) :=
      match hi.toNat with
      | 4 => (atomOpOf false lo).map (fun o => (false, o))
      | 5 => (atomOpOf true lo).map (fun o => (false, o))
      | 6 => (atomOpOf false lo).map (fun o => (true, o))
      | 7 => (atomOpOf true lo).map (fun o => (true, o))
      | _ => none
    match x with
    | some (sc, op) => decodeAtom r sc op
    | none => .error .illegalOpcode

/-- Whether a memory-class opcode uses the M-form (R44). -/
def isMForm (op : BitVec 8) : Bool :=
  op.toNat < 0x11 || (0x90 ≤ op.toNat)

/-- A slot word of the M class (R28, R44). -/
def decodeM (w : SlotWord) : Dec Instr :=
  if isMForm (RawM.ofWord w).op then decodeMM (RawM.ofWord w) else decodeMW (RawW.ofWord w)

/-! ## Slots and bundles (R22 to R29, R47) -/

/-- One slot word of a bundle, with the word it borrows (R28, R40 to R44, R47 step 5). -/
def decodeSlot (sl : Slot) (lv : Level) (inRegion : Bool) (w : SlotWord) (bw : Option SlotWord) :
    Dec Instr :=
  match sl with
  | .sa => decodeS true lv w bw
  | .sb => decodeS false lv w bw
  | .va | .vb | .vc => decodeV w bw
  | .xe => decodeX inRegion w
  | .ma | .mb => decodeM w

/-- The opcodes marked W in the map of a slot's class borrow the next slot word present (R29, R41, R42). BRD is one of them,
also where it stands in SB, which does not accept it (R28): borrowing comes before the opcode check (R47). -/
def borrows (sl : Slot) (w : SlotWord) : Bool :=
  let op := (w.extractLsb' 40 8).toNat
  match sl with
  | .sa | .sb => op == 0x1A || op == 0x42
  | .va | .vb | .vc => op == 0x70 || op == 0x71 || op == 0x72
  | _ => false

/-- The switch-point opcodes of the S class (R28, R60). LAUNCH, which is one only when its queue is full (R254), is not counted. DESIGN
CHOICE, log entry 124. -/
def isSwitchOp (w : SlotWord) : Bool :=
  let op := (w.extractLsb' 40 8).toNat
  op == 0x48 || op == 0x50 || op == 0x51 || op == 0x52 || op == 0x53 || op == 0x55 || op == 0x67 ||
  op == 0x69

/-- The head fields of R23. -/
def headPres (h : BitVec 16) : BitVec 8 := h.extractLsb' 0 8
def headHold (h : BitVec 16) : Nat := (h.extractLsb' 8 2).toNat
def headFi (h : BitVec 16) : Bool := h.getLsbD 10
def headLi (h : BitVec 16) : Bool := h.getLsbD 11
def headLe (h : BitVec 16) : Bool := h.getLsbD 12

/-- The slots a head names, in slot order (R22, R23). -/
def headSlots (h : BitVec 16) : List Slot := Slot.all.filter (fun s => h.getLsbD s.num)

/-- The length in bytes of a bundle with this head (R22). -/
def bundleLen (h : BitVec 16) : Nat := 2 + 6 * (headSlots h).length

/-- Head and length checks of R23 and R26. -/
def headOk (pc : Nat) (h : BitVec 16) : Bool :=
  h.extractLsb' 13 3 == 0 && pc % 2 == 0 && decide (pc % 64 + bundleLen h ≤ 64)

/-- The address of the next sequential bundle (R26). -/
def nextPc (pc : Nat) (h : BitVec 16) : Nat :=
  if headLe h then pc - pc % 64 + 64 else pc + bundleLen h

/-- Assign each slot word to its slot and its borrowed word; none where a borrower is last (R29). -/
def assignSlots : List (Slot × SlotWord) → Option (List (Slot × SlotWord × Option SlotWord))
  | [] => some []
  | [(sl, w)] => if borrows sl w then none else some [(sl, w, none)]
  | (sl, w) :: (sl', w') :: rest =>
    if borrows sl w then (assignSlots rest).map (fun r => (sl, w, some w') :: r)
    else (assignSlots ((sl', w') :: rest)).map (fun r => (sl, w, none) :: r)

/-- Decode assigned slots in ascending slot order; `swSeen` tells that SA holds a switch point (R28, R47). -/
def decodeSlots (lv : Level) (inRegion : Bool) :
    Bool → List (Slot × SlotWord × Option SlotWord) → Except (DecErr × Slot) (List (Slot × Instr))
  | _, [] => .ok []
  | sw, (sl, w, bw) :: rest =>
    match decodeSlot sl lv inRegion w bw with
    | .error e => .error (e, sl)
    | .ok i =>
      if sl == .sb && sw && isSwitchOp w then .error (.illegalBundle, .sb)
      else match decodeSlots lv inRegion (sl == .sa && isSwitchOp w) rest with
        | .error e => .error e
        | .ok l => .ok ((sl, i) :: l)

/-- Decode the slot words of a bundle, borrowing first (R47 steps 4 and 5). -/
def Bundle.slots (b : Bundle) (lv : Level) (inRegion : Bool) :
    Except (DecErr × Slot) (List (Slot × Instr)) :=
  match assignSlots ((headSlots b.head).zip b.words) with
  | none => .error (.illegalBundle, (headSlots b.head).getLastD .sa)
  | some l => decodeSlots lv inRegion false l

/-! ## Bundles as bytes (R1, R22) -/

/-- Little-endian bytes to a number (R1). -/
def leNat : List Byte → Nat
  | [] => 0
  | b :: bs => b.toNat + 256 * leNat bs

/-- The low n bytes of a number, little-endian (R1). -/
def leBytes : Nat → Nat → List Byte
  | 0, _ => []
  | n + 1, x => BitVec.ofNat 8 x :: leBytes n (x / 256)

/-- n slot words of 6 bytes each from the front of a byte list. -/
def wordsOf : Nat → List Byte → List SlotWord
  | 0, _ => []
  | n + 1, bs => BitVec.ofNat 48 (leNat (bs.take 6)) :: wordsOf n (bs.drop 6)

/-- The bundle at the front of a byte list: its head, then the words its head names; none when the bytes end
before it does or the head's reserved bits are not zero (R22, R23). -/
def decodeBundle (bs : List Byte) : Option Bundle :=
  let h : BitVec 16 := BitVec.ofNat 16 (leNat (bs.take 2))
  if bs.length < bundleLen h ∨ h.extractLsb' 13 3 ≠ 0 then none
  else some ⟨h, wordsOf (headSlots h).length (bs.drop 2)⟩

/-- The bytes of a bundle as memory holds them (R1, R22). -/
def Bundle.bytes (b : Bundle) : List Byte :=
  leBytes 2 b.head.toNat ++ b.words.flatMap (fun w => leBytes 6 w.toNat)

/-- The machine step a fetched bundle stands for: an idle bundle when its head names no slot (R24). -/
def Bundle.instr (b : Bundle) : Instr :=
  if headPres b.head == 0 then .idleBundle b.head else .bundleIssue b

/-- The instruction the decoder reads from table bits: the bits laid out as bytes, zeros above them. -/
def decodeTableWord (nbits w : Nat) : Option Instr :=
  (decodeBundle (leBytes 50 (w % 2 ^ nbits))).map Bundle.instr

/-! ## Routine steps (R208, R209) -/

/-- Decode one 64-bit step word; none is an illegal OP or a reserved field that is not zero (R208, R223 code 1). -/
def decodeStep (w : BitVec 64) : Option Instr :=
  let q : StepQ := ⟨w.getLsbD 59, w.extractLsb' 56 3⟩
  let noq := w.extractLsb' 56 4 == 0
  match (w.extractLsb' 60 4).toNat with
  | 1 => if w.extractLsb' 0 13 == 0 then
      some (.ldsb q (w.getLsbD 55) (w.extractLsb' 40 15) (w.extractLsb' 36 4) (w.extractLsb' 28 8)
        (w.extractLsb' 13 15)) else none
  | 2 => if w.extractLsb' 0 26 == 0 then
      some (.ldsv q (w.extractLsb' 47 9) (w.extractLsb' 38 9) (w.extractLsb' 34 4) (w.extractLsb' 26 8))
      else none
  | 3 => if w.extractLsb' 0 21 == 0 then
      some (.strm q (w.extractLsb' 47 9) (w.extractLsb' 38 9) (w.getLsbD 37) (w.extractLsb' 29 8)
        (w.extractLsb' 21 8)) else none
  | 4 => if w.extractLsb' 0 21 == 0 then
      some (.acc q (w.extractLsb' 47 9) (w.extractLsb' 38 9) (w.getLsbD 37) (w.extractLsb' 29 8)
        (w.extractLsb' 21 8)) else none
  | 5 => if w.extractLsb' 0 21 == 0 && w.extractLsb' 38 9 == 0 then
      some (.scal q (w.extractLsb' 47 9) (w.getLsbD 37) (w.extractLsb' 29 8) (w.extractLsb' 21 8)) else none
  | 6 => if w.extractLsb' 0 17 == 0 && w.extractLsb' 38 18 == 0 then
      some (.drn q (w.getLsbD 37) (w.extractLsb' 29 8) (w.extractLsb' 21 8) (w.extractLsb' 19 2)
        (w.getLsbD 18) (w.getLsbD 17)) else none
  | 7 => if w.extractLsb' 0 21 == 0 && w.extractLsb' 38 18 == 0 then
      some (.zero q (w.getLsbD 37) (w.extractLsb' 29 8) (w.extractLsb' 21 8)) else none
  | 8 => if w.extractLsb' 0 32 == 0 then
      some (.stepLoop q (w.extractLsb' 44 12) (w.extractLsb' 39 5) (w.getLsbD 38) (w.extractLsb' 35 3)
        (w.extractLsb' 32 3)) else none
  | 9 => if noq && w.extractLsb' 0 55 == 0 then some (.waitf (w.getLsbD 55)) else none
  | 10 => if noq && w.extractLsb' 0 56 == 0 then some .swap else none
  | 11 => if noq && w.extractLsb' 0 56 == 0 then some .sync else none
  | 12 => if noq && w.extractLsb' 0 56 == 0 then some .endStep else none
  | _ => none

def StepQ.bits (q : StepQ) : BitVec 4 := bit q.qe ++ q.qn

/-- The step word of a routine step (R208, R209). -/
def encodeStep : Instr → Option (BitVec 64)
  | .ldsb q wb ofs kb n sofs => some (1#4 ++ (q.bits ++ (bit wb ++ (ofs ++ (kb ++ (n ++ (sofs ++ 0#13)))))))
  | .ldsv q vb vs kb n => some (2#4 ++ (q.bits ++ (vb ++ (vs ++ (kb ++ (n ++ 0#26))))))
  | .strm q va vs bk row m => some (3#4 ++ (q.bits ++ (va ++ (vs ++ (bit bk ++ (row ++ (m ++ 0#21)))))))
  | .acc q va vs bk row m => some (4#4 ++ (q.bits ++ (va ++ (vs ++ (bit bk ++ (row ++ (m ++ 0#21)))))))
  | .scal q vf bk row m => some (5#4 ++ (q.bits ++ (vf ++ (0#9 ++ (bit bk ++ (row ++ (m ++ 0#21)))))))
  | .drn q bk row m p s rel =>
    some (6#4 ++ (q.bits ++ (0#18 ++ (bit bk ++ (row ++ (m ++ (p ++ (bit s ++ (bit rel ++ 0#17)))))))))
  | .zero q bk row m => some (7#4 ++ (q.bits ++ (0#18 ++ (bit bk ++ (row ++ (m ++ 0#21))))))
  | .stepLoop q cnt body be qd qs =>
    some (8#4 ++ (q.bits ++ (cnt ++ (body ++ (bit be ++ (qd ++ (qs ++ 0#32)))))))
  | .waitf wb => some (9#4 ++ (0#4 ++ (bit wb ++ 0#55)))
  | .swap => some (10#4 ++ 0#60)
  | .sync => some (11#4 ++ 0#60)
  | .endStep => some (12#4 ++ 0#60)
  | _ => none

/-! ## The encoder of slot words (R31 to R38, R41 to R44) -/

def encS3 (op : BitVec 8) (o : S3) (fx : BitVec 7) : SlotWord :=
  RawS.toWord ⟨op, o.g.bits, o.d, o.a, o.b.iBit, o.b.bits, fx⟩

def encS2 (op : BitVec 8) (o : S2) : SlotWord :=
  RawS.toWord ⟨op, o.g.bits, o.d, o.a, 0#1, 0#14, 0#7⟩

def encS (op : BitVec 8) (g : Guard) (d a : BitVec 7) (b : SSrc) (fx : BitVec 7) : SlotWord :=
  RawS.toWord ⟨op, g.bits, d, a, b.iBit, b.bits, fx⟩

/-- S-form with SB_ unused. -/
def encSn (op : BitVec 8) (g : Guard) (d a : BitVec 7) (fx : BitVec 7) : SlotWord :=
  encS op g d a (.reg 0) fx

def encB (op : BitVec 8) (g : Guard) (off : BitVec 26) (aux : BitVec 10) : SlotWord :=
  RawB.toWord ⟨op, g.bits, off, aux⟩

def encV1 (op : BitVec 8) (o : V1) (b : BitVec 10) : SlotWord :=
  RawV.toWord ⟨op, o.p.bits, o.d.code, o.a.code, b, bit o.da, 0#1, bit o.kc, o.ki⟩

def encV2 (op : BitVec 8) (o : V2) : SlotWord :=
  RawV.toWord ⟨op, o.p.bits, o.d.code, o.a.code, o.b.code, bit o.da, bit o.db, bit o.kc, o.ki⟩

def encVAcc (op : BitVec 8) (o : VAcc) : SlotWord :=
  RawV.toWord ⟨op, o.p.bits, Spec.code (.v o.d), o.a.code, o.b.code, bit o.da, bit o.db, bit o.kc, o.ki⟩

def encVCmp (op : BitVec 8) (o : VCmp) : SlotWord :=
  RawV.toWord ⟨op, o.p.bits, 0#7 ++ o.pd, o.a.code, o.b.code, bit o.da, bit o.db, 0#1, 0#3⟩

def encVRed (op : BitVec 8) (o : VRed) : SlotWord :=
  RawV.toWord ⟨op, o.p.bits, Spec.code (.ps o.ps), o.a.code,
    Spec.code (.imm (0#2 ++ (bit o.acc ++ (o.ty.code ++ o.w)))), bit o.da, 0#1, 0#1, 0#3⟩

def encX (op : BitVec 8) (x : XCtl) (a b : BitVec 10) : SlotWord :=
  RawX.toWord ⟨op, x.p.bits, a, b, x.sco, bit x.ae, x.ac⟩

def encM (op : BitVec 8) (o : MOps) : SlotWord :=
  RawM.toWord ⟨op, o.p.bits, o.dat.code, o.seg, o.adr.code, o.ofs, bit o.ad⟩

def encW (op : BitVec 8) (o : MWOps) : SlotWord :=
  RawW.toWord ⟨op, o.p.bits, o.dat.code, o.seg, o.adr.code, o.ofs, o.ac, bit o.ad⟩

def encMf (op : BitVec 8) (p : Guard) (dat : BitVec 10) (seg : BitVec 3) (adr : BitVec 10) (ofs : BitVec 12)
    (ad : Bool) : SlotWord :=
  RawM.toWord ⟨op, p.bits, dat, seg, adr, ofs, bit ad⟩

def sgnOp (lo : BitVec 8) (uns : Bool) : BitVec 8 := if uns then lo + 1 else lo

/-- The opcode of an atomic: base 0x40 or 0x50, plus 0x20 for the SC forms (R44). -/
def AtomOp.code (op : AtomOp) (sc : Bool) : BitVec 8 :=
  ((if sc then 6#4 else 4#4) + (if op.wide then 1#4 else 0#4)) ++ op.low

def LdTy.num : LdTy → BitVec 8
  | .i8 => 0
  | .n8 => 1
  | .i16 => 2
  | .n16 => 3
  | .b32 => 4

def StTy.num : StTy → BitVec 8
  | .n8 => 0
  | .n16 => 1
  | .b32 => 2

def halfOp (h : BitVec 8) (f : Half) : BitVec 8 :=
  match f with
  | .h16 => h
  | .bf16 => h + 4

def encCvtWord (sf df : CvtFmt) (rmo : Rmo) (sp : BitVec 3) : SlotWord :=
  0#32 ++ (sf.code ++ (df.code ++ (rmo.code ++ (sp ++ 0#2))))

def encMxWord (ef : MxFmt) (rmo : Rmo) : SlotWord :=
  0#32 ++ (ef.code ++ (0#4 ++ (rmo.code ++ 0#5)))

def noSpec : BitVec 10 := 0#10

/-- The slot word of an S-class instruction. -/
def encodeS : Instr → Option (SlotWord × Option SlotWord)
  | .iadd o => some (encS3 0x01 o 0, none)
  | .isub o => some (encS3 0x02 o 0, none)
  | .imul o => some (encS3 0x03 o 0, none)
  | .imulh o u => some (encS3 0x04 o (0#6 ++ bit u), none)
  | .imad o c => some (encS3 0x05 o c, none)
  | .idiv o u => some (encS3 0x06 o (0#6 ++ bit u), none)
  | .irem o u => some (encS3 0x07 o (0#6 ++ bit u), none)
  | .iand o => some (encS3 0x08 o 0, none)
  | .ior o => some (encS3 0x09 o 0, none)
  | .ixor o => some (encS3 0x0A o 0, none)
  | .iandn o => some (encS3 0x0B o 0, none)
  | .shl o => some (encS3 0x0C o 0, none)
  | .shr o => some (encS3 0x0D o 0, none)
  | .shra o => some (encS3 0x0E o 0, none)
  | .rot o => some (encS3 0x0F o 0, none)
  | .clz o => some (encS2 0x10 o, none)
  | .popc o => some (encS2 0x11 o, none)
  | .brev o => some (encS2 0x12 o, none)
  | .bfx o w s => some (encS3 0x13 o (0#1 ++ (bit s ++ w)), none)
  | .bfi o w => some (encS3 0x14 o (0#2 ++ w), none)
  | .imin o u => some (encS3 0x15 o (0#6 ++ bit u), none)
  | .imax o u => some (encS3 0x16 o (0#6 ++ bit u), none)
  | .icmp g fd a b c => some (encS 0x17 g (0#4 ++ fd) a b (0#3 ++ c.code), none)
  | .sel o fl neg => some (encS3 0x18 o (0#3 ++ (bit neg ++ fl)), none)
  | .movi g d i => some (encS 0x19 g d 0 (.imm i) 0, none)
  | .limmB32 g d w => some (encSn 0x1A g d 0 0, some (0#16 ++ w))
  | .limmB64 g d w => some (encS 0x1A g d 0 (.imm 0) 0, some w)
  | .movsRf g d => some (encS 0x1B g d 0 (.imm 0) 0, none)
  | .movsWf g a => some (encS 0x1B g 0 a (.imm 0) 1, none)
  | .movsLc g d n => some (encS 0x1B g d 0 (.imm (0#11 ++ n)) 2, none)
  | .movsRp g d p j => some (encS 0x1B g d 0 (.imm (0#9 ++ (j ++ p))) 3, none)
  | .movsWp g p j a => some (encS 0x1B g 0 a (.imm (0#9 ++ (j ++ p))) 4, none)
  | .movsRm g d j => some (encS 0x1B g d 0 (.imm (0#12 ++ j)) 5, none)
  | .aadd o => some (encS3 0x1C o 0, none)
  | .alea o k z => some (encS3 0x1D o (0#3 ++ (bit z ++ k)), none)
  | .flop g fd fa fb t => some (encS 0x1E g (0#4 ++ fd) (0#4 ++ fa) (.reg (0#4 ++ fb)) (0#3 ++ t), none)
  | .rdgcc g d => some (encSn 0x1F g d 0 0, none)
  | .rdid g d x => some (encSn 0x20 g d 0 (0#4 ++ x), none)
  | .bru g off => some (encB 0x40 g off noSpec, none)
  | .brv p off => some (encB 0x41 p off noSpec, none)
  | .brd g off p pft ptk => some (encB 0x42 g off noSpec, some (0#12 ++ (p.bits ++ (pft ++ ptk))))
  | .jmp g off => some (encB 0x43 g off noSpec, none)
  | .call g off n => some (encB 0x44 g off (Spec.code (.s n)), none)
  | .ret g a => some (encSn 0x45 g 0 a 0, none)
  | .chk off v => some (encB 0x4A ⟨false, 0⟩ off (Spec.code (.v v)), none)
  | .loop g b body => some (encS 0x46 g 0 0 b (0#1 ++ body), none)
  | .lstr g d b lv r => some (encS 0x47 g d 0 b (0#3 ++ (bit r ++ lv)), none)
  | .yield g => some (encSn 0x48 g 0 0 0, none)
  | .exit g => some (encSn 0x49 g 0 0 0, none)
  | .waita g m n => some (encS 0x50 g 0 0 (.imm (0#6 ++ m)) (0#1 ++ n), none)
  | .twait g p n h m w => some (encS 0x51 g (0#3 ++ (bit p ++ n)) h (.imm (0#6 ++ m)) (0#6 ++ bit w), none)
  | .bar g b n a => some (encS 0x52 g 0 0 b (0#2 ++ (bit a ++ n)), none)
  | .barq g b n a => some (encS 0x53 g 0 0 b (0#2 ++ (bit a ++ n)), none)
  | .phase g a b => some (encS 0x54 g 0 a b 0, none)
  | .phwait g b => some (encS 0x55 g 0 0 b 0, none)
  | .trap g b => some (encS 0x60 g 0 0 b 0, none)
  | .sys g b => some (encS 0x61 g 0 0 b 0, none)
  | .eret g => some (encSn 0x62 g 0 0 0, none)
  | .ctlr g d b => some (encS 0x63 g d 0 b 0, none)
  | .ctlw g a b => some (encS 0x64 g 0 a b 0, none)
  | .segw g a sg lim => some (encSn 0x65 g 0 a (0#3 ++ (bit lim ++ sg)), none)
  | .prmt g d a k => some (encSn 0x66 g d a (0#6 ++ bit k), none)
  | .wfw o => some (encS3 0x67 o 0, none)
  | .launch g d a q => some (encSn 0x68 g d a (0#5 ++ q), none)
  | .role g b => some (encS 0x69 g 0 0 b 0, none)
  | .wdogRd g d => some (encSn 0x6A g d 0 0, none)
  | .wdogLower g a => some (encSn 0x6A g 0 a 1, none)
  | .wdogSet g a => some (encSn 0x6A g 0 a 2, none)
  | .govr g d b => some (encS 0x6B g d 0 b 0, none)
  | .govrW g a b => some (encS 0x6B g 0 a b 1, none)
  | .govrP g d b => some (encS 0x6B g d 0 b 2, none)
  | .govrWp g a b => some (encS 0x6B g 0 a b 3, none)
  | _ => none

/-- The slot word of a V-class instruction. -/
def encodeV : Instr → Option (SlotWord × Option SlotWord)
  | .fadd o => some (encV2 0x01 o, none)
  | .fsub o => some (encV2 0x02 o, none)
  | .fmul o => some (encV2 0x03 o, none)
  | .ffma o => some (encVAcc 0x04 o, none)
  | .ffmak o => some (encV2 0x05 o, none)
  | .fmin o => some (encV2 0x06 o, none)
  | .fmax o => some (encV2 0x07 o, none)
  | .fclass o => some (encV1 0x08 o noSpec, none)
  | .frnd o m => some (encV1 0x09 o (Spec.code (.imm m.code)), none)
  | .fcmp o c => some (encVCmp (0x02#5 ++ c.code) o, none)
  | .hadd2 o f => some (encV2 (halfOp 0x20 f) o, none)
  | .hmul2 o f => some (encV2 (halfOp 0x21 f) o, none)
  | .hfma2 o f => some (encVAcc (halfOp 0x22 f) o, none)
  | .hdot2 o f => some (encVAcc (halfOp 0x23 f) o, none)
  | .vadd o => some (encV2 0x40 o, none)
  | .vsub o => some (encV2 0x41 o, none)
  | .vmul o => some (encV2 0x42 o, none)
  | .vmulh o u => some (encV2 (sgnOp 0x43 u) o, none)
  | .vmad o => some (encVAcc 0x45 o, none)
  | .vmin o u => some (encV2 (sgnOp 0x46 u) o, none)
  | .vmax o u => some (encV2 (sgnOp 0x48 u) o, none)
  | .vabs o => some (encV1 0x4A o noSpec, none)
  | .vand o => some (encV2 0x4B o, none)
  | .vor o => some (encV2 0x4C o, none)
  | .vxor o => some (encV2 0x4D o, none)
  | .vandn o => some (encV2 0x4E o, none)
  | .vmov o => some (encV1 0x4F o noSpec, none)
  | .vshl o => some (encV2 0x50 o, none)
  | .vshr o => some (encV2 0x51 o, none)
  | .vshra o => some (encV2 0x52 o, none)
  | .vpopc o => some (encV1 0x53 o noSpec, none)
  | .vclz o => some (encV1 0x54 o noSpec, none)
  | .vbfx o u => some (encV2 (sgnOp 0x55 u) o, none)
  | .vbfi o => some (encVAcc 0x57 o, none)
  | .vsel o => some (encV2 0x58 o, none)
  | .vdot4 o u => some (encVAcc (sgnOp 0x59 u) o, none)
  | .vcmp o c => some (encVCmp (0x6#4 ++ c.code) o, none)
  | .cvt o sf df rm sp => some (encV1 0x70 o noSpec, some (encCvtWord sf df rm sp))
  | .cvtmx o ef rm => some (encV1 0x71 o noSpec, some (encMxWord ef rm))
  | .cvtxm o ef rm => some (encV1 0x72 o noSpec, some (encMxWord ef rm))
  | .pack o => some (encV2 0x73 o, none)
  | .unpk o x z n => some (encV1 0x74 o (Spec.code (.imm (0#4 ++ (bit x ++ (bit z ++ n))))), none)
  | .perm o => some (encV2 0x75 o, none)
  | .xsh o x k => some (encV1 0x76 o (Spec.code (.imm (0#4 ++ (bit x ++ k)))), none)
  | .vlane o pat k => some (encV1 0x77 o (Spec.code (.imm (pat.code ++ (0#2 ++ k)))), none)
  | .vrand o => some (RawV.toWord ⟨0x78, o.p.bits, o.d.code, 0, 0, 0, 0, bit o.kc, o.ki⟩, none)
  | .mode p v m => some (RawV.toWord ⟨0x79, p.bits, 0, v.code, m.code, 0, 0, 0, 0⟩, none)
  | _ => none

/-- The slot word of an X-class instruction. -/
def encodeX : Instr → Option (SlotWord × Option SlotWord)
  | .rcp o => some (encV1 0x01 o noSpec, none)
  | .rsq o => some (encV1 0x02 o noSpec, none)
  | .sqrt o => some (encV1 0x03 o noSpec, none)
  | .exp2 o => some (encV1 0x04 o noSpec, none)
  | .log2 o => some (encV1 0x05 o noSpec, none)
  | .sin o => some (encV1 0x06 o noSpec, none)
  | .cos o => some (encV1 0x07 o noSpec, none)
  | .tanh o => some (encV1 0x08 o noSpec, none)
  | .rcpA o => some (encV1 0x11 o noSpec, none)
  | .rsqA o => some (encV1 0x12 o noSpec, none)
  | .sqrtA o => some (encV1 0x13 o noSpec, none)
  | .exp2A o => some (encV1 0x14 o noSpec, none)
  | .log2A o => some (encV1 0x15 o noSpec, none)
  | .sinA o => some (encV1 0x16 o noSpec, none)
  | .cosA o => some (encV1 0x17 o noSpec, none)
  | .tanhA o => some (encV1 0x18 o noSpec, none)
  | .redAdd o => some (encVRed 0x20 o, none)
  | .redMin o => some (encVRed 0x21 o, none)
  | .redMax o => some (encVRed 0x22 o, none)
  | .rdrn p d n w kc ki =>
    some (RawV.toWord ⟨0x23, p.bits, d.code, Spec.code (.ps n), Spec.code (.imm (0#5 ++ w)), 0, 0, bit kc, ki⟩, none)
  | .rclr p n c =>
    some (RawV.toWord ⟨0x24, p.bits, 0#8 ++ n, Spec.code (.imm (0#5 ++ c.code)), 0, 0, 0, 0, 0⟩, none)
  | .mcall x k o => some (encX 0x40 x k.code o.code, none)
  | .mpar x q v => some (encX 0x41 x (0#7 ++ q) v.code, none)
  | .mfmt x v => some (encX 0x42 x v.code 0, none)
  | .mstat x d => some (encX 0x43 x (Spec.code (.s d)) 0, none)
  | .mpsw x v t => some (encX 0x44 x (Spec.code (.s v)) (Spec.code (.s t)), none)
  | .wst x a wb => some (encX 0x45 x (Spec.code (.s a)) (Spec.code (.imm (0#7 ++ bit wb))), none)
  | .wstat x d => some (encX 0x46 x (Spec.code (.s d)) 0, none)
  | .rqCl x b s => some (encX 0x50 x (Spec.code (.v b)) (Spec.code (.s s)), none)
  | .rqAn x b s => some (encX 0x51 x (Spec.code (.v b)) (Spec.code (.s s)), none)
  | .rqOc x b s => some (encX 0x52 x (Spec.code (.v b)) (Spec.code (.s s)), none)
  | .bvhb x a => some (encX 0x53 x (Spec.code (.s a)) 0, none)
  | .bvhf x a => some (encX 0x54 x (Spec.code (.s a)) 0, none)
  | .texS x b a => some (encX 0x58 x (Spec.code (.v b)) (Spec.code (.s a)), none)
  | .texF x b a => some (encX 0x59 x (Spec.code (.v b)) (Spec.code (.s a)), none)
  | .texL x b a => some (encX 0x5A x (Spec.code (.v b)) (Spec.code (.s a)), none)
  | .texq x b a => some (encX 0x5B x (Spec.code (.v b)) (Spec.code (.s a)), none)
  | .copy x a q => some (encX 0x60 x (Spec.code (.s a)) (0#8 ++ q), none)
  | .cmpt x a => some (encX 0x61 x (Spec.code (.s a)) 0, none)
  | .cmpq x d s => some (encX 0x62 x (Spec.code (.s d)) (Spec.code (.s s)), none)
  | .mark x m n => some (encX 0x63 x (0#1 ++ m) (0#7 ++ n), none)
  | .markw x n => some (encX 0x64 x (0#7 ++ n) 0, none)
  | _ => none

/-- The slot word of an M-class instruction. -/
def encodeM : Instr → Option (SlotWord × Option SlotWord)
  | .ldM t o => some (encM (0x01 + t.num) o, none)
  | .stM t o => some (encM (0x08 + t.num) o, none)
  | .ldt o => some (encM 0x06 o, none)
  | .ldMw t o => some (encW (0x11 + t.num) o, none)
  | .stMw t o => some (encW (0x18 + t.num) o, none)
  | .ldS o => some (encW 0x1C o, none)
  | .ldPoll o => some (encW 0x1D o, none)
  | .ldAcq o => some (encW 0x1E o, none)
  | .stRel o => some (encW 0x1F o, none)
  | .ldSc o => some (encW 0x20 o, none)
  | .stSc o => some (encW 0x21 o, none)
  | .pref p c a ofs ad => some (RawW.toWord ⟨0x22, p.bits, 0#9 ++ bit c, 0, a.code, ofs, 0, bit ad⟩, none)
  | .atomAdd o w => some (encW ((AtomOp.add w).code false) o, none)
  | .atomMin o w u => some (encW ((AtomOp.min w u).code false) o, none)
  | .atomMax o w u => some (encW ((AtomOp.max w u).code false) o, none)
  | .atomAnd o w => some (encW ((AtomOp.and w).code false) o, none)
  | .atomOr o w => some (encW ((AtomOp.or w).code false) o, none)
  | .atomXor o w => some (encW ((AtomOp.xor w).code false) o, none)
  | .atomExch o w => some (encW ((AtomOp.exch w).code false) o, none)
  | .atomCas o w => some (encW ((AtomOp.cas w).code false) o, none)
  | .atomAddF32 o => some (encW (AtomOp.addF32.code false) o, none)
  | .atomAddBf16 o => some (encW (AtomOp.addBf16.code false) o, none)
  | .atomSc o op => some (encW (op.code true) o, none)
  | .redAddF32 o => some (encW 0x80 o, none)
  | .redAddN32 o => some (encW 0x81 o, none)
  | .redMinF32 o => some (encW 0x82 o, none)
  | .redMaxF32 o => some (encW 0x83 o, none)
  | .redAddBf16 o => some (encW 0x84 o, none)
  | .flushr p ac => some (RawW.toWord ⟨0x88, p.bits, 0, 0, 0, 0, ac, 0⟩, none)
  | .flushrOrdered p a ofs ac ad => some (RawW.toWord ⟨0x89, p.bits, 0, 0, a.code, ofs, ac, bit ad⟩, none)
  | .fenceAcq p sc => some (encMf 0x90 p 0 0 0 (0#7 ++ (1#2 ++ sc.code)) false, none)
  | .fenceRel p sc => some (encMf 0x90 p 0 0 0 (0#7 ++ (2#2 ++ sc.code)) false, none)
  | .fenceAr p sc => some (encMf 0x90 p 0 0 0 (0#7 ++ (3#2 ++ sc.code)) false, none)
  | .xfence p u d sc => some (encMf 0x91 p (0#3 ++ u) 0 (0#3 ++ d) (0#9 ++ sc.code) false, none)
  | .semp p n a ofs => some (encMf 0x98 p n.code 0 a.code ofs false, none)
  | .semw p n a ofs => some (encMf 0x99 p n.code 0 a.code ofs false, none)
  | .watchArm p a ofs ad => some (encMf 0x9A p (Spec.code (.imm 1)) 0 a.code ofs ad, none)
  | .watchDisarm p a ofs ad => some (encMf 0x9A p (Spec.code (.imm 0)) 0 a.code ofs ad, none)
  | .stset p k cap base =>
    some (encMf 0xA0 p (Spec.code (.s cap)) sgt (Spec.code (.s base)) (0#8 ++ k) false, none)
  | .stapp p v key zb nk ad => some (encMf 0xA1 p v.code sgt key.code (0#4 ++ (nk ++ zb)) ad, none)
  | .stcmt p k sc d n =>
    some (encMf 0xA2 p (Spec.code (.imm n)) sgt (Spec.code (.s d)) (0#5 ++ (sc.code ++ k)) false, none)
  | .tsend p v c sl => some (encMf 0xB0 p v.code 0 c.code (0#7 ++ sl) false, none)
  | .tsendM p v m sl => some (encMf 0xB1 p v.code 0 m.code (0#7 ++ sl) false, none)
  | .trecv p d sl st => some (encMf 0xB2 p d.code 0 (Spec.code (.imm (0#3 ++ sl))) st false, none)
  | _ => none

/-- The slot word of a slot instruction, with its borrowed word; none for a routine step or an event. -/
def encodeSlot (i : Instr) : Option (SlotWord × Option SlotWord) :=
  (encodeS i) <|> (encodeV i) <|> (encodeX i) <|> (encodeM i)

/-- Which slots accept a slot instruction (R28). -/
def slotAccepts (i : Instr) (sl : Slot) : Bool :=
  match sl with
  | .sa => (encodeS i).isSome
  | .sb =>
    match encodeS i with
    | some (w, _) =>
      let op := (w.extractLsb' 40 8).toNat
      op < 0x40 || op == 0x50 || op == 0x52 || op == 0x53 || op == 0x63 || op == 0x64
    | none => false
  | .va | .vb | .vc => (encodeV i).isSome
  | .xe => (encodeX i).isSome
  | .ma | .mb => (encodeM i).isSome

end Sys2Proof
end

