-- ==== Sys2Proof/Config.lean ====
section
/-!
DEFINITION. What the spec leaves open: free values, each an opaque constant that no proof can evaluate, applied to a
counter of the state or to the operands it depends on; and the figures an implementation fixes.
-/
namespace Sys2Proof.Config

/-- A free 32-bit value (the value of a register of no stated content). DESIGN CHOICE, log entry 1. -/
opaque freeWord : Nat → Word

/-- Where the access counters of a die lie in its own memory (R438), as a multiple of 64 MiB. Log entry 91. -/
opaque counterSlot : Nat → Nat

/-- Where the register window lies for cores at level F (R439), as a multiple of 64 MiB above the memory of R305. Log entry 88. -/
opaque windowSlot : Nat

/-- A free byte (an opaque area of a swap area, R384). DESIGN CHOICE, log entry 1. -/
opaque freeByte : Nat → Byte

/-- A free count of cycles or of bytes, for every time the spec does not bound. DESIGN CHOICE, log entry 1. -/
opaque freeNat : Nat → Nat

/-- A free choice. DESIGN CHOICE, log entry 1. -/
opaque freeBool : Nat → Bool

/-- The candidate result of a special function (R95, R96): a fixed function of the function's number, the source bits
and the mode bits FZI, FZO and NANP. The bound of R95 is applied to it. DESIGN CHOICE, log entry 10. -/
opaque specialFn : Nat → Word → BitVec 3 → Word

/-- What an 8-bit immediate supplies to CVTXM, by its element code and the eight bits: R39 reads immediates of float and
integer operations, and states no reading for blocks of R148. DESIGN CHOICE, log entry 97. -/
opaque mxImm : Nat → Byte → Word

/-- Whether a row pass of the over-scaled array detects a timing error (R229). DESIGN CHOICE, log entry 47. -/
opaque timingError : Nat → Bool

/-- Whether a signature or token check of Blackthorn succeeds (R450, R455). DESIGN CHOICE, log entry 85. -/
opaque signatureOk : List Byte → Bool

/-- The mask that hides the bytes of an acceleration structure's nodes, whose layout is the part's own (R237). DESIGN CHOICE, log entry 49. -/
opaque nodeMask : Nat → Byte

/-- What the ray unit gives where the spec states no value (R235, R236): by 0 to 2 the result words of a query, by 3 the bounds
of a primitive, by 4 the inverse of a transform without one; a function of the words it is formed from. Log
entry 50. -/
opaque rayFree : Nat → List Nat → Nat → Word

/-- Whether over-scaled operation is available on a core, as its fuses say (R224). DESIGN CHOICE, log entry 47. -/
opaque ovok : Nat → Bool

/-- The carve limits of a core, in MiB, as the capability list states them (R360, R458). DESIGN CHOICE, log entry 55. -/
opaque carveMin : Nat → Nat

opaque carveMax : Nat → Nat

/-- Where start-up reserves the checkpoint region in the capacity tier (R445, R458). DESIGN CHOICE, log entry 85. -/
opaque ckptBase : Nat

/-- The bytes of a checkpoint's device state area and of its header, layouts of the device's own, and the place of the header,
counted in 4 KiB, in the 32 GiB that the region leaves for headers (R445). Log entry 84. -/
opaque stateArea : Nat → List Byte

opaque headerByte : Nat → Nat → Byte

opaque headerPlace : Nat

/-- The HBM channel of a line: placement across stacks and channels is not visible (R305). DESIGN CHOICE, log entry 83. -/
opaque channelOf : Nat → Nat

/-- The firmware image in Markhor's flash (R450). DESIGN CHOICE, log entry 85. -/
opaque flashImage : List Byte

/-- Where the firmware image starts its warp on core 130 or 131, and the pools per bank it names there (R14, R451). DESIGN CHOICE, log entry 85. -/
opaque fwEntry : Nat → DWord

opaque fwPool : Nat → Nat → Nat

/-- What start-up puts into the translation root, the rings and the vectors (R451). DESIGN CHOICE, log entry 85. -/
opaque bootWord : Nat → Word

/-- Where start-up puts the capability list: its physical address and the address that the host reads, and the
versions of its records (R458). DESIGN CHOICE, log entry 85. -/
opaque capPhys : Nat

opaque capAddr : DWord

opaque capVersion : Nat → Nat

/-- Whether start-up finds DisplayPort, over-scaling and the other features of record 1 present (R458). DESIGN CHOICE, log entry 85. -/
opaque feature : Nat → Bool

/-- The signature of a report under an identity key, given by its number, and the vendor's certificate of that key (R453, R455). DESIGN
CHOICE, log entry 85. -/
opaque sign : Nat → List Byte → List Byte

opaque certificate : Nat → List Byte

/-- The virtual address of the Hedgerow control block, as the capability list states it (R411, R458). DESIGN CHOICE, log entry 85. -/
opaque controlAddr : Nat

/-- The mask that hides the bytes of the logic state that a core writes to its retention area, whose layout is the device's own
(R464). Log entry 89. -/
opaque retentionMask : Nat → Byte

/-- Where an offset of the SC aperture leads (R459). DESIGN CHOICE, log entry 121. -/
opaque scAddr : Nat → DWord

/-- How many entries a core's trace buffer holds (R456). DESIGN CHOICE, log entry 122. -/
opaque traceLen : Nat

/-- How many times a row pass of the over-scaled array with a timing error is replayed (R229). -/
def replays : Nat := 1

/-- Cores of the package (R13). -/
def cores : Nat := 144

/-- Resident warps of a core (R266). -/
def residentSlots : Nat := 32

/-- Physical registers of a bank (R61). -/
def bankRegs : Nat := 512

/-- Physical registers per bank that a trap-handler warp has (R376). -/
def handlerPool : Nat := 64

/-- Entries of a core TLB (R390). -/
def tlbEntries : Nat := 256

end Sys2Proof.Config
end

