-- ==== Sys2Proof/Machine/State.lean ====
section
/-!
DEFINITION. The state of one part, as plain data: every register, buffer, queue, table and memory the spec names,
the reasons the machine can stop, and the state right after reset. A `Table` is a sparse map from numbers, whose
unlisted keys hold a default that the reader names.
-/
namespace Sys2Proof.Machine

/-- A sparse map from numbers. -/
abbrev Table (α : Type) := List (Nat × α)

/-- Why the machine stops in a fault. -/
inductive Fault where
  /-- A request reaches a physical address at which no memory stands: outside the tiers of R305, or on a die that is
  off (R461). Raised by L2_REQUEST_ENTRY. Safe: the spec says nothing stands there. -/
  | absentAddress
  deriving DecidableEq, Repr

/-- Why a step has no next state. -/
inductive Refusal where
  /-- The instruction has no meaning yet. Raised only by the dispatch. Safe. -/
  | notModelled (mnemonic : String)
  /-- The event named does not take place in this state: its condition does not hold. Raised by the meanings of
  events. Safe: the spec gives the step no effect there. -/
  | notEnabled
  deriving DecidableEq, Repr

/-- The causes of R373, by code. -/
inductive Cause where
  | illegalBundle | illegalOpcode | illegalOperand | privilegeViolation | fetchFault | unboundRegister
  | allotmentOverflow | staleOperand | nonUniformBranch | loopFault | segmentLimit | misalignedAccess
  | translationFault | poisonedData | arrivalOverflow | barrierFault | matrixFault | timingFault | watchdog
  | softwareTrap | supervisorCall | remoteStoreFault | breakpoint | singleStep | registerError | doubleFault
  | contextFault | swapFault | preemption | debugHalt | machineCheck | doorbell
  deriving DecidableEq, Repr

/-- One vector value: 128 lanes of 32 bits with a poison bit each (R61, R132). -/
structure VReg where
  lanes : List Word
  poison : Mask
  deriving DecidableEq, Repr

/-- A value of zeros, unpoisoned (R62). -/
def VReg.zero : VReg := ⟨List.replicate 128 0, 0⟩

/-- The binding of a vN: its physical register in bank N mod 8 and the number of the binding (R61, R63). -/
structure Bind where
  phys : BitVec 9
  tok : Nat
  deriving DecidableEq, Repr

/-- What a result writes when it lands (R49, R57, R59, R68): a vector value into a binding, with its latch and
operand-cache copies; an s-register, a flag, lanes of a predicate; or the add of a stride registration (R124). -/
inductive Write where
  | vec (dst : Option (BitVec 9 × Nat)) (mask : Mask) (val : VReg) (latch : Option Nat) (kc : Option (BitVec 3))
  | sreg (n : BitVec 7) (w : Word)
  | flag (n : BitVec 3) (b : Bool)
  | pred (n : BitVec 3) (mask val : Mask)
  | stride (n : BitVec 7) (w : Word)
  deriving DecidableEq, Repr

/-- A pending write (R68): `rem` remaining cycles, `carried` once it was carried over (R66), `id` the reply that
brings its value and `left` the parts of it still to come (R69, R291), `strict` that a FAULT region issued it, so that it never
freezes its warp. An entry with `skip` lands nothing (R387); `entry`
is its place in the context image of a saved warp, into which the value goes when it comes (R382). -/
structure Pending where
  warp : Nat
  slot : Nat
  rem : Nat
  carried : Bool
  id : Option Nat
  left : Nat
  strict : Bool
  skip : Bool
  wr : Write
  entry : Option Nat
  deriving DecidableEq, Repr

/-- Why a frontier entry waits (R269). -/
inductive Wait where
  | none | barrier | launch
  deriving DecidableEq, Repr

/-- An active loop level (R120). `r0` and `r1` are its two stride registrations. -/
structure LoopLevel where
  start : DWord
  stop : DWord
  lc : Word
  first : Bool
  r0 : Option (BitVec 7 × Word)
  r1 : Option (BitVec 7 × Word)
  deriving DecidableEq, Repr

/-- What happens after the third delay bundle (R114, R117, R123). -/
inductive Transfer where
  | none
  | goto (pc : DWord)
  | jump (pc : DWord)
  | take (pc : DWord) (prio : BitVec 16)
  | split (pc : DWord) (ptk pft : BitVec 16) (t f : Mask)
  deriving DecidableEq, Repr

/-- Where an entry stood at the bundle at which it came to wait, with what that bundle changed of it and of its warp: the
delay bundles, the transfer, the priorities still to act (R117), and the loop levels. -/
structure Point where
  pc : DWord
  prio : BitVec 16
  mask : Mask
  dl : Nat
  xfer : Transfer
  falls : List (Nat × BitVec 16)
  loops : List LoopLevel
  deriving DecidableEq, Repr

/-- A frontier entry (R269), with the bundle at which it waits, to which a capture returns it (R386). -/
structure Entry where
  pc : DWord
  prio : BitVec 16
  mask : Mask
  d : Bool
  age : Nat
  wait : Wait
  back : Option Point
  deriving DecidableEq, Repr

/-- What a landing in a cycle of delay replaced (R71): a register, a latch or an operand-cache entry with its valid bit, a
scalar register, a flag or a predicate. -/
inductive Undo where
  | reg (idx : Nat) (v : VReg)
  | latch (n : Nat) (v : VReg) (valid : Bool)
  | cache (n : BitVec 3) (v : VReg) (valid : Bool)
  | sreg (n : BitVec 7) (w : Word)
  | flag (n : BitVec 3) (b : Bool)
  | pred (n : BitVec 3) (v : Mask)
  deriving DecidableEq, Repr

/-- The cycle at which a current warp's next bundle would begin to issue; with `on` that bundle is delayed from then on (R65,
R68, R273), and `landed` is what has landed in the cycles of delay, which a capture takes back (R71). -/
structure Delay where
  c : Nat
  on : Bool
  landed : List (Pending × List Undo)
  deriving DecidableEq, Repr

/-- A variable-latency result on a counter (R163): the writes it still has to land, whether it has arrived, and
what its landing checks. `fault` is a remote store fault (R162), `bad` a descriptor refused at the WAITA (R177). -/
structure Result where
  rid : Nat
  ctr : BitVec 3
  arrived : Bool
  todo : List Write
  mask : Mask
  poll : Bool
  cas : Bool
  futile : Bool
  fault : Option (DWord × Mask)
  bad : Bool
  deriving DecidableEq, Repr

/-- Why a whole warp is suspended (R268), with what it waits for. -/
inductive Susp where
  | none
  | waita (cover : List Nat)
  | twait (deadline : Nat) (mask : Byte) (watch pred : Bool) (num : BitVec 3) (cover : List Nat)
  | semw (word : Nat) (n : Word)
  | phwait (tree : Nat) (phase : Nat)
  | role (idx : Nat)
  | wfw (deadline : Option Nat) (m : Word) (d : BitVec 7)
  deriving DecidableEq, Repr

/-- What a switch-point bundle changes, as it stood before the bundle, with the bundle, its entry's mask and the slot that
suspended the warp: to it a trap or a capture of the wait returns (R162, R374, R386). -/
structure Back where
  pc : DWord
  mask : Mask
  slot : Nat
  entries : List Entry
  spilled : List Entry
  loops : List LoopLevel
  dl : Nat
  xfer : Transfer
  falls : List (Nat × BitVec 16)
  issuer : Option Mask
  latches : Table VReg
  caches : Table VReg
  lv : BitVec 12
  kv : BitVec 8
  deriving DecidableEq, Repr

/-- The state of a warp inside a static region (R285): its record, start S, stretch z. -/
structure Region where
  start : Nat
  stop : Nat
  len : Nat
  pol : Bool
  s : Nat
  z : Nat
  deriving DecidableEq, Repr

/-- A record of the trap rings (R377). -/
structure Record where
  code : Cause
  sub : Nat
  slot : Nat
  act : Nat
  handle : Word
  warp : Nat
  lvl : Nat
  src : Nat
  ak : Nat
  core : Nat
  pc : DWord
  faddr : DWord
  lanes : Mask
  gcc : Nat
  img : DWord
  deriving DecidableEq, Repr

/-- The state of a resident slot. A captured warp keeps its record until the save engine has written its context; then it
is saved, and resuming once its handler has said so (R375, R380). A stopped warp leaves with its group (R370); a halted
one is stopped for debug (R457). -/
inductive WStatus where
  | free
  | run
  | captured (r : Record)
  | saved (r : Record)
  | resuming (r : Record)
  | stopped
  | halted
  | ended
  deriving DecidableEq, Repr

/-- One warp (R57 to R74, R82 to R90, R97 to R125, R163, R184, R195, R269, R285, R292, R296).
`falls` are the priorities of BRDs that move nothing, with the bundles after which they act (R117).
`delayed` counts the cycles that the bundle about to issue has been delayed (R65, R68), with what has landed in them in
`delay`, `held` says that it is held (R161, R308), `replay` that its pending writes wait for its first bundle after a return (R72), `frozen` counts the cycles of a freeze (R69, R291), and `lates` are the bindings and latches of late replies
in a FAULT region (R291). `also` are further waits of the bundle that suspended the warp, `sw` is what
that bundle found, `after` is the trap that the warp takes before its next bundle (R260, R457), and `found` the mask and the register of a WFW whose
wait has ended and whose read and clear of pm.wake are still to come (R265).
`budget` is the watchdog budget of a trap-handler warp, which has one of its own (R376); `engLate` says that an engine
could not start a command of the warp on its cycle (R228, R232), and `eret` that the warp ends by ERET (R261). `img` is the
address of the block in which a saved warp's context stands, `toks` gives the name and the record index of each
binding it had, and `broken` says that it was stopped inside a static region (R293). `mwaits` are the results of its MARKWs
(R325), and `gate` the releases behind which an acquire of it stands: it issues nothing before they have performed (R318). -/
structure Warp where
  status : WStatus
  level : Level
  handle : Word
  wnum : Nat
  prio : Nat
  handlerOf : Option Record
  ready : Option Nat
  entries : List Entry
  spilled : List Entry
  issuer : Option Mask
  dl : Nat
  xfer : Transfer
  falls : List (Nat × BitVec 16)
  susp : Susp
  also : List Susp
  sw : Option Back
  after : Option (Cause × Nat × DWord)
  found : Option (Word × BitVec 7)
  s : Table Word
  f : BitVec 8
  p : Table Mask
  map : Table Bind
  latches : Table VReg
  caches : Table VReg
  lv : BitVec 12
  kv : BitVec 8
  loops : List LoopLevel
  strides : Table (BitVec 7 × Word)
  noise : Table DWord
  seeded : Option (DWord × Nat × Nat)
  fmode : Word
  fexc : Word
  stretch : Word
  lseq : Word
  q : Table DWord
  mfmt : Byte
  mfmtNext : List (Nat × Byte)
  segBase : Table DWord
  segLimit : Table DWord
  watch : Option Nat
  watchHit : Bool
  results : List Result
  xgate : Table (List Nat)
  markers : Table (List Nat)
  mwaits : List Nat
  gate : List Nat
  region : Option Region
  frozen : Nat
  lates : List (Option Nat × Option Nat)
  evicted : Bool
  held : Bool
  delayed : Nat
  delay : Option Delay
  replay : Bool
  drain : Bool
  futiles : List Mask
  budget : DWord
  engLate : Bool
  eret : Bool
  img : DWord
  toks : List (Nat × Nat × Nat)
  broken : Bool
  deriving DecidableEq, Repr

/-- To whom a trap record belongs (R380): a captured warp, a swapped-out group, a halted copy queue, or nobody. -/
inductive Owner where
  | none
  | warp (core w : Nat)
  | group (h : Nat)
  | copy (core q id : Nat)
  deriving DecidableEq, Repr

/-- A record in a slot of a trap ring: when it was posted, whose it is, whether its slot has been written, and the
resident slot of its handler warp once that has started (R376, R379). -/
structure RingRec where
  slot : Nat
  posted : Nat
  rec_ : Record
  own : Owner
  written : Bool
  warp : Option Nat
  deriving DecidableEq, Repr

/-- What a scratchpad access does when it performs: a load fills the pending write `id`, and with `now` it also brings
its part of the reply; `deliver` brings a part alone (R303); a store, or the append of STAPP, writes words; `ext`
writes bytes with a poison bit (R301, R190); SEMP adds to a word (R186); STCMT writes its header word and sends the
increment of `n` on its way, once the request `rel` has performed (R252), or hands send records over (R399). -/
inductive AccKind where
  | load (id : Nat) (ty : LdTy) (cells : List (Nat × Nat)) (now : Bool)
  | deliver (id : Nat)
  | store (bytes : Nat) (cells : List (Nat × Word))
  | ext (addr : Nat) (data : List Byte) (poison : Bool)
  | semp (addr : Nat) (n : Word) (rel : Option Nat)
  | stcmt (addr : Nat) (w : Word) (dst : Nat) (word : Nat) (n : Nat) (sc : Scope) (rel : Option Nat)
  | guide (addr : Nat) (w : Word) (recs : List Nat) (rel : Nat)
  deriving DecidableEq, Repr

/-- A scratchpad access under way: it performs on its core after `rem` cycles, for the warp of core `src`
(R164, R288, R301). Its slot gives its place within a cycle: 6 MA, 7 MB, 8 the window port, 9 an external write. `bun` is
the cycle in which its bundle issued. -/
structure Access where
  rem : Nat
  slot : Nat
  src : Nat
  warp : Nat
  bun : Nat
  kind : AccKind
  deriving DecidableEq, Repr

/-- A request at a window port (R303): its source core and warp, the bundle it belongs to, the cycle it arrives, the
cycles it takes, the cycle at which its load results are due, and its accesses with the cycle of each in the service. -/
structure WinReq where
  src : Nat
  warp : Nat
  bun : Nat
  arrive : Nat
  k : Nat
  due : Nat
  parts : List (Nat × AccKind)
  deriving DecidableEq, Repr

/-- A slot of the timed inbox (R290). -/
structure InSlot where
  val : VReg
  stamp : Nat
  overrun : Bool
  deriving DecidableEq, Repr

/-- A timed packet in flight to one core, with the group that sent it (R192, R290). -/
structure Packet where
  due : Nat
  slot : Nat
  stamp : Nat
  val : VReg
  handle : Word
  deriving DecidableEq, Repr

/-- An entry of the reduction buffer (R174). -/
structure RedEntry where
  warp : Nat
  handle : Word
  fabric : Bool
  block : Nat
  op : RedOp
  elems : Table Word
  deriving DecidableEq, Repr

/-- A child grid waiting in a child queue (R253, R372), with what its LAUNCH read of its packet (none where that lay in a
poisoned line), and the stream and the launch number of its parent. -/
structure Child where
  packet : DWord
  pkt : Option (List Byte)
  parent : Word
  warp : Nat
  seq : Word
  lane : Nat
  stream : Option Nat
  l : Nat
  deriving DecidableEq, Repr

/-- A LAUNCH that waits for room in a child queue (R254): its warp and entry, the register of its result, the base of its
packets, its queue and the packets as they were read. -/
structure LaunchWait where
  warp : Nat
  mask : Mask
  d : BitVec 7
  base : DWord
  q : Nat
  pkts : List (Option (List Byte))
  deriving DecidableEq, Repr

/-- A translation (R389, R390): page base, page size as a shift, physical base, and the permissions U, X, W of every entry on
the way to it. With `dir` it is the entry of a table of level 2 to 5, which leads to the table at `pa`. -/
structure Leaf where
  va : Nat
  shift : Nat
  pa : Nat
  u : Bool
  x : Bool
  w : Bool
  dir : Bool
  deriving DecidableEq, Repr

/-- A copy record in a copy queue (R189 to R191): the bytes of the record as read at issue, its group, where its completion
counts, the row it has reached and whether it stands halted there, the translations it found when it started (R441), the cycle before which it does not start, which a
region may fix (R232), and the ordering points it waits for (R180). -/
structure CopyRec where
  bytes : List Byte
  handle : Word
  core : Nat
  warp : Nat
  rid : Option Nat
  stream : Option Nat
  row : Nat
  halted : Bool
  started : Bool
  level : Level
  leaves : List Leaf
  id : Nat
  due : Nat
  region : Bool
  deps : List Nat
  deriving DecidableEq, Repr

/-- The phases of one tree on one core (R187): the phase declared last and its count, the sources (R377 SRC) of the arrivals
counted for the current and the next phase, the release point of its PHASE (R324), and the phases whose line never rose. -/
structure Phase where
  last : Nat
  declared : Option Nat
  raised : Bool
  cur : List Nat
  nxt : List Nat
  rel : Option Nat
  skipped : List Nat
  deriving DecidableEq, Repr

/-- A start held in the handler queue (R279, R281): entry address and s1 to s7. -/
structure HStart where
  h : DWord
  handle : Word
  s : List Word
  deriving DecidableEq, Repr

/-- A stationary tile (R210): bytes of the elements, the scales, KB, N, its format and poison. -/
structure Tile where
  kb : Nat
  n : Nat
  fmt : Byte
  elems : List Byte
  scales : List Byte
  poison : Bool
  deriving DecidableEq, Repr

/-- The fill state of a weight buffer (R201). -/
inductive FillState where
  | filled | filling | error
  deriving DecidableEq, Repr

/-- A weight-stream fill that has not ended (R202): the cycle before which it does not end, whether a region fixed its
start, and the ordering points it waits for. -/
structure Fill where
  id : Nat
  wb : Bool
  desc : DWord
  warp : Nat
  rid : Option Nat
  handle : Word
  level : Level
  due : Nat
  region : Bool
  deps : List Nat
  deriving DecidableEq, Repr

/-- A weight buffer (R195, R201): bytes as a sparse list over zeros. -/
structure WBuf where
  bytes : List Host.Cell
  poison : List Nat
  state : FillState
  err : Byte
  anyErr : Bool
  deriving DecidableEq, Repr

/-- An MCALL as captured at issue (R219): `ae` says whether it registered results, `at_` is the first cycle at which
it may start, `start` the cycle a static region fixes (R228), `deps` the ordering points it waits for (R180), and `alive` that its
owner has not retired (R227). -/
structure MCall where
  id : Nat
  warp : Nat
  alive : Bool
  k : Nat
  o : Nat
  q : List DWord
  fmt : Byte
  ov : Bool
  ae : Bool
  ns : Nat
  rids : List Nat
  start : Option Nat
  at_ : Nat
  deps : List Nat
  deriving DecidableEq, Repr

/-- An entry of the matrix queue (R195, R207, R219). -/
inductive MxCmd where
  | mcall (m : MCall)
  | mpsw (id : Nat) (warp : Nat) (val : DWord) (target : Word) (deps : List Nat)
  deriving DecidableEq, Repr

/-- A loop of a running routine (R216). -/
structure StepLoop where
  first : Nat
  last : Nat
  left : Nat
  be : Bool
  qd : BitVec 3
  qs : BitVec 3
  deriving DecidableEq, Repr

/-- A DRN in progress (R214, R215): its place among the steps, the next row to land, the bundles of that row already issued,
whether the row stands in lo, and the start cycle; without one the drain waits for the WAITA of the latest SYNC result. -/
structure Drain where
  rank : Nat
  bk : Bool
  row : Nat
  m : Nat
  p : Nat
  rel : Bool
  issued : Nat
  start : Option Nat
  j : Nat
  cnt : Nat
  standing : Bool
  deriving DecidableEq, Repr

/-- A step that is not complete and holds back the ones after it (R217): a wait, a fault whose earlier steps have not finished
yet (R218, R223), or, after the fault, a DRN that goes on. -/
inductive Block where
  | none | waitf (wb : Bool) | sync | fin | fault (code step : Nat) | left
  deriving DecidableEq, Repr

/-- What a step has changed while a step before it still ran (R218): a row as it stood, or the stationary buffers. -/
inductive EngChange where
  | row (key : Nat) (cells : Table Word) (poison : Bool)
  | tiles (active shadow : Option Tile)
  deriving DecidableEq, Repr

/-- An LDSV that still reads registers (R210): those to come, those read, KB and N. -/
structure LdJob where
  rank : Nat
  step : Nat
  regs : List Nat
  got : List VReg
  kb : Nat
  n : Nat
  deriving DecidableEq, Repr

/-- An STRM, ACC or SCAL whose rows still enter (R212, R213): the cycle at which row `j` enters and the registers
read. -/
structure RowJob where
  rank : Nat
  step : Nat
  scal : Bool
  clear : Bool
  bk : Bool
  row : Nat
  m : Nat
  j : Nat
  next : Nat
  va : Nat
  vs : Nat
  a : VReg
  sc : VReg
  deriving DecidableEq, Repr

/-- The running routine (R208, R216 to R219, R225): `rank` numbers its steps as they issue, `next` is the first cycle at which its next step may issue, `done`
the cycle by which every earlier step but a DRN has finished and landed. -/
structure Routine where
  id : Nat
  warp : Nat
  alive : Bool
  k : Nat
  base : Nat
  len : Nat
  ns : Nat
  pos : Nat
  rank : Nat
  q : List DWord
  fmt : Byte
  ov : Bool
  ae : Bool
  rids : List Nat
  syncs : Nat
  syncRid : Option Nat
  loops : List StepLoop
  drain : Option Drain
  block : Block
  next : Nat
  done : Nat
  region : Bool
  stopped : Bool
  deriving DecidableEq, Repr

/-- The matrix engine and its lease (R194, R195, R218, R223, R224). `rows` gives the cycle at which the last write of a
row lands; `entered` is the cycle at which the last row of a stream enters; `release` are the rows to be released in the
next cycle; `undo` is what steps have changed while one before them ran; `halting` says that the engine halts at its next
boundary (R225); `fltSeen` is false while the owner of a faulted routine owes its trap; `syncAt` is the cycle at which the WAITA
of the latest SYNC result retired; `rpl` counts replays of the core, `rplRun` those of the current or last routine, which is
`lastK`. -/
structure Engine where
  holder : Option Word
  acc : Table Word
  rowPoison : List Nat
  active : Option Tile
  shadow : Option Tile
  wb0 : WBuf
  wb1 : WBuf
  store : Table DWord
  dir : Table Word
  queue : List MxCmd
  fills : List Fill
  run : Option Routine
  ldJob : Option LdJob
  arrJob : Option RowJob
  rowJob : Option RowJob
  loadFree : Nat
  arrayFree : Nat
  rowFree : Nat
  rows : Table Nat
  entered : Nat
  release : List Nat
  undo : List (Nat × EngChange)
  halting : Bool
  flt : Bool
  fcode : Nat
  fltSeen : Bool
  fltRids : List Nat
  fltWarp : Nat
  fltStep : Nat
  rpl : Nat
  rplRun : Nat
  ov : Bool
  lastK : Nat
  lastEnd : Nat
  syncAt : Option Nat
  deriving DecidableEq, Repr

/-- An engine command of the ray, texture, composite and status paths (R205, R222, R231, R259): what it does, with its
operands as read at issue; a build, where its descriptor is poisoned and whether OUT is readable all the same. `done` stands for one whose values are there and whose completion is on its way; `hold` is the
marker wait of MARKW (R188). -/
inductive EngOp where
  | mstat (d : BitVec 7)
  | wstat (d : BitVec 7)
  | cmpq (d : BitVec 7) (sess : Word)
  | tex (kind : Nat) (blk : BitVec 9) (v : List VReg) (desc : List Byte) (draws : List Word)
  | ray (kind : Nat) (blk : BitVec 9) (v : List VReg) (header : Nat) (cb cf : Bool)
  | build (desc : List Byte) (refit : Bool) (bad : Option (Nat × Bool))
  | cmpt (rec_ : List Byte)
  | hold (marks : List Nat) (reqs : List Nat)
  | done
  deriving DecidableEq, Repr

/-- An engine command that has issued and not completed: its warp, result, level, lanes and path, the cycle before which
it does not act, whether a region fixed that cycle, the ordering points it waits for (R180), and whether the texture
cache is to be invalidated first (R248). -/
structure ECmd where
  id : Nat
  warp : Nat
  handle : Word
  rid : Option Nat
  level : Level
  mask : Mask
  path : Nat
  due : Nat
  region : Bool
  deps : List Nat
  inval : Bool
  op : EngOp
  deriving DecidableEq, Repr

/-- A 128-byte line of a core cache: its bytes and which are dirty (R299). -/
structure CLine where
  bytes : List Byte
  dirty : Mask
  poison : Bool
  deriving DecidableEq, Repr

/-- A walk for a page that a core's bundle waits for (R161, R390): the cycle before which it does not end, and the
subcode once it has failed. -/
structure Walk where
  core : Nat
  warp : Nat
  va : Nat
  due : Nat
  fail : Option Nat
  deriving DecidableEq, Repr

/-- A core (R11 to R14, R55 to R74, R164 to R193, R267 to R303, R457). It issues nothing before `free`, and `bound` is the end of
the cycles of the last bundle itself, at which it may be interrupted (R382). `halt` is the cycle by which it has halted for
debug (R456), and `trace` numbers what its trace buffer holds. -/
structure Core where
  enabled : Bool
  warps : Table Warp
  regs : Table VReg
  pw : List Pending
  scratch : List Host.Cell
  spoison : List Nat
  accs : List Access
  carve : Nat
  current : Option Nat
  free : Nat
  bound : Nat
  gated : Bool
  wake : Nat
  gates : Nat
  wakewhy : Byte
  inbox : Table InSlot
  packets : List Packet
  red : List RedEntry
  copyq : Table (List CopyRec)
  childq : Table (List Child)
  launchq : List LaunchWait
  phases : Table Phase
  hqueue : List HStart
  eng : Engine
  ecmds : List ECmd
  cache : Table CLine
  tlb : List Leaf
  scq : List Nat
  semWait : List (Nat × Nat)
  semRel : List (Nat × Option Nat × Scope × Nat)
  winq : List WinReq
  winFree : Nat
  ports : BitVec 8
  why : Byte
  texCache : Table CLine
  dbg : Word
  bpl : Word
  bph : Word
  halt : Option Nat
  trace : List Nat
  deriving DecidableEq, Repr

/-- Why a bundle cannot issue in this cycle: a table walk (R161), a full port (R308), or a full engine queue (R48). -/
inductive Hold where
  | none | walk | port | queue
  deriving DecidableEq, Repr

/-- One lane's part of a memory request: its virtual or fabric address, its physical address, its operands and the
value it read, with the poison of what it read (R160 to R173). -/
structure LaneReq where
  lane : Nat
  addr : DWord
  pa : Nat
  x : DWord
  y : DWord
  val : DWord
  bad : Bool
  deriving DecidableEq, Repr

/-- What a memory request does at its performing point. `acquire` and `release` are the ordering points of fences,
barriers, semaphores and phases: they access nothing. -/
inductive ReqKind where
  | load (t : LdTy)
  | store (t : StTy)
  | atom (op : AtomOp)
  | red (op : RedOp)
  | fill (core : Bool)
  | acquire (sc : Scope)
  | release (sc : Scope)
  deriving DecidableEq, Repr

/-- The way a request takes: through the core cache, straight to its home, to a remote part, or nowhere
(R298, R299, R309, R315). -/
inductive Path where
  | cached | home | fabric | order
  deriving DecidableEq, Repr

/-- Where a request stands (R307, R308). -/
inductive Stage where
  | waiting | ingress | listed | entered | answered
  deriving DecidableEq, Repr

/-- A request for one line that has issued and whose answer has not arrived (R165, R307, R308, R315). `deps` are the
requests whose answers must arrive before it performs; `chain` says which earlier requests of its instruction must
have performed (R169, R173): 1 those of its home, 2 all; `orders` says that the warp's later accesses wait for it;
`acq` and `rel` are the scopes at which it acquires and releases; `scKey` is its place in the order of R321; `behind` gives the
cycle and slot of a release, or of an acquire: its warp's scratchpad accesses, or loads, of earlier bundles and slots perform before
it (R317). `acted` says that it has performed at its bank and only its answer is to come (R308); `route` is the port that led to its
part when it issued (R411). -/
structure Req where
  id : Nat
  core : Nat
  warp : Nat
  rid : Option Nat
  kind : ReqKind
  path : Path
  line : Nat
  lanes : List LaneReq
  deps : List Nat
  chain : Nat
  orders : Bool
  acq : Option Scope
  rel : Option Scope
  sc : Bool
  scKey : Option Nat
  behind : Option (Nat × Nat)
  stage : Stage
  due : Nat
  acted : Bool
  route : Nat
  deriving DecidableEq, Repr

/-- A missed line (R308): the cycle at which it arrives, or at which its list is next served, and how many requests
stand on its list. -/
structure Miss where
  line : Nat
  due : Nat
  arrived : Bool
  list : List Nat
  deriving DecidableEq, Repr

/-- A flush record on its way to a home, or staged there (R177, R178): `rid` numbers the contribution, `first` says that its home is the
first one listed, `home1` names the part and die of that one, `listed` are the dies of its home's part that are listed, `part` is the sender's part,
`dest` that of its home, and `port` the port by which it left for another part. -/
structure FlushRec where
  id : Nat
  die : Nat
  part : Nat
  core : Nat
  warp : Nat
  rid : Nat
  sid : Nat
  ncon : Nat
  evicted : Bool
  err : Bool
  first : Bool
  home1 : Nat × Nat
  listed : List Nat
  dest : Nat
  port : Nat
  ents : List RedEntry
  doneAddr : DWord
  deriving DecidableEq, Repr

/-- The word that an entry of a contribution was dropped, for the home at die `die` that is listed first (R177): the session, and the
contribution by its part, core and number. -/
structure LostMark where
  die : Nat
  sid : Nat
  part : Nat
  core : Nat
  rid : Nat
  deriving DecidableEq, Repr

/-- What leaves the part through a Hedgerow port (R177, R416, R424): the lanes of one instruction for one part, `rel` saying that it is
an ST.REL, a flush record, the mark of a dropped entry, a composite packet, an add to a DONE counter (R178), or the answer to an access of another part; or an interrupt
or the data of a read that goes to the host (R328, R440). -/
inductive OutMsg where
  | access (part : Nat) (id : Nat) (kind : ReqKind) (rel : Bool) (lanes : List LaneReq)
  | lost (part : Nat) (m : LostMark)
  | flush (part : Nat) (r : FlushRec)
  | comp (part : Nat) (p : CompPacket)
  | irq (why : Nat)
  | done (part : Nat) (addr : DWord) (amount : DWord)
  | answer (part : Nat) (id : Nat) (a : RemoteAns)
  | hostData (stream : Nat) (data : List Byte)
  | ready
  deriving DecidableEq, Repr

/-- An ordered session open at a home (R178). -/
structure Session where
  die : Nat
  sid : Nat
  ncon : Nat
  recs : List FlushRec
  err : Bool
  deriving DecidableEq, Repr

/-- A role of a role table (R277, R358). -/
structure Role where
  entry : DWord
  cls : Nat
  pools : List Nat
  deriving DecidableEq, Repr

/-- A static-region record as the group holds it (R284): absolute addresses. -/
structure RegionRec where
  start : Nat
  stop : Nat
  len : Nat
  pol : Bool
  abs : Bool
  aln : Nat
  gcc : Nat
  deriving DecidableEq, Repr

/-- A stream descriptor (R249), with the send index of a guide queue (R399). -/
structure ZDesc where
  base : Nat
  cap : Nat
  count : Nat
  drop : Nat
  send : Nat
  deriving DecidableEq, Repr

/-- A barrier generation (R185): the expected count of its first arrival, who has arrived, which entries wait, and the
release points of the arrivals. -/
structure Bar where
  expect : Option Word
  arrived : List (Nat × Nat)
  waits : List (Nat × Nat × Mask)
  rels : List Nat
  deriving DecidableEq, Repr

/-- Where a group stands (R362 to R371). -/
inductive GStatus where
  | waiting | resident | leaving | held | done | killed
  deriving DecidableEq, Repr

/-- What a swapped-out group's opaque areas hold (R384): the packets of the timed inbox, the reduction entries, the
lease with the cycle at which it was saved, the starts of the handler queue, the poisoned words of its region, and what the
increments of its semaphore words stand for (R186), by offset in the region. -/
structure Kept where
  inbox : Table InSlot
  poison : List Nat
  red : List RedEntry
  eng : Option Engine
  at_ : Nat
  hq : List HStart
  sems : List (Nat × Option Nat × Scope × Nat)
  deriving DecidableEq, Repr

/-- A group (R249, R266, R277, R300, R357, R363, R371). `past` are the numbers, with their cores, of handler warps that have
retired (R368), and `gone` says that its grid has counted it (R369). -/
structure Group where
  status : GStatus
  grid : Nat
  num : Nat
  core : Nat
  warps : Nat
  slots : List Nat
  handlers : Table Nat
  roles : List Role
  role : Nat
  pools : List Nat
  age : Bool
  budget : DWord
  z : Table ZDesc
  bars : Table Bar
  region : Nat
  allot : Nat
  stats : List RegionRec
  carve : Nat
  lease : Bool
  reloc : Bool
  dt : Nat
  swap : DWord
  swapLen : Nat
  saved : Bool
  open_ : Bool
  cause : Option Cause
  record : Option Record
  fresh : Bool
  rtn : Nat
  nword : Nat
  past : List (Nat × Nat)
  cores : List Nat
  lastn : Nat
  arrivedRole : Table Nat
  due : Nat
  kill : Bool
  kept : Kept
  gone : Bool
  deriving DecidableEq, Repr

/-- A grid (R356, R360, R369, R372). -/
structure Grid where
  live : Bool
  prio : Nat
  l : Nat
  stream : Option Nat
  evt : DWord
  trees : List Nat
  ngrp : Nat
  left : Nat
  bad : Bool
  const : DWord
  constLen : Nat
  seed : DWord
  pmap : DWord
  allot : Nat
  img : DWord
  imgLen : Nat
  deriving DecidableEq, Repr

/-- A command of a stream that has started and not completed (R351 to R353). -/
structure Cmd where
  op : Nat
  id : Nat
  grid : Option Nat
  addr : DWord
  val : DWord
  die : Nat
  deriving DecidableEq, Repr

/-- A command stream as last read (R350, R352). -/
structure Stream where
  head : DWord
  ctl : Byte
  state : Byte
  err : BitVec 16
  swb : DWord
  swl : DWord
  used : List (Nat × Nat)
  cmds : List Cmd
  waitEv : Option (DWord × DWord)
  nextPoll : Nat
  deriving DecidableEq, Repr

/-- A governed frame (R405, R406). -/
structure Frame where
  stream : Nat
  num : Word
  deadline : DWord
  margin : Word
  compcyc : Word
  prog : DWord
  k : Nat
  steps : Nat
  min : Nat
  max : Nat
  trims : Nat
  t0 : Nat
  deriving DecidableEq, Repr

/-- A send record handed to the Privet sender: its group, its offset in that group's region, and the release that comes
before it (R326, R399). -/
structure Send where
  core : Nat
  handle : Word
  off : Nat
  rel : Nat
  deriving DecidableEq, Repr

/-- A guide tile crossing the bridge (R401). -/
structure Guide where
  src : Nat
  dst : Nat
  handle : Word
  dsto : Nat
  semo : Nat
  tag0 : Word
  tag1 : Word
  ptag : Option Word
  haddr : Option DWord
  bytes : List Byte
  deriving DecidableEq, Repr

/-- A guide tile whose payload has landed: the cycle of what follows it, its group, and the semaphore word in the scratchpad
(R401). -/
structure GuideTail where
  due : Nat
  handle : Nat
  sem : Option Nat
  tile : Guide
  deriving DecidableEq, Repr

/-- A semaphore increment on its way from an STCMT (R252). -/
structure Incr where
  due : Nat
  core : Nat
  word : Nat
  n : Nat
  grid : Nat
  sc : Scope
  dep : Option Nat
  src : Nat
  handle : Word
  deriving DecidableEq, Repr

/-- A node value of a composite tile: the rank interval, the missing mask and the payload (R417, R419, R420). -/
structure CNode where
  frame : Nat
  tx : Nat
  ty : Nat
  lo : Nat
  hi : Nat
  miss : Nat
  payload : List Byte
  deriving DecidableEq, Repr

/-- A write of a final tile or of its missing mask that waits for its position of the wheel (R321, R422); with `last` it is
the one that completes the tile. `eng` is the merge engine that writes it. -/
structure OutTile where
  eng : Nat
  frame : Nat
  va : Nat
  bytes : List Byte
  last : Bool
  deriving DecidableEq, Repr

/-- An open composite session (R413, R414, R419 to R422): the descriptor, the nodes held, the intervals that have left (frame,
tile, interval), the leaves filled here in open frames (frame, tile, rank), the tiles written or withheld in each frame, the frames whose fill time has passed, the history slots
written, the ranks behind a route that went down, the writes that wait, the vsyncs that have passed, and CMPQ's fields. -/
structure CSess where
  sess : Word
  desc : List Byte
  nodes : List CNode
  sent : List (Nat × Nat × Nat × Nat × Nat)
  holes : List (Nat × Nat × Nat × Nat)
  tiles : Table Nat
  filled : Nat
  written : List Nat
  outq : List OutTile
  vs : Nat
  lfr : Word
  late : Nat
  st : Nat
  deriving DecidableEq, Repr

/-- A scan-out head (R423, R460): so.mode with the size in force, the size to come, the tiles of its frame store by index,
those delivered for a frame still to be shown, the pixels it emitted last, the frame it shows, and the frames, by session, that had a
tile outside its size. -/
structure Head where
  mode : Word
  pending : Option Word
  tiles : Table (List Byte)
  next : List (Word × Nat × Nat × List Byte)
  emitted : Table (List Nat)
  shown : Option Nat
  badFrames : List (Nat × Nat)
  deriving DecidableEq, Repr

/-- A Hedgerow port and the requests in flight on it (R409, R426). -/
structure Port where
  up : Bool
  inflight : List Nat
  deriving DecidableEq, Repr

/-- The Hedgerow control block in force (R411). -/
structure Control where
  self : Byte
  exbase : DWord
  exlen : DWord
  route : List Byte
  land : List Byte
  deriving DecidableEq, Repr

/-- The registers of one quad's power control (R461, R464). -/
structure Quad where
  st : Nat
  err : Bool
  gate : Bool
  ok : Bool
  lvl : Nat
  retbase : Word
  railDue : Option Nat
  deriving DecidableEq, Repr

/-- The error and access registers of one die, with the windows of R444 that have ended (R439, R440, R444). -/
structure Die where
  present : Bool
  pactl : Word
  mqbase : DWord
  mqhead : Word
  mqtail : Word
  ecc : Word
  win : Nat
  deriving DecidableEq, Repr

/-- The replay of a burst that failed its link CRC (R448): its line and lane, how many replays there have been, and the cycle by which
this one has completed. -/
structure Replay where
  line : Nat
  lane : Nat
  n : Nat
  due : Nat
  deriving DecidableEq, Repr

/-- An HBM channel (R448, R449): the cycles of the CRC errors of each lane, the cycle at which its repair window began, the
lane under repair, whether its reads are held, the spares left, the lanes remapped to spares, the lines of abandoned
bursts, the replays, and whether it is degraded. -/
structure Channel where
  errs : Table (List Nat)
  window : Nat
  repairing : Option Nat
  held : Bool
  spares : Nat
  remap : List (Nat × Nat)
  abandoned : List Nat
  replays : List Replay
  degraded : Bool
  deriving DecidableEq, Repr

/-- The start of the part (R450 to R456): whether it has started or is in recovery mode, an image loaded in recovery, the
journal with its counts, the life cycle, the identity key, by the number of the pair, with its certificate, whether memory is to be
zeroed (R453), the nonce of the latest report (empty before the first), the debug
state unlocked, and the pools per bank that the firmware image names for its warps on cores 130 and 131 (R14). -/
structure Start where
  started : Bool
  recovery : Bool
  image : Option (List Byte)
  wipe : Bool
  journal : List Byte
  counts : List Nat
  lifecycle : Nat
  ident : Option Nat
  cert : List Byte
  nonce : List Byte
  unlocked : Option Nat
  fwPools : Table (List Nat)
  deriving DecidableEq, Repr

/-- A build or refit under way (R239): the descriptor as read, whether it refits, the STATE found at OUT, the core, warp
and result it completes on, OUT where it could be read, the first byte of the descriptor that lies in a poisoned line, and the
cycle before which it does not end. -/
structure Build where
  id : Nat
  desc : List Byte
  refit : Bool
  was : Nat
  core : Nat
  warp : Nat
  handle : Word
  level : Level
  rid : Option Nat
  out : Option Nat
  bad : Option Nat
  due : Nat
  deriving DecidableEq, Repr

/-- The issue context of a slot instruction: the core and resident slot it issues from, its slot, the address of its
bundle and of the next one in sequence, the issuing entry's mask, and what the bundle has asked of the core so far:
a switch point, a trap that follows it, a control instruction, an exit, a LOOP that skips its body, extra cycles, the
wait its entry enters, a stall that keeps it from issuing, and the descriptors that its STSETs replaced (R250). -/
structure Cur where
  core : Nat
  warp : Nat
  slot : Slot
  pc : DWord
  nextPc : DWord
  mask : Mask
  switch : Bool
  after : Option (Cause × Nat)
  control : Bool
  exited : Bool
  skip : Option DWord
  extra : Nat
  wait : Wait
  stall : Hold
  zset : List (Nat × ZDesc)
  deriving DecidableEq, Repr

/-- Memory as the part holds it: bytes by physical address, poisoned lines, the lines present in L2, the remote-data
caches (one table for each die), the requests under way, the missed lines, the walks and invalidations
(R305 to R312, R388 to R391), the cycle in which each L2 port last carried a request (R307), the last turn served at a position of the wheel (R321), and the flush records and sessions of R177 and R178. -/
structure MemSys where
  mem : List Host.Cell
  poisoned : List Nat
  l2 : List Nat
  rdc : Table (Table CLine)
  reqs : List Req
  misses : List Miss
  walks : List Walk
  tcache : Table (List Leaf)
  root : DWord
  ptrl : Word
  ptrh : Word
  tiva : Word
  tivh : Word
  invva : Nat
  busy : Bool
  lost : Bool
  sz : Nat
  ports : Table Nat
  wheel : Table Nat
  flushes : List FlushRec
  sessions : List Session
  marks : List LostMark
  deriving DecidableEq, Repr

/-- Launches and the scheduler: groups by handle, grids by index, quad barriers, phase trees, command streams and
their watches, STCMT increments in flight, and builds under way (R184 to R187, R239, R252, R350 to R372). -/
structure Sched where
  groups : Table Group
  grids : Table Grid
  qbars : Table Bar
  released : Table Nat
  treeMask : Table (BitVec 144)
  streams : Table Stream
  streamTable : DWord
  lNext : Nat
  lastStream : Nat
  incrs : List Incr
  builds : List Build
  deriving DecidableEq, Repr

/-- The frame path: the governor table and its writes in flight, STEPCYC, the governed frame, guide tiles handed to
the senders, crossing the bridges and just landed, and the BIN and COVER blocks not yet complete (R257, R393 to R408). -/
structure Frames where
  gov : Table Word
  govWrites : List (Nat × Nat × List Word)
  stepcyc : Word
  frame : Option Frame
  sends : Table (List Send)
  sendNext : Table Nat
  guides : Table (List Guide)
  tails : List GuideTail
  binCover : List (Nat × Nat × Nat)
  deriving DecidableEq, Repr

/-- Compositing and remote operations: sessions, the last status of those closed, scan-out heads, ports, the control block,
what has left for other parts, and whether the part has joined a domain (R409 to R428). -/
structure Hedge where
  csess : List CSess
  heads : Table Head
  ports : Table Port
  control : Control
  outbox : List (Nat × OutMsg)
  closed : Table DWord
  joined : Bool
  deriving DecidableEq, Repr

/-- The trap rings and vectors (R376 to R379): the records in slots, those that wait for one, and the count of slots
given out. -/
structure Rings where
  sRing : List RingRec
  fRing : List RingRec
  sWait : List (Record × Owner)
  fWait : List (Record × Owner)
  sNext : Nat
  fNext : Nat
  ringsl : Word
  ringsh : Word
  ringsc : Word
  ringfl : Word
  ringfh : Word
  ringfc : Word
  tvsl : Word
  tvsh : Word
  tvfl : Word
  tvfh : Word
  deriving DecidableEq, Repr

/-- The device state area of a checkpoint (R445): the command core, streams, groups and governor, the merge engines, the
translation root in force and the one written last (R388), and the warps that wait with their swapped-out groups; `area` names the bytes in which the device writes
it. -/
structure Ckpt where
  sched : Sched
  fr : Frames
  csess : List CSess
  closed : Table DWord
  root : DWord
  ptrl : Word
  ptrh : Word
  parked : Table (Table Warp)
  area : Nat
  deriving DecidableEq, Repr

/-- The part's management: die registers, channels under repair, checkpoints, quad power, the mailbox, start-up, the
capability list and the clock (R16, R17, R438 to R466). -/
structure Plant where
  dies : Table Die
  channels : Table Channel
  ckptStat : Word
  ckptState : Option Ckpt
  quads : Table Quad
  qsel : Nat
  pmWake : Word
  mailbox : List Host.Cell
  start : Start
  capList : DWord
  freq : Nat
  freqReq : Option (Nat × Bool)
  throttle : Bool
  mchecks : Nat
  deriving DecidableEq, Repr

/-- The part. `gcc` is the global cycle counter (R282); `ev`, `cur`, `agenda` and `cursor` belong to the model: the
subject of the event being taken, the issue context, the inputs still to come, and the core the cycle has reached.
`drawn` counts the free values taken so far and `nextId` numbers bindings, results and requests. -/
structure State where
  gcc : Nat
  ev : Ev
  cur : Cur
  agenda : List (Instr × Ev)
  cursor : Nat
  drawn : Nat
  nextId : Nat
  cores : Table Core
  ms : MemSys
  sched : Sched
  fr : Frames
  hd : Hedge
  rg : Rings
  pt : Plant
  deriving DecidableEq, Repr

/-! ## Reset -/

/-- A warp slot with nothing in it (R364: the values a warp starts with; DESIGN CHOICE, log entry 2: they stand at
reset too). -/
def Warp.empty : Warp :=
  { status := .free, level := .u, handle := 0, wnum := 0, prio := 0, handlerOf := none, ready := none,
    entries := [], spilled := [], issuer := none, dl := 0, xfer := .none, falls := [], susp := .none,
    also := [], sw := none, after := none, found := none, s := [], f := 1, p := [], map := [], latches := [], caches := [], lv := 0,
    kv := 0, loops := [], strides := [], noise := [], seeded := none, fmode := 0x80, fexc := 0, stretch := 0,
    lseq := 0, q := [], mfmt := 0, mfmtNext := [], segBase := [], segLimit := [], watch := none,
    watchHit := false, results := [], xgate := [], markers := [], mwaits := [], gate := [], region := none,
    frozen := 0, lates := [], evicted := false, held := false,
    delayed := 0, delay := none, replay := false, drain := false, futiles := [],
    budget := 0xFFFFFFFFFFFFFFFF, engLate := false, eret := false, img := 0, toks := [], broken := false }

def WBuf.empty : WBuf := ⟨[], [], .filled, 0, false⟩

/-- The engine as a group that takes the lease finds it (R195). -/
def Engine.empty : Engine :=
  { holder := none, acc := [], rowPoison := [], active := none, shadow := none, wb0 := .empty, wb1 := .empty,
    store := [], dir := [], queue := [], fills := [], run := none, ldJob := none, arrJob := none, rowJob := none,
    loadFree := 0, arrayFree := 0, rowFree := 0, rows := [], entered := 0, release := [], undo := [],
    halting := false, flt := false, fcode := 0,
    fltSeen := true, fltRids := [], fltWarp := 0, fltStep := 0, rpl := 0, rplRun := 0, ov := false, lastK := 0,
    lastEnd := 0, syncAt := none }

/-- A core after reset: enabled, empty, with a carve of 12 MiB of scratchpad; its registers and accumulators are zero
(DESIGN CHOICE, log entry 2). -/
def Core.reset : Core :=
  { enabled := true, warps := [], regs := [], pw := [], scratch := [], spoison := [], accs := [], carve := 12,
    current := none, free := 0, bound := 0, gated := false, wake := 0, gates := 0, wakewhy := 0, inbox := [],
    packets := [], red := [], copyq := [], childq := [], launchq := [], phases := [], hqueue := [], eng := .empty, ecmds := [],
    cache := [], tlb := [], scq := [], semWait := [], semRel := [], winq := [], winFree := 0, ports := 0, why := 0, texCache := [],
    dbg := 0, bpl := 0, bph := 0, halt := none, trace := [] }

def Phase.reset : Phase := ⟨0, none, false, [], [], none, []⟩

def ZDesc.reset : ZDesc := ⟨0, 0, 0, 0, 0⟩

def Bar.reset : Bar := ⟨none, [], [], []⟩

def Stream.reset : Stream := ⟨0, 0, 0, 0, 0, 0, [], [], none, 0⟩

def Head.reset : Head := ⟨0, none, [], [], [], none, []⟩

/-- pm.rail.OK resets to 1 (R461). -/
def Quad.reset : Quad := ⟨0, false, false, true, 0, 0, none⟩

/-- THR resets to 0xFFFF (R439) and RTHR to 64 (R444). -/
def Die.reset : Die := ⟨true, 0xFFFF0000, 0, 0, 0, 0x00400000, 0⟩

def Channel.reset : Channel := ⟨[], 0, none, false, 2, [], [], [], false⟩

def Port.reset : Port := ⟨true, []⟩

def Group.empty : Group :=
  { status := .done, grid := 0, num := 0, core := 0, warps := 0, slots := [], handlers := [], roles := [],
    role := 0, pools := [], age := false, budget := 0, z := [], bars := [], region := 0, allot := 0,
    stats := [], carve := 12, lease := false, reloc := false, dt := 0, swap := 0, swapLen := 0, saved := false,
    open_ := false, cause := none, record := none, fresh := true, rtn := 0, nword := 0, past := [], cores := [], lastn := 0,
    arrivedRole := [], due := 0, kill := false, kept := ⟨[], [], [], none, 0, [], []⟩, gone := false }

def Grid.empty : Grid :=
  { live := false, prio := 0, l := 0, stream := none, evt := 0, trees := [], ngrp := 0, left := 0, bad := false,
    const := 0, constLen := 0, seed := 0, pmap := 0, allot := 0, img := 0, imgLen := 0 }

def Cur.reset : Cur :=
  ⟨0, 0, .sa, 0, 0, 0, false, none, false, false, none, 0, .none, .none, []⟩

def Start.reset : Start :=
  ⟨false, false, none, false, List.replicate 24 0, List.replicate 24 0, 0, none, [], [], none, []⟩

def MemSys.reset : MemSys :=
  { mem := [], poisoned := [], l2 := [], rdc := [], reqs := [], misses := [], walks := [], tcache := [],
    root := 0, ptrl := 0, ptrh := 0, tiva := 0, tivh := 0, busy := false, lost := false, sz := 0, invva := 0, ports := [],
    wheel := [], flushes := [], sessions := [], marks := [] }

def Sched.reset : Sched :=
  { groups := [], grids := [], qbars := [], released := [], treeMask := [], streams := [], streamTable := 0,
    lNext := 0, lastStream := 63, incrs := [], builds := [] }

/-- STEPCYC is 1,048,576 at reset (R404). -/
def Frames.reset : Frames :=
  { gov := [(4, 1048576)], govWrites := [], stepcyc := 1048576, frame := none, sends := [], sendNext := [], guides := [],
    tails := [], binCover := [] }

def Hedge.reset : Hedge :=
  { csess := [], heads := [], ports := [], control := ⟨0, 0, 0, [], []⟩, outbox := [], closed := [],
    joined := false }

def Rings.reset : Rings :=
  { sRing := [], fRing := [], sWait := [], fWait := [], sNext := 0, fNext := 0, ringsl := 0, ringsh := 0, ringsc := 0, ringfl := 0,
    ringfh := 0, ringfc := 0, tvsl := 0, tvsh := 0, tvfl := 0, tvfh := 0 }

/-- The clock runs at 2.25 GHz (R16); DESIGN CHOICE, log entry 93: from reset on. -/
def Plant.reset : Plant :=
  { dies := [], channels := [], ckptStat := 0, ckptState := none, quads := [], qsel := 0, pmWake := 0,
    mailbox := [], start := .reset, capList := 0, freq := 2250000000, freqReq := none, throttle := false, mchecks := 0 }

/-- The part right after reset: nothing started, every register at the value its rule gives, or zero where no rule gives
one (DESIGN CHOICE, log entry 2), and no byte of memory written (log entry 3). `drawn`, `cursor`, `agenda`, `ev`, `cur`
and `nextId` are the model's own (log entries 1 and 5). -/
def State.reset : State :=
  { gcc := 0, ev := .none, cur := .reset, agenda := [], cursor := 0, drawn := 0, nextId := 0, cores := [],
    ms := .reset, sched := .reset, fr := .reset, hd := .reset, rg := .reset, pt := .reset }

end Sys2Proof.Machine
end

