-- ==== Sys2Proof/Machine/Ops.lean ====
section
/-!
DEFINITION. The named operations over the state: sparse tables, memory bytes, cores and warps, scalar and vector
registers, binding and release, pending writes and their landing, and taking a trap with the return from it.
-/
namespace Sys2Proof

/-- The number of the latch an instruction of a slot writes (R57). -/
def Slot.latch : Slot → Option Nat
  | .va => some 0
  | .vb => some 1
  | .vc => some 2
  | .xe => some 3
  | .ma => some 4
  | .mb => some 5
  | .sa | .sb => none

end Sys2Proof

namespace Sys2Proof.Machine

/-! ## Sparse tables -/

def tget? {α : Type} : Table α → Nat → Option α
  | [], _ => none
  | (k', v) :: r, k => if k' = k then some v else tget? r k

def tget {α : Type} (d : α) (t : Table α) (k : Nat) : α := (tget? t k).getD d

def tset {α : Type} : Table α → Nat → α → Table α
  | [], k, v => [(k, v)]
  | (k', v') :: r, k, v =>
    if k < k' then (k, v) :: (k', v') :: r
    else if k = k' then (k, v) :: r
    else (k', v') :: tset r k v

def tdel {α : Type} : Table α → Nat → Table α
  | [], _ => []
  | (k', v) :: r, k => if k' = k then tdel r k else (k', v) :: tdel r k

/-! ## Memory bytes: sorted lists over a default of zero -/

/-- The byte at an address; an unlisted address reads as zero. -/
def memGet : List Host.Cell → Nat → Byte
  | [], _ => 0
  | (k, v) :: r, a => if k = a then v else memGet r a

/-- Store a byte, keeping the addresses rising and no zero listed. -/
def memSet : List Host.Cell → Nat → Byte → List Host.Cell
  | [], a, b => if b = 0 then [] else [(a, b)]
  | (k, v) :: r, a, b =>
    if a < k then (if b = 0 then (k, v) :: r else (a, b) :: (k, v) :: r)
    else if a = k then (if b = 0 then r else (a, b) :: r)
    else (k, v) :: memSet r a b

/-- The canonical form of a memory: addresses strictly rising, no byte equal to the default listed. -/
def Memory.wf : List Host.Cell → Bool
  | [] => true
  | [(_, v)] => v != 0
  | (k, v) :: (k', v') :: r => v != 0 && decide (k < k') && Memory.wf ((k', v') :: r)

/-- The value of `n` bytes from an address, the lowest byte first (R1). -/
def memRead (m : List Host.Cell) (a : Nat) : Nat → Nat
  | 0 => 0
  | n + 1 => (memGet m a).toNat + 256 * memRead m (a + 1) n

/-- Store a list of bytes from an address. -/
def memWrite (m : List Host.Cell) (a : Nat) : List Byte → List Host.Cell
  | [] => m
  | b :: r => memWrite (memSet m a b) (a + 1) r

/-- The bytes from an address. -/
def memBytes (m : List Host.Cell) (a : Nat) : Nat → List Byte
  | 0 => []
  | n + 1 => memGet m a :: memBytes m (a + 1) n

/-- The `n` low bytes of a number, the lowest first (R1). -/
def bytesOf (n v : Nat) : List Byte :=
  match n with
  | 0 => []
  | n + 1 => BitVec.ofNat 8 v :: bytesOf n (v / 256)

/-- The number a list of bytes stands for (R1). -/
def ofBytes : List Byte → Nat
  | [] => 0
  | b :: r => b.toNat + 256 * ofBytes r

/-- `n` bytes of a list from an offset, as a number. -/
def field (l : List Byte) (o n : Nat) : Nat := ofBytes ((l.drop o).take n)

/-! ## Numbers of cores, dies and lines (R13, R301, R305, R306) -/

def dieOf (core : Nat) : Nat := core / 16

def quadOf (core : Nat) : Nat := core / 4

/-- The home die of a physical address (R305), or none where nothing stands. -/
def homeDie (pa : Nat) : Option Nat :=
  if pa < 0x10000000000 then some (pa / 2 ^ 37 % 8)
  else if pa < 0x30000000000 then some 8
  else none

/-- The L2 bank 4s + b of a physical address (R306). -/
def l2Bank (pa : Nat) : Nat :=
  let s := (pa / 2 ^ 7 % 16) ^^^ (pa / 2 ^ 11 % 16) ^^^ (pa / 2 ^ 15 % 16)
  let b := (pa / 2 ^ 19 % 4) ^^^ (pa / 2 ^ 21 % 4)
  4 * s + b

def lineOf (pa : Nat) : Nat := pa / 128

/-! ## Cores, warps, groups, grids -/

def State.core (s : State) (c : Nat) : Core := tget Core.reset s.cores c

def State.updCore (s : State) (c : Nat) (f : Core → Core) : State :=
  { s with cores := tset s.cores c (f (s.core c)) }

def Core.warp (k : Core) (w : Nat) : Warp := tget Warp.empty k.warps w

def Core.updWarp (k : Core) (w : Nat) (f : Warp → Warp) : Core :=
  { k with warps := tset k.warps w (f (k.warp w)) }

def State.warp (s : State) (c w : Nat) : Warp := (s.core c).warp w

def State.updWarp (s : State) (c w : Nat) (f : Warp → Warp) : State :=
  s.updCore c (fun k => k.updWarp w f)

/-- The warp whose instruction is taken. -/
def State.me (s : State) : Warp := s.warp s.cur.core s.cur.warp

/-- The core whose instruction is taken. -/
def State.myCore (s : State) : Core := s.core s.cur.core

def State.updMe (s : State) (f : Warp → Warp) : State := s.updWarp s.cur.core s.cur.warp f

def State.updMyCore (s : State) (f : Core → Core) : State := s.updCore s.cur.core f

def State.group (s : State) (h : Nat) : Group := tget Group.empty s.sched.groups h

def State.updGroup (s : State) (h : Nat) (f : Group → Group) : State :=
  { s with sched := { s.sched with groups := tset s.sched.groups h (f (s.group h)) } }

def State.grid (s : State) (i : Nat) : Grid := tget Grid.empty s.sched.grids i

def State.updGrid (s : State) (i : Nat) (f : Grid → Grid) : State :=
  { s with sched := { s.sched with grids := tset s.sched.grids i (f (s.grid i)) } }

/-- The group of the issuing warp. -/
def State.myGroup (s : State) : Group := s.group s.me.handle.toNat

def State.updMyGroup (s : State) (f : Group → Group) : State := s.updGroup s.me.handle.toNat f

/-- The grid index of a handle (R371). -/
def gridOf (h : Word) : Nat := (h.extractLsb' 16 10).toNat

/-- Take the next number for a binding, a result or a request. -/
def State.fresh (s : State) : Nat × State := (s.nextId, { s with nextId := s.nextId + 1 })

/-- Take a free value. -/
def State.draw (s : State) : Nat × State := (s.drawn, { s with drawn := s.drawn + 1 })

/-- The resident slots of a group's warps, handlers included. -/
def Group.allSlots (g : Group) : List Nat := g.slots ++ g.handlers.map (·.2)

/-- The resident groups on a core, by handle. -/
def State.residentOn (s : State) (c : Nat) : List (Nat × Group) :=
  s.sched.groups.filter (fun x => x.2.core == c && (x.2.status == .resident || x.2.status == .leaving))

/-! ## Scalar registers, flags, predicates (R97, R98) -/

/-- s0 reads as zero (R98). -/
def sGet (w : Warp) (n : BitVec 7) : Word := if n = 0 then 0 else tget 0 w.s n.toNat

/-- A write to s0 is discarded (R98). -/
def sSet (w : Warp) (n : BitVec 7) (v : Word) : Warp :=
  if n = 0 then w else { w with s := tset w.s n.toNat v }

/-- The pair sN:sN+1, with bits 31:0 in sN (R98). -/
def sPairGet (w : Warp) (n : BitVec 7) : DWord := sGet w (n + 1) ++ sGet w n

/-- f0 is always true (R32). -/
def fGet (w : Warp) (n : BitVec 3) : Bool := n == 0 || w.f.getLsbD n.toNat

def fSet (w : Warp) (n : BitVec 3) (b : Bool) : Warp :=
  if n = 0 then w
  else { w with f := if b then w.f ||| (1#8 <<< n.toNat) else w.f &&& ~~~(1#8 <<< n.toNat) }

/-- p0 is true in every lane (R31). -/
def pGet (w : Warp) (n : BitVec 3) : Mask := if n = 0 then BitVec.allOnes 128 else tget 0 w.p n.toNat

def pSet (w : Warp) (n : BitVec 3) (mask v : Mask) : Warp :=
  if n = 0 then w
  else { w with p := tset w.p n.toNat ((pGet w n &&& ~~~mask) ||| (v &&& mask)) }

/-- The condition of a scalar instruction (R97). -/
def flagOn (w : Warp) (g : Guard) : Bool := fGet w g.reg != g.neg

/-- The lanes an instruction's predicate admits, after negation (R8). -/
def predMask (w : Warp) (g : Guard) : Mask := if g.neg then ~~~(pGet w g.reg) else pGet w g.reg

/-! ## Vectors -/

/-- One value in every lane. -/
def VReg.splat (x : Word) : VReg := ⟨List.replicate 128 x, 0⟩

/-- Lane `l` of a value. -/
def VReg.lane (v : VReg) (l : Nat) : Word := v.lanes.getD l 0

def mergeLanes (m : Mask) : Nat → List Word → List Word → List Word
  | i, a :: as, b :: bs => (if m.getLsbD i then b else a) :: mergeLanes m (i + 1) as bs
  | _, as, [] => as
  | _, [], bs => bs

/-- Write the lanes of a mask, with their poison bits, over a value (R57, R62, R133). -/
def VReg.merge (m : Mask) (old new : VReg) : VReg :=
  ⟨mergeLanes m 0 old.lanes new.lanes, (old.poison &&& ~~~m) ||| (new.poison &&& m)⟩

/-- Build a value lane by lane. -/
def VReg.build (f : Nat → Word) (p : Mask) : VReg := ⟨(List.range 128).map f, p⟩

/-- The lanes of a mask, ascending. -/
def lanesOf (m : Mask) : List Nat := (List.range 128).filter (fun l => m.getLsbD l)

/-- A mask from a test on lanes. -/
def maskOf (f : Nat → Bool) : Mask :=
  (List.range 128).foldl (fun m l => if f l then m ||| (1#128 <<< l) else m) 0

def popcount128 (m : Mask) : Nat := (lanesOf m).length

/-- The bank of a name (R61). -/
def bankOf (n : BitVec 9) : Nat := n.toNat % 8

def regIndex (n : BitVec 9) (b : Bind) : Nat := bankOf n * 512 + b.phys.toNat

/-- The value of a name: that of its physical register (R61). -/
def vGet (k : Core) (w : Warp) (n : BitVec 9) : VReg :=
  match tget? w.map n.toNat with
  | some b => tget VReg.zero k.regs (regIndex n b)
  | none => VReg.zero

/-! ## Pending writes (R68) -/

/-- Queue a fixed-latency result of the issuing slot. -/
def pend (s : State) (lat : Nat) (wr : Write) : State :=
  s.updMyCore (fun k =>
    { k with pw := k.pw ++ [⟨s.cur.warp, s.cur.slot.num, lat, false, none, 0, false, false, wr, none⟩] })

/-- Whether the issuing warp is inside a static region of policy FAULT (R291). -/
def strictNow (w : Warp) : Bool := match w.region with | some r => !r.pol | none => false

/-- Queue a result whose value the reply `id` brings in `n` parts (R164, R170, R303). -/
def pendReply (s : State) (lat id n : Nat) (wr : Write) : State :=
  s.updMyCore (fun k =>
    { k with pw := k.pw ++ [⟨s.cur.warp, s.cur.slot.num, lat, false, some id, n, strictNow s.me, false, wr, none⟩] })

/-- Queue a scalar result (R49). -/
def pendS (s : State) (lat : Nat) (n : BitVec 7) (v : Word) : State := pend s lat (.sreg n v)

/-- Queue a pair result, which takes two entries (R98). -/
def pendPair (s : State) (lat : Nat) (n : BitVec 7) (v : DWord) : State :=
  pendS (pendS s lat n (v.extractLsb' 0 32)) lat (n + 1) (v.extractLsb' 32 32)

/-- The pending writes of a warp. -/
def Core.pwOf (k : Core) (w : Nat) : List Pending := k.pw.filter (fun p => p.warp == w)

/-- The bank a write uses, if it writes a register of a bank (R66). -/
def Write.bank : Write → Option Nat
  | .vec (some (n, _)) _ _ _ _ => some (bankOf n)
  | _ => none

/-- The register write of a vector result: it lands in its binding while that binding stands (R63). -/
def landReg (k : Core) (w : Warp) (dst : Option (BitVec 9 × Nat)) (m : Mask) (v : VReg) : Core :=
  match dst with
  | none => k
  | some (n, tok) =>
    match tget? w.map n.toNat with
    | some b =>
      if b.tok = tok then
        { k with regs := tset k.regs (regIndex n b) (VReg.merge m (tget VReg.zero k.regs (regIndex n b)) v) }
      else k
    | none => k

/-- The latch copy of a result, which sets the latch's valid bit (R57, R60). -/
def landLatch (w : Warp) (l : Option Nat) (m : Mask) (v : VReg) : Warp :=
  match l with
  | none => w
  | some i =>
    { w with
      latches := tset w.latches i (VReg.merge m (tget VReg.zero w.latches i) v)
      lv := w.lv ||| (1#12 <<< i) }

/-- The operand-cache copy of a result, which sets the entry's valid bit (R59, R60). -/
def landCache (w : Warp) (kc : Option (BitVec 3)) (m : Mask) (v : VReg) : Warp :=
  match kc with
  | none => w
  | some i =>
    { w with
      caches := tset w.caches i.toNat (VReg.merge m (tget VReg.zero w.caches i.toNat) v)
      kv := w.kv ||| (1#8 <<< i.toNat) }

/-- Land one result of a warp (R49, R57, R59, R63, R124). -/
def landWrite (k : Core) (wi : Nat) : Write → Core
  | .vec dst m v l kc => (landReg k (k.warp wi) dst m v).updWarp wi (fun w => landCache (landLatch w l m v) kc m v)
  | .sreg n x => k.updWarp wi (fun w => sSet w n x)
  | .flag n b => k.updWarp wi (fun w => fSet w n b)
  | .pred n m v => k.updWarp wi (fun w => pSet w n m v)
  | .stride n x => k.updWarp wi (fun w => sSet w n (sGet w n + x))

/-! ## Involuntary interruptions (R60, R70, R71, R72) -/

/-- What a landing of a warp replaces. -/
def oldOf (k : Core) (w : Warp) : Write → List Undo
  | .vec dst _ _ l kc =>
    (match dst with
      | some (n, tok) =>
        (match tget? w.map n.toNat with
          | some b => if b.tok = tok then [.reg (regIndex n b) (tget VReg.zero k.regs (regIndex n b))] else []
          | none => [])
      | none => []) ++
    (match l with | some i => [.latch i (tget VReg.zero w.latches i) (w.lv.getLsbD i)] | none => []) ++
    (match kc with | some i => [.cache i (tget VReg.zero w.caches i.toNat) (w.kv.getLsbD i.toNat)] | none => [])
  | .sreg n _ | .stride n _ => [.sreg n (sGet w n)]
  | .flag n _ => [.flag n (fGet w n)]
  | .pred n _ _ => [.pred n (pGet w n)]

/-- Put back what a landing of a warp replaced. -/
def undoOne (wi : Nat) (k : Core) : Undo → Core
  | .reg i v => { k with regs := tset k.regs i v }
  | .latch i v b => k.updWarp wi (fun w =>
      { w with latches := tset w.latches i v, lv := if b then w.lv else w.lv &&& ~~~(1#12 <<< i) })
  | .cache i v b => k.updWarp wi (fun w =>
      { w with caches := tset w.caches i.toNat v, kv := if b then w.kv else w.kv &&& ~~~(1#8 <<< i.toNat) })
  | .sreg n x => k.updWarp wi (fun w => sSet w n x)
  | .flag n b => k.updWarp wi (fun w => fSet w n b)
  | .pred n m => k.updWarp wi (fun w => pSet w n (BitVec.allOnes 128) m)

/-- The cycle c at which the bundle of a warp that is presented, or is to come, begins to issue, before any delay (R71). -/
def Warp.began (gcc : Nat) (w : Warp) : Nat := match w.delay with | some d => if d.on then min d.c gcc else gcc | none => gcc

/-- A bundle that is delayed before issue counts its cycles from here, or from where its delay began (R65, R68, R273). -/
def Warp.startDelay (gcc : Nat) (w : Warp) : Warp :=
  { w with delay := match w.delay with | some d => if d.on then some d else some ⟨gcc, true, []⟩ | none => some ⟨gcc, true, []⟩ }

/-- A landing in a cycle of delay is remembered (R71). -/
def noteLanding (gcc : Nat) (k : Core) (p : Pending) (w : Warp) : Warp :=
  match w.delay with
  | some d =>
    if d.on ∧ d.c < gcc then { w with delay := some { d with landed := d.landed ++ [({ p with rem := gcc - d.c }, oldOf k w p.wr)] } }
    else w
  | none => w

/-- Remove the first occurrence of a pending write. -/
def dropPending (p : Pending) (k : Core) : Core := { k with pw := k.pw.erase p }

/-- Whether a result finds its bank's port taken (R66). -/
def portTaken (k : Core) (p : Pending) : Bool :=
  match p.wr.bank with | some b => !p.skip && k.ports.getLsbD b | none => false

/-- Land one result: it takes its bank's port (R66), unless it is marked to land nothing (R387). -/
def landOne (gcc : Nat) (p : Pending) (k : Core) : Core :=
  let k := (dropPending p k).updWarp p.warp (noteLanding gcc k p)
  if p.skip then k
  else
    let k := landWrite k p.warp p.wr
    match p.wr.bank with
    | some b => { k with ports := k.ports ||| (1#8 <<< b) }
    | none => k

/-- A result that finds its bank's port taken is carried over, behind those carried before it. -/
def carryOver (p : Pending) (k : Core) : Core :=
  let l := k.pw.erase p
  { k with pw := l.filter (·.carried) ++ [{ p with carried := true, rem := 1 }] ++ l.filter (fun x => !x.carried) }

/-- A result that is due lands, or is carried over (R66). -/
def landOrCarry (gcc : Nat) (k : Core) (p : Pending) : Core := if portTaken k p then carryOver p k else landOne gcc p k

def isStride (p : Pending) : Bool := match p.wr with | .stride .. => true | _ => false

/-- The results of a warp that are due with their values there, the strides last (R66, R124). -/
def dueOf (wi : Nat) (k : Core) : List Pending :=
  let l := (k.pwOf wi).filter (fun p => p.rem == 0 && p.left == 0)
  l.filter (fun p => !isStride p) ++ l.filter isStride

/-- The landings of a warp's own writes in a number of cycles to come. -/
def landAhead (gcc wi : Nat) : Nat → Core → Core
  | 0, k => k
  | n + 1, k =>
    let k := { k with ports := 0, pw := k.pw.map (fun p => if p.warp = wi then { p with rem := p.rem - 1 } else p) }
    landAhead gcc wi n ((dueOf wi k).foldl (landOrCarry gcc) k)

/-- The pending writes of a warp as they stand at the cycle c at which its next bundle would begin to issue, before any delay of
that bundle (R71): what has landed in the delay stands as it did, and has its remaining cycles again; where the warp stops
before c, for a freeze or the σ of the bundle before it (R382), what lands by then has landed, by the ports of the warp's own writes.
DESIGN CHOICE, log entry 136. -/
def boundary (gcc wi : Nat) (k : Core) : Core :=
  match (k.warp wi).delay with
  | none => k
  | some d =>
    let k := k.updWarp wi (fun w => { w with delay := none, delayed := 0 })
    if gcc < d.c then { landAhead gcc wi (d.c - gcc) k with ports := k.ports }
    else if d.on then
      let k := { k with pw := k.pw.map (fun p => if p.warp = wi then { p with rem := p.rem + (gcc - d.c) } else p) }
      let k := (d.landed.reverse.map (·.2)).foldl (fun k l => l.foldl (undoOne wi) k) k
      { k with pw := d.landed.map (·.1) ++ k.pw }
    else k

/-- Insert behind every entry of lower or equal remaining cycles. -/
def insertRem (p : Pending) : List Pending → List Pending
  | [] => [p]
  | x :: r => if p.rem < x.rem then p :: x :: r else x :: insertRem p r

/-- The pending writes of a warp in their stored order: by remaining cycles, then in the order of R66. -/
def storedOrder (l : List Pending) : List Pending := l.foldl (fun r p => insertRem p r) []

/-- Whether the value of a pending write has still to come (R382). -/
def isLate (p : Pending) : Bool := p.id.isSome && decide (p.left > 0)

/-- A write without its latch and operand-cache copies. -/
def Write.bare : Write → Write
  | .vec d m v _ _ => .vec d m v none none
  | x => x

/-- A warp is interrupted within a voluntary deschedule: its next bundle comes after the landing of its last pending write
and after its valid bits are cleared (R70), so that both have come about at the boundary (R71). A value that has still to
come lands in its register alone. -/
def endDrain (wi : Nat) (k : Core) : Core :=
  if !(k.warp wi).drain then k
  else
    let mine := k.pwOf wi
    let k := (storedOrder (mine.filter (fun p => !isLate p))).foldl
      (fun k p => if p.skip then k else landWrite k wi p.wr) k
    { k.updWarp wi (fun w => { w with drain := false, lv := 0, kv := 0 }) with
      pw := k.pw.filter (fun p => p.warp != wi) ++ (mine.filter isLate).map (fun p => { p with rem := 0, wr := p.wr.bare }) }

/-- A warp stops at a bundle boundary for an involuntary interruption; a static region that it was in is broken (R71,
R293). -/
def haltAt (gcc wi : Nat) (st : WStatus) (k : Core) : Core :=
  let k := endDrain wi (boundary gcc wi k)
  { k.updWarp wi (fun w =>
      { w with status := st, broken := w.broken || w.region.isSome, region := none, ready := none, delayed := 0, held := false }) with
    current := if k.current = some wi then none else k.current
    free := if k.current = some wi then k.free + 2 else k.free }

/-- The pending writes of a warp wait for its first bundle, ranked as carried over (R72). -/
def replayLater (wi : Nat) (k : Core) : Core :=
  { k.updWarp wi (fun w => { w with replay := true }) with
    pw := (k.pwOf wi).map (fun p => { p with carried := true }) ++ k.pw.filter (fun p => p.warp != wi) }

/-! ## Binding, release and allotment (R62 to R64) -/

/-- The handle of a warp of no group: a firmware warp (R14). -/
def noGroup : Word := 0xFFFFFFFF

/-- The pool of the warp's group in a bank; a trap-handler warp has 64 registers, and the firmware warps of a core have what
their image names (R14, R64, R376). -/
def poolOf (s : State) (w : Warp) (bank : Nat) : Nat :=
  if w.handlerOf.isSome then Config.handlerPool
  else if w.handle = noGroup then (tget [] s.pt.start.fwPools s.cur.core).getD bank 0
  else (s.group w.handle.toNat).pools.getD bank 0

/-- The names of a warp that are bound in a bank. -/
def boundIn (w : Warp) (bank : Nat) : List Bind :=
  (w.map.filter (fun x => x.1 % 8 == bank)).map (·.2)

/-- The bindings that count against a warp's pool in a bank: those of every warp of its group (R64). -/
def heldIn (s : State) (c wi bank : Nat) : Nat :=
  let w := s.warp c wi
  if w.handlerOf.isSome then (boundIn w bank).length
  else if w.handle = noGroup then
    ((((s.core c).warps.filter (fun x => x.2.handle == noGroup && x.2.handlerOf.isNone)).map (fun x => (boundIn x.2 bank).length))).foldl
      (· + ·) 0
  else (((s.group w.handle.toNat).allSlots.map (fun x => (boundIn (s.warp c x) bank).length))).foldl (· + ·) 0

/-- The physical registers of a bank that are bound. -/
def usedPhys (k : Core) (bank : Nat) : List Nat :=
  (k.warps.map (fun x => (boundIn x.2 bank).map (fun b => b.phys.toNat))).foldl (· ++ ·) []

def firstFree (used : List Nat) : List Nat → Option Nat
  | [] => none
  | x :: r => if used.contains x then firstFree used r else some x

/-- Bind an unbound name to a free physical register set to zero, or none when the pool is empty (R62). -/
def bindName (s : State) (n : BitVec 9) : Option State :=
  match tget? s.me.map n.toNat with
  | some _ => some s
  | none =>
    if heldIn s s.cur.core s.cur.warp (bankOf n) < poolOf s s.me (bankOf n) then
      match firstFree (usedPhys s.myCore (bankOf n)) (List.range Config.bankRegs) with
      | some ph =>
        let b : Bind := ⟨BitVec.ofNat 9 ph, s.nextId⟩
        some (({ s with nextId := s.nextId + 1 }).updMyCore (fun k =>
          { k.updWarp s.cur.warp (fun w => { w with map := tset w.map n.toNat b }) with
            regs := tset k.regs (regIndex n b) VReg.zero }))
      | none => none
    else none

/-- Bind the destinations of a slot in order. -/
def bindAll (s : State) : List (BitVec 9) → Option State
  | [] => some s
  | n :: r =>
    match bindName s n with
    | some s' => bindAll s' r
    | none => none

/-- Release a name marked dead (R62). -/
def releaseName (s : State) (n : BitVec 9) : State :=
  s.updMe (fun w => { w with map := tdel w.map n.toNat })

def releaseAll (s : State) (l : List (BitVec 9)) : State := l.foldl releaseName s

/-- The binding a write of this issue targets (R63). -/
def target (s : State) (n : BitVec 9) : BitVec 9 × Nat :=
  (n, match tget? s.me.map n.toNat with | some b => b.tok | none => 0)

/-! ## Traps (R373 to R381) -/

/-- A trap of an instruction: its cause, subcode, faulting address and lanes, the kind of access, and the faulted
results that it reports (R162). -/
structure Trap where
  cause : Cause
  sub : Nat
  faddr : DWord
  lanes : Mask
  ak : Nat
  rids : List Nat
  deriving DecidableEq, Repr

def Trap.of (c : Cause) : Trap := ⟨c, 0, 0, 0, 0xFF, []⟩

/-- A timing fault with its subcode (R294). -/
def Trap.timing (n : Nat) : Trap := ⟨.timingFault, n, 0, 0, 0xFF, []⟩

abbrev Run := Except Trap State

/-- The code of a cause (R373). -/
def Cause.code : Cause → Nat
  | .illegalBundle => 0
  | .illegalOpcode => 1
  | .illegalOperand => 2
  | .privilegeViolation => 3
  | .fetchFault => 4
  | .unboundRegister => 5
  | .allotmentOverflow => 6
  | .staleOperand => 7
  | .nonUniformBranch => 8
  | .loopFault => 9
  | .segmentLimit => 10
  | .misalignedAccess => 11
  | .translationFault => 12
  | .poisonedData => 13
  | .arrivalOverflow => 14
  | .barrierFault => 15
  | .matrixFault => 16
  | .timingFault => 17
  | .watchdog => 18
  | .softwareTrap => 19
  | .supervisorCall => 20
  | .remoteStoreFault => 21
  | .breakpoint => 22
  | .singleStep => 23
  | .registerError => 24
  | .doubleFault => 25
  | .contextFault => 26
  | .swapFault => 27
  | .preemption => 28
  | .debugHalt => 29
  | .machineCheck => 30
  | .doorbell => 31

/-- What follows a trap (R373): the warp is captured and its record enters the S ring, or the F ring, or the quad
group is swapped out. -/
inductive Disp where
  | w | f | g
  deriving DecidableEq, Repr

/-- The disposition of a cause for a warp at a level (R373). -/
def Cause.disp (c : Cause) (lv : Level) : Disp :=
  match c with
  | .fetchFault | .translationFault | .watchdog => .g
  | .supervisorCall => if lv = .u then .w else .f
  | .doubleFault => .f
  | _ => .w

/-- The record of a trap of the issuing warp, with resume address `b` (R377). -/
def recordOf (s : State) (tr : Trap) (slot : Nat) (b : DWord) : Record :=
  { code := tr.cause, sub := tr.sub, slot := slot, act := 0,
    handle := if s.me.handlerOf.isSome then 0xFFFFFFFF else s.me.handle, warp := if s.me.handlerOf.isNone && s.me.handle == noGroup then 0xFF else s.me.wnum,
    lvl := s.me.level.num + (if tr.cause.disp s.me.level = .g then 4 else 0), src := 0, ak := tr.ak,
    core := s.cur.core, pc := b, faddr := tr.faddr, lanes := tr.lanes, gcc := s.me.began s.gcc, img := 0 }

/-- A record without context, for the S ring (R392). -/
def plainRecord (s : State) (code : Cause) (sub src ak : Nat) (handle : Word) (faddr : DWord) : Record :=
  { code := code, sub := sub, slot := 0xFF, act := 0, handle := handle, warp := 0xFF, lvl := 1, src := src,
    ak := ak, core := s.cur.core, pc := 0, faddr := faddr, lanes := 0, gcc := s.gcc, img := 0 }

/-- The EN bit, the size and the DROP field of a ring's control register (R379). -/
def ringEn (c : Word) : Bool := c.getLsbD 4

def ringSize (c : Word) : Nat := 2 ^ ((c.extractLsb' 0 4).toNat + 6)

/-- DROP counts a record dropped, saturating (R379). -/
def ringDrop (c : Word) : Word :=
  if c.extractLsb' 8 8 = 0xFF then c else c + 0x100#32

/-- POST counts a record posted, modulo 2^16 (R379). -/
def ringPost (c : Word) : Word := (c.extractLsb' 16 16 + 1) ++ c.extractLsb' 0 16

/-- Whether a ring is enabled and its next slot is free; slots are filled in order (R379). -/
def ringRoom (ctl : Word) (next : Nat) (l : List RingRec) : Bool :=
  ringEn ctl && decide (l.length < ringSize ctl) && !l.any (fun x => x.slot == next % ringSize ctl)

/-- Put a record into the next slot of a ring. -/
def postAt (s : State) (f : Bool) (r : Record) (o : Owner) : State :=
  let x (ctl : Word) (next : Nat) : RingRec := ⟨next % ringSize ctl, s.gcc, r, o, false, none⟩
  if f then
    { s with rg := { s.rg with fRing := s.rg.fRing ++ [x s.rg.ringfc s.rg.fNext], fNext := s.rg.fNext + 1
                               ringfc := ringPost s.rg.ringfc } }
  else
    { s with rg := { s.rg with sRing := s.rg.sRing ++ [x s.rg.ringsc s.rg.sNext], sNext := s.rg.sNext + 1
                               ringsc := ringPost s.rg.ringsc } }

/-- Whether a ring has room for one more record. -/
def roomAt (s : State) (f : Bool) : Bool :=
  if f then ringRoom s.rg.ringfc s.rg.fNext s.rg.fRing else ringRoom s.rg.ringsc s.rg.sNext s.rg.sRing

/-- Post a record without context, or drop it and count it (R379, R392). -/
def postEngine (s : State) (f : Bool) (r : Record) (o : Owner) : State :=
  if roomAt s f then postAt s f r o
  else if f then { s with rg := { s.rg with ringfc := ringDrop s.rg.ringfc } }
  else { s with rg := { s.rg with ringsc := ringDrop s.rg.ringsc } }

/-- Post a record that holds a context; it waits while its ring is full or disabled (R379). -/
def postHeld (s : State) (f : Bool) (r : Record) (o : Owner) : State :=
  if roomAt s f && (if f then s.rg.fWait.isEmpty else s.rg.sWait.isEmpty) then postAt s f r o
  else if f then { s with rg := { s.rg with fWait := s.rg.fWait ++ [(r, o)] } }
  else { s with rg := { s.rg with sWait := s.rg.sWait ++ [(r, o)] } }

/-- A record without context enters the S ring. -/
def postPlain (s : State) (r : Record) : State := postEngine s false r .none

/-- The same for the F ring (R411, R444). -/
def postPlainF (s : State) (r : Record) : State := postEngine s true r .none

/-! ## Counted errors (R444) -/

/-- Whether CEW exceeds RTHR. -/
def rateHigh (w : Word) : Bool := decide ((w.extractLsb' 16 7).toNat < (w.extractLsb' 0 16).toNat)

/-- mem.ecc of a die takes a value; when CEW comes to exceed RTHR, RATE is set and a record enters the F ring. -/
def setEcc (s : State) (d : Nat) (w : Word) : State :=
  let x := tget Die.reset s.pt.dies d
  let beyond := rateHigh w && !rateHigh x.ecc
  let s := { s with pt := { s.pt with dies := tset s.pt.dies d { x with ecc := if beyond then w ||| 0x00800000 else w } } }
  if beyond then postPlainF s { plainRecord s .registerError 1 7 0xFF noGroup 0 with core := 16 * d } else s

/-- A die counts an error: kind 1 is corrected, kind 2 is not. -/
def countError (s : State) (d kind : Nat) : State :=
  let w := (tget Die.reset s.pt.dies d).ecc
  match kind with
  | 1 => setEcc s d ((w &&& 0xFFFF0000) ||| BitVec.ofNat 32 (min ((w.extractLsb' 0 16).toNat + 1) 0xFFFF))
  | 2 => setEcc s d ((w &&& 0x00FFFFFF) ||| BitVec.ofNat 32 (min ((w.extractLsb' 24 8).toNat + 1) 0xFF * 2 ^ 24))
  | _ => s

/-- The members of a group's quad group: the groups of its grid on the cores of its quad (R266). -/
def quadGroup (s : State) (h : Nat) : List Nat :=
  let g := s.group h
  (s.sched.groups.filter (fun x => x.2.grid == g.grid && quadOf x.2.core == quadOf g.core &&
    (x.2.status == .resident || x.2.status == .leaving))).map (·.1)

/-- The issuing warp stops: it leaves the core's choice, which takes two idle cycles (R71, R267). -/
def capture (s : State) (st : WStatus) : State :=
  s.updMyCore (fun k =>
    let k := haltAt s.gcc s.cur.warp st k
    { k.updWarp s.cur.warp (fun w => { w with issuer := some s.cur.mask }) with free := max k.free (s.gcc + 2) })

/-- Mark a quad group as leaving, with a cause and, for the group itself, a record; its warps stop at a boundary at most
20 cycles after the request has reached their cores, which takes `wires` cycles (R370, R375, R382). -/
def groupLeaves (s : State) (h : Nat) (c : Cause) (r : Option Record) (wires : Nat) : State :=
  let (n, s) := s.draw
  let due := s.gcc + wires + Config.freeNat n % (21 - wires)
  (quadGroup s h).foldl (fun s x => s.updGroup x (fun g =>
    if g.status = .resident then
      { g with status := .leaving, cause := some c, record := if x = h then r else g.record, due := due }
    else if x = h && g.record.isNone && r.isSome then { g with cause := some c, record := r }
    else g)) s

/-- Take a trap of the issuing warp with resume address `b`: the record is written, the warp is captured at the
bundle boundary, and under G its quad group is to leave. Any trap of a trap-handler warp is a double fault, whose
record holds the original code as SUB (R374, R375, R381). A remote store fault marks the results it reports (R162), and
a matrix fault marks the engine's fault as reported (R223). -/
def takeTrapAt (s : State) (tr : Trap) (slot : Nat) (b : DWord) : State :=
  let s := if tr.cause = .matrixFault ∧ s.myCore.eng.fltWarp = s.cur.warp then
    s.updMyCore (fun k => { k with eng := { k.eng with fltSeen := true } }) else s
  let s := if tr.rids.isEmpty then s else s.updMe (fun w =>
    { w with results := w.results.map (fun r => if tr.rids.contains r.rid then { r with fault := none } else r) })
  if s.me.handlerOf.isSome then
    capture s (.captured (recordOf s { tr with cause := .doubleFault, sub := tr.cause.code } slot b))
  else
    let r := recordOf s tr slot b
    match tr.cause.disp s.me.level with
    | .g =>
      if (tget? s.sched.groups s.me.handle.toNat).isSome then
        groupLeaves (capture s .stopped) s.me.handle.toNat tr.cause (some r) 1
      else capture s (.captured r)
    | _ => capture s (.captured r)

/-- Take a precise trap of the issuing slot at its bundle (R374). -/
def takeTrap (s : State) (tr : Trap) : State := takeTrapAt s tr s.cur.slot.num s.cur.pc

/-- The pc of every entry of a warp that stood at the old resume address moves to the new one: the issuing entry
resumes where the image says (R72, R73, R128). -/
def resumeEntry (w : Warp) (b : DWord) : Warp :=
  match w.entries with
  | [] => w
  | e :: r =>
    match w.issuer with
    | some m => { w with entries := w.entries.map (fun x => if x.mask = m then { x with pc := b } else x) }
    | none => { w with entries := { e with pc := b } :: r }

/-- Return a captured warp to its core: it runs again from its resume address with its pending writes replayed from
the cycle it resumes, ranked as carried over (R72, R380). -/
def returnWarp (s : State) (c wi : Nat) (b : DWord) : State :=
  s.updCore c (fun k => replayLater wi (k.updWarp wi (fun w =>
    { resumeEntry w b with status := .run, susp := .none, also := [], after := none, drain := false })))

end Sys2Proof.Machine
end

