-- ==== Sys2Proof/Machine/Flags.lean ====
section
/-!
DEFINITION. The rounding state of a warp (R82), its sticky floating-point flags (R87) and the lane noise generator
(R88, R89).
-/
namespace Sys2Proof.Machine

/-- A set of the flags of R87: NV 4, DZ 3, OF 2, UF 1, NX 0. -/
abbrev Fx := BitVec 5

def Fx.nv : Fx := 0x10#5
def Fx.dz : Fx := 0x08#5
def Fx.of : Fx := 0x04#5
def Fx.uf : Fx := 0x02#5
def Fx.nx : Fx := 0x01#5

/-- The rounding modes of R84. -/
inductive Rm where
  | rne | rz | ru | rd | sr
  deriving DecidableEq, Repr

/-- The fields of ctl.fmode (R82). -/
structure FMode where
  ovf : Bool
  nanp : Bool
  fzo : Bool
  fzi : Bool
  rm : Rm
  deriving DecidableEq, Repr

/-- The rounding that RM names. MODE and CTLW refuse 5 to 7; where a restored context leaves one of them there, the model
rounds as RNE. DESIGN CHOICE, log entry 102. -/
def rmOf (n : BitVec 3) : Rm :=
  match n.toNat with
  | 1 => .rz
  | 2 => .ru
  | 3 => .rd
  | 4 => .sr
  | _ => .rne

def FMode.ofWord (w : Word) : FMode :=
  ⟨w.getLsbD 7, w.getLsbD 6, w.getLsbD 5, w.getLsbD 4, rmOf (w.extractLsb' 0 3)⟩

/-- The mode of every engine, atomic and reduction: RNE, no flush, canonical NaNs (R84). -/
def FMode.plain : FMode := ⟨false, false, false, false, .rne⟩

/-- An operation other than a conversion rounds RNE under SR (R84). -/
def Rm.arith : Rm → Rm
  | .sr => .rne
  | r => r

/-- A flag raised by an active lane is set at issue (R87). -/
def raiseFx (s : State) (f : Fx) : State := s.updMe (fun w => { w with fexc := w.fexc ||| f.setWidth 32 })

/-- Merge the flags of the active lanes. -/
def mergeFx (l : List Fx) : Fx := l.foldl (· ||| ·) 0

/-! ## Noise (R89) -/

/-- The state after a draw. -/
def noiseNext (x : DWord) : DWord :=
  let x := x ^^^ (x >>> 12)
  let x := x ^^^ (x <<< 25)
  x ^^^ (x >>> 27)

/-- The value of a draw, from the state after it. -/
def noiseOut (x : DWord) : Word := (x * 0x2545F4914F6CDD1D#64).extractLsb' 32 32

/-- The noise state of a lane at warp start, from the seed, the group number and the warp number (R89). -/
def noiseSeed (sd : DWord) (g w l : Nat) : DWord :=
  let z := sd + 0x9E3779B97F4A7C15#64 * BitVec.ofNat 64 (g * 2 ^ 11 + w * 2 ^ 7 + l + 1)
  let z := (z ^^^ (z >>> 30)) * 0xBF58476D1CE4E5B9#64
  let z := (z ^^^ (z >>> 27)) * 0x94D049BB133111EB#64
  let z := z ^^^ (z >>> 31)
  if z = 0 then 1 else z

/-- The noise state of a lane: the value held, or the seed's while no draw has changed it. -/
def noiseGet (w : Warp) (l : Nat) : DWord :=
  match tget? w.noise l with
  | some x => x
  | none =>
    match w.seeded with
    | some (sd, g, n) => noiseSeed sd g n l
    | none => 1

/-- One draw of a lane (R89). -/
def drawLane (w : Warp) (l : Nat) : Word × Warp :=
  let x := noiseNext (noiseGet w l)
  (noiseOut x, { w with noise := tset w.noise l x })

end Sys2Proof.Machine
end

