-- ==== Sys2Proof/Machine/Float.lean ====
section
/-!
DEFINITION. Number formats, exact values and rounding (chapter "Number formats, rounding and the order of sums"), and
the floating-point operations over one element.
-/
namespace Sys2Proof.Machine

/-- The floating-point formats (R75). -/
inductive Fmt where
  | f32 | h16 | bf16 | e4m3 | e5m2 | e2m1
  deriving DecidableEq, Repr

def Fmt.width : Fmt → Nat
  | .f32 => 32
  | .h16 | .bf16 => 16
  | .e4m3 | .e5m2 => 8
  | .e2m1 => 4

def Fmt.ebits : Fmt → Nat
  | .f32 | .bf16 => 8
  | .h16 | .e5m2 => 5
  | .e4m3 => 4
  | .e2m1 => 2

def Fmt.mbits : Fmt → Nat
  | .f32 => 23
  | .h16 => 10
  | .bf16 => 7
  | .e4m3 => 3
  | .e5m2 => 2
  | .e2m1 => 1

def Fmt.bias : Fmt → Nat
  | .f32 | .bf16 => 127
  | .h16 | .e5m2 => 15
  | .e4m3 => 7
  | .e2m1 => 1

/-- Whether the all-ones exponent holds infinities and NaNs (R76). -/
def Fmt.ieee : Fmt → Bool
  | .e4m3 | .e2m1 => false
  | _ => true

/-- The code of the largest finite magnitude (R75). -/
def Fmt.maxCode : Fmt → Nat
  | .f32 => 0x7F7FFFFF
  | .h16 => 0x7BFF
  | .bf16 => 0x7F7F
  | .e4m3 => 0x7E
  | .e5m2 => 0x7B
  | .e2m1 => 0x7

/-- The code of +infinity, where there is one. -/
def Fmt.infCode : Fmt → Nat
  | .f32 => 0x7F800000
  | .h16 => 0x7C00
  | .bf16 => 0x7F80
  | .e5m2 => 0x7C
  | .e4m3 => 0x7F
  | .e2m1 => 0x7

/-- The canonical NaN (R76). -/
def Fmt.nanCode : Fmt → Nat
  | .f32 => 0x7FC00000
  | .h16 => 0x7E00
  | .bf16 => 0x7FC0
  | .e4m3 => 0x7F
  | .e5m2 => 0x7E
  | .e2m1 => 0x7

def signBit (f : Fmt) (s : Bool) : Nat := if s then 2 ^ (f.width - 1) else 0

/-- A decoded element: a NaN with its sign and its M field aligned to 23 bits, an infinity, or the exact number
`(-1)^s * m * 2^e`. -/
inductive FVal where
  | nan (s : Bool) (m : Nat) (sig : Bool)
  | inf (s : Bool)
  | num (s : Bool) (m : Nat) (e : Int)
  deriving DecidableEq, Repr

/-- The element a code stands for (R75, R76). -/
def decodeF (f : Fmt) (c : Nat) : FVal :=
  let s := c / 2 ^ (f.width - 1) % 2 == 1
  let ef := c / 2 ^ f.mbits % 2 ^ f.ebits
  let m := c % 2 ^ f.mbits
  let top := 2 ^ f.ebits - 1
  if f.ieee && ef == top then
    if m = 0 then .inf s
    else .nan s (m * 2 ^ (23 - f.mbits)) (m / 2 ^ (f.mbits - 1) % 2 == 0)
  else if f = .e4m3 && ef == top && m == 7 then .nan s (7 * 2 ^ 20) false
  else if ef = 0 then .num s m (1 - (f.bias : Int) - f.mbits)
  else .num s (2 ^ f.mbits + m) ((ef : Int) - f.bias - f.mbits)

/-- A subnormal code: exponent field zero and a mantissa that is not. -/
def isSub (f : Fmt) (c : Nat) : Bool := c / 2 ^ f.mbits % 2 ^ f.ebits == 0 && c % 2 ^ f.mbits != 0

/-- A source as read under FZI: a subnormal reads as a zero of its sign (R85). -/
def finCode (f : Fmt) (fzi : Bool) (c : Nat) : Nat :=
  if fzi && isSub f c then signBit f (c / 2 ^ (f.width - 1) % 2 == 1) else c

def FVal.isNan : FVal → Bool
  | .nan .. => true
  | _ => false

def FVal.isSig : FVal → Bool
  | .nan _ _ sg => sg
  | _ => false

def FVal.isZero : FVal → Bool
  | .num _ m _ => m == 0
  | _ => false

def FVal.neg : FVal → FVal
  | .nan s m g => .nan s m g
  | .inf s => .inf !s
  | .num s m e => .num (!s) m e

/-- The NaN result an operation gives (R86): the first NaN source under NANP, otherwise the canonical one. -/
def nanOf (f : Fmt) (nanp : Bool) (srcs : List FVal) : Nat :=
  if nanp then
    match srcs.find? FVal.isNan with
    | some (.nan s m _) =>
      if f = .e4m3 then signBit f s + 0x7F
      else signBit f s + f.infCode + (m / 2 ^ (23 - f.mbits) ||| 2 ^ (f.mbits - 1))
    | _ => f.nanCode
  else f.nanCode

/-- NV of a signalling source (R86). -/
def sigFx (srcs : List FVal) : Fx := if srcs.any FVal.isSig then Fx.nv else 0

/-- Number of bits of a number. -/
def bitLen (n : Nat) : Nat := if n = 0 then 0 else Nat.log2 n + 1

/-- The exponent of the last bit that a format holds for a number of `m * 2^e` (R81). -/
def ulpExp (f : Fmt) (m : Nat) (e : Int) : Int :=
  max ((bitLen m : Int) - 1 + e) (1 - (f.bias : Int)) - f.mbits

/-- `m * 2^e` in units of `2^q`: the whole part, the rest, and the denominator's exponent. -/
def splitAt (m : Nat) (e q : Int) : Nat × Nat × Nat :=
  if q ≤ e then (m * 2 ^ (e - q).toNat, 0, 0)
  else
    let k := (q - e).toNat
    (m / 2 ^ k, m % 2 ^ k, k)

/-- Whether a rounding goes up (R84); SR compares the draw with the fraction (R88). -/
def roundUp (rm : Rm) (s : Bool) (q r k : Nat) (d : Word) : Bool :=
  if r = 0 then false
  else match rm with
    | .rne => decide (2 * r > 2 ^ k) || (2 * r == 2 ^ k && q % 2 == 1)
    | .rz => false
    | .ru => !s
    | .rd => s
    | .sr => decide (d.toNat < r * 2 ^ 32 / 2 ^ k)

/-- What a rounding gives: the magnitude's code as if no exponent were too large, whether it was inexact, and whether
it is tiny after rounding. -/
structure Rounded where
  code : Nat
  inexact : Bool
  tiny : Bool
  deriving DecidableEq, Repr

/-- Round the exact magnitude `m * 2^e`, `m > 0`, to the precision of a format, its subnormal range included. -/
def roundMag (f : Fmt) (rm : Rm) (s : Bool) (m : Nat) (e : Int) (d : Word) : Rounded :=
  let q0 := ulpExp f m e
  let (q, r, k) := splitAt m e q0
  let q' := if roundUp rm s q r k d then q + 1 else q
  let code := ((q0 + f.mbits + f.bias - 1).toNat) * 2 ^ f.mbits + q'
  -- tiny: the value rounded to the format's precision with no least exponent lies below the smallest normal
  let qn : Int := (bitLen m : Int) - 1 + e - f.mbits
  let (u, ru, ku) := splitAt m e qn
  let u' := if roundUp rm s u ru ku d then u + 1 else u
  let tiny := if rm = .sr then decide (code < 2 ^ f.mbits)
    else decide (qn < 1 - (f.bias : Int) - f.mbits) &&
      !(u' == 2 ^ (f.mbits + 1) && qn + 1 == 1 - (f.bias : Int) - f.mbits)
  ⟨code, r != 0, tiny⟩

/-- Where an overflow goes to ±max by its rounding direction (R81). -/
def toMax (rm : Rm) (s : Bool) : Bool :=
  match rm with
  | .rz => true
  | .rd => !s
  | .ru => s
  | _ => false

/-- FZO: a rounded result that is subnormal becomes zero, with UF and NX (R85). -/
def flushOut (f : Fmt) (fzo : Bool) (c : Nat) : Nat × Fx :=
  if fzo && isSub f c then (signBit f (c / 2 ^ (f.width - 1) % 2 == 1), Fx.uf ||| Fx.nx) else (c, 0)

/-- Whether a format's precision holds a number exactly, so that no rounding and no draw takes place (R88). A number that
fits the precision and exceeds the range overflows without a draw. DESIGN CHOICE, log entry 103. -/
def holds (f : Fmt) (m : Nat) (e : Int) : Bool := m == 0 || (splitAt m e (ulpExp f m e)).2.1 == 0

/-- Round an exact number into a format: overflow by R81 (`sat` is OVF of a conversion), FZO by R85. -/
def encodeNum (f : Fmt) (rm : Rm) (sat fzo : Bool) (s : Bool) (m : Nat) (e : Int) (d : Word) : Nat × Fx :=
  if m = 0 then (signBit f s, 0)
  else
    let r := roundMag f rm s m e d
    if r.code > f.maxCode then
      if sat || toMax rm s then (signBit f s + f.maxCode, Fx.of ||| Fx.nx)
      else (signBit f s + f.infCode, Fx.of ||| Fx.nx)
    else
      let fx := (if r.inexact then Fx.nx else 0) ||| (if r.inexact && r.tiny then Fx.uf else 0)
      let (c, fz) := flushOut f fzo (signBit f s + r.code)
      (c, fx ||| fz)

/-! ## Exact arithmetic on decoded elements -/

/-- A signed exact number `n * 2^e`. -/
structure Exact where
  n : Int
  e : Int
  deriving DecidableEq, Repr

def Exact.add (x y : Exact) : Exact :=
  let e := min x.e y.e
  ⟨x.n * 2 ^ (x.e - e).toNat + y.n * 2 ^ (y.e - e).toNat, e⟩

/-- The sum of exact terms with IEEE treatment of infinities and of an exact zero's sign: each term a decoded
element. -/
def sumTerms (f : Fmt) (md : FMode) (rm : Rm) (sat : Bool) (nans : List FVal) (bad : Bool) (ts : List FVal) :
    Nat × Fx :=
  let sg := sigFx nans
  let pinf := ts.any (fun t => t == .inf false)
  let ninf := ts.any (fun t => t == .inf true)
  if bad || (pinf && ninf) then (nanOf f md.nanp nans, sg ||| Fx.nv)
  else if nans.any FVal.isNan then (nanOf f md.nanp nans, sg)
  else if pinf then (f.infCode, 0)
  else if ninf then (signBit f true + f.infCode, 0)
  else
    let x := ts.foldl (fun (a : Exact) t => match t with
      | .num s m e => Exact.add a ⟨if s then -(m : Int) else (m : Int), e⟩
      | _ => a) ⟨0, 0⟩
    if x.n = 0 then
      let neg := ts.all (fun t => match t with | .num s _ _ => s | _ => false)
      let pos := ts.all (fun t => match t with | .num s _ _ => !s | _ => false)
      let s := if neg then true else if pos then false else rm == .rd
      (signBit f s, 0)
    else encodeNum f rm sat md.fzo (decide (x.n < 0)) x.n.natAbs x.e 0

/-- The exact product of two elements that are not NaN, or none for 0 × ∞. -/
def mulVal : FVal → FVal → Option FVal
  | .num s m e, .num t n g => some (.num (s != t) (m * n) (e + g))
  | .inf s, .inf t => some (.inf (s != t))
  | .inf s, .num t n _ => if n = 0 then none else some (.inf (s != t))
  | .num s m _, .inf t => if m = 0 then none else some (.inf (s != t))
  | _, _ => some (.num false 0 0)

/-- x + y (R134, R139). -/
def fAdd (f : Fmt) (md : FMode) (a b : Nat) : Nat × Fx :=
  let x := decodeF f (finCode f md.fzi a)
  let y := decodeF f (finCode f md.fzi b)
  sumTerms f md md.rm.arith false [x, y] false [x, y]

/-- x − y. -/
def fSub (f : Fmt) (md : FMode) (a b : Nat) : Nat × Fx :=
  let x := decodeF f (finCode f md.fzi a)
  let y := decodeF f (finCode f md.fzi b)
  sumTerms f md md.rm.arith false [x, y] false [x, y.neg]

/-- x × y. -/
def fMul (f : Fmt) (md : FMode) (a b : Nat) : Nat × Fx :=
  let x := decodeF f (finCode f md.fzi a)
  let y := decodeF f (finCode f md.fzi b)
  if x.isNan || y.isNan then sumTerms f md md.rm.arith false [x, y] false []
  else match mulVal x y with
    | some p => sumTerms f md md.rm.arith false [x, y] false [p]
    | none => sumTerms f md md.rm.arith false [x, y] true []

/-- The product of two elements as a term of a sum: none and NV for 0 × ∞, no term where one is a NaN. -/
def prodTerm (x y : FVal) : Bool × List FVal :=
  if x.isNan || y.isNan then (false, [])
  else match mulVal x y with
    | some p => (false, [p])
    | none => (true, [])

/-- x × y + c, rounded once (R134, R139). -/
def fFma (f : Fmt) (md : FMode) (a b c : Nat) : Nat × Fx :=
  let x := decodeF f (finCode f md.fzi a)
  let y := decodeF f (finCode f md.fzi b)
  let z := decodeF f (finCode f md.fzi c)
  let p := prodTerm x y
  sumTerms f md md.rm.arith false [x, y, z] p.1 (p.2 ++ [z])

/-- x(0)·y(0) + x(1)·y(1) + c with halves of a format and an FP32 addend (R140). Of several NaN sources NANP takes the
first in the order a(0), a(1), b(0), b(1), c. DESIGN CHOICE, log entry 104. -/
def fDot2 (h : Fmt) (md : FMode) (a b c : Nat) : Nat × Fx :=
  let hf (v i : Nat) := decodeF h (finCode h md.fzi (v / 2 ^ (16 * i) % 2 ^ 16))
  let z := decodeF .f32 (finCode .f32 md.fzi c)
  let p := prodTerm (hf a 0) (hf b 0)
  let q := prodTerm (hf a 1) (hf b 1)
  sumTerms .f32 md md.rm.arith false [hf a 0, hf a 1, hf b 0, hf b 1, z] (p.1 || q.1) (p.2 ++ q.2 ++ [z])

/-- The order of two elements that are not NaN; −0 is below +0 when `zeros` is set. -/
def fLess (zeros : Bool) (x y : FVal) : Bool :=
  match x, y with
  | .inf s, .inf t => s && !t
  | .inf s, _ => s
  | _, .inf t => !t
  | .num s m e, .num t n g =>
    let d := Exact.add ⟨if s then -(m : Int) else m, e⟩ ⟨if t then (n : Int) else -(n : Int), g⟩
    decide (d.n < 0) || (zeros && d.n == 0 && m == 0 && s && !t)
  | _, _ => false

def fEq (x y : FVal) : Bool := !x.isNan && !y.isNan && !fLess false x y && !fLess false y x

/-- FMIN and FMAX (R135). -/
def fMinMax (f : Fmt) (big : Bool) (md : FMode) (a b : Nat) : Nat × Fx :=
  let ca := finCode f md.fzi a
  let cb := finCode f md.fzi b
  let x := decodeF f ca
  let y := decodeF f cb
  let sg := sigFx [x, y]
  let pick (c : Nat) : Nat × Fx := let r := flushOut f md.fzo c; (r.1, r.2 ||| sg)
  if x.isNan && y.isNan then (nanOf f md.nanp [x, y], sg)
  else if x.isNan then pick cb
  else if y.isNan then pick ca
  else if big then (if fLess true x y then pick cb else pick ca)
  else if fLess true y x then pick cb else pick ca

/-- FCLASS: the one class bit of the bits as held (R136). -/
def fClass (c : Nat) : Word :=
  match decodeF .f32 c with
  | .nan _ _ sig => if sig then 0x100 else 0x200
  | .inf s => if s then 0x001 else 0x080
  | .num s m _ =>
    if m = 0 then (if s then 0x008 else 0x010)
    else if isSub .f32 c then (if s then 0x004 else 0x020)
    else if s then 0x002 else 0x040

/-- An integer from an exact magnitude by a rounding direction, with whether it was inexact. -/
def roundInt (rm : Rm) (s : Bool) (m : Nat) (e : Int) (d : Word) : Nat × Bool :=
  let (q, r, k) := splitAt m e 0
  (if roundUp rm s q r k d then q + 1 else q, r != 0)

/-- FRND (R137): never NX. -/
def fRnd (md : FMode) (rm : Rm) (c : Nat) : Nat × Fx :=
  let c := finCode .f32 md.fzi c
  match decodeF .f32 c with
  | .nan s m g => (nanOf .f32 md.nanp [.nan s m g], if g then Fx.nv else 0)
  | .inf _ => (c, 0)
  | .num s m e =>
    if 0 ≤ e then (c, 0)
    else
      let n := (roundInt rm s m e 0).1
      ((encodeNum .f32 .rz false false s n 0 0).1, 0)

/-- FCMP (R138): the condition and NV. -/
def fCmp (cond : FCond) (md : FMode) (a b : Nat) : Bool × Fx :=
  let x := decodeF .f32 (finCode .f32 md.fzi a)
  let y := decodeF .f32 (finCode .f32 md.fzi b)
  let un := x.isNan || y.isNan
  let sg := sigFx [x, y]
  let any : Fx := if un then Fx.nv else 0
  match cond with
  | .eq => (fEq x y, sg)
  | .ne => (!fEq x y, sg)
  | .lt => (!un && fLess false x y, any)
  | .le => (!un && !fLess false y x, any)
  | .gt => (!un && fLess false y x, any)
  | .ge => (!un && !fLess false x y, any)
  | .ord => (!un, sg)
  | .uno => (un, sg)

/-! ## Conversions (R80, R81, R147) -/

/-- Whether every value of the source format is one of the target (R80). -/
def widens (sf df : Fmt) : Bool := decide (sf.ebits ≤ df.ebits) && decide (sf.mbits ≤ df.mbits)

/-- Convert a decoded element into a float format, given the draw it would take (R80, R81, R85, R86). -/
def toFloat (df : Fmt) (narrow : Bool) (md : FMode) (rm : Rm) (x : FVal) (d : Word) : Nat × Fx :=
  match x with
  | .nan s m g => (nanOf df md.nanp [.nan s m g], if g then Fx.nv else 0)
  | .inf s =>
    if narrow && md.ovf then (signBit df s + df.maxCode, 0)
    else if df.ieee then (signBit df s + df.infCode, 0)
    else (signBit df s + df.nanCode, Fx.nv)
  | .num s m e => encodeNum df rm md.ovf md.fzo s m e d

/-- The range of an integer format. -/
def intRange (w : Nat) (sg : Bool) : Int × Int :=
  if sg then (-(2 ^ (w - 1) : Int), 2 ^ (w - 1) - 1) else (0, 2 ^ w - 1)

/-- Float to integer (R81). -/
def toInt (w : Nat) (sg : Bool) (rm : Rm) (x : FVal) (d : Word) : Int × Fx :=
  let (lo, hi) := intRange w sg
  match x with
  | .nan .. => (0, Fx.nv)
  | .inf s => (if s then lo else hi, Fx.nv)
  | .num s m e =>
    let (n, ix) := roundInt rm s m e d
    let v : Int := if s then -(n : Int) else n
    if v > hi then (hi, Fx.nv) else if v < lo then (lo, Fx.nv) else (v, if ix then Fx.nx else 0)

/-- The value an E8M0 block scale multiplies by, as an exponent, or none for NaN (R77). -/
def scaleExp (e : Byte) : Option Int := if e = 0xFF then none else some ((e.toNat : Int) - 127)

/-- Widen an E4M3 immediate exactly; its NaN pattern gives the canonical NaN (R39). -/
def widenImm (f : Fmt) (b : Byte) : Nat :=
  match decodeF .e4m3 b.toNat with
  | .nan .. => f.nanCode
  | .inf _ => f.infCode
  | .num s m e => (encodeNum f .rne false false s m e 0).1

end Sys2Proof.Machine
end

