-- ==== Sys2Proof/Machine/Operands.lean ====
section
/-!
DEFINITION. What each slot instruction reads, releases and binds (R62, R65), under which guard it acts (R8, R97, R196,
R467), and the value each operand form supplies (R38, R39, R99).
-/
namespace Sys2Proof

/-! ## Footprints -/

/-- The operand names of an instruction: the specifiers it reads in the order in which they are checked, the names its
dead bits release, and the vN destinations it binds. -/
structure Foot where
  reads : List Spec
  dead : List (BitVec 9)
  dsts : List (BitVec 9)
  deriving DecidableEq, Repr

def Foot.none : Foot := ⟨[], [], []⟩

def deadOf (sp : Spec) (d : Bool) : List (BitVec 9) :=
  match sp with
  | .v n => if d then [n] else []
  | _ => []

def dstOf (sp : Spec) : List (BitVec 9) :=
  match sp with
  | .v n => [n]
  | _ => []

def V0.foot (o : V0) : Foot := ⟨[], [], dstOf o.d⟩

def V1.foot (o : V1) : Foot := ⟨[o.a], deadOf o.a o.da, dstOf o.d⟩

def V2.foot (o : V2) : Foot := ⟨[o.a, o.b], deadOf o.a o.da ++ deadOf o.b o.db, dstOf o.d⟩

/-- FFMAK also reads its addend from entry KI (R31, R59). -/
def V2.footK (o : V2) : Foot := ⟨[o.a, o.b, .k o.ki], deadOf o.a o.da ++ deadOf o.b o.db, dstOf o.d⟩

/-- An accumulate form also reads its destination (R130). -/
def VAcc.foot (o : VAcc) : Foot := ⟨[o.a, o.b, .v o.d], deadOf o.a o.da ++ deadOf o.b o.db, [o.d]⟩

def VCmp.foot (o : VCmp) : Foot := ⟨[o.a, o.b], deadOf o.a o.da ++ deadOf o.b o.db, []⟩

/-- With ACC the old partial sum is read (R156). -/
def VRed.foot (o : VRed) : Foot := ⟨o.a :: (if o.acc then [.ps o.ps] else []), deadOf o.a o.da, []⟩

/-- The names of a block of registers (R231). -/
def blockNames (n : BitVec 9) (k : Nat) : List (BitVec 9) := (List.range k).map (fun i => n + BitVec.ofNat 9 i)

/-- The names an address operand in pair form reads (R160). -/
def pairNames (sp : Spec) : List (BitVec 9) :=
  match sp with
  | .v n => [n, n + 1]
  | _ => []

def PairSpec.names : PairSpec → List (BitVec 9)
  | .v n => [n, n + 1]
  | .s _ => []

/-- The names the address operand of a segmented access reads: a pair for sgl and sgf (R160). -/
def adrNames (seg : BitVec 3) (sp : Spec) : List (BitVec 9) :=
  if seg = sgl ∨ seg = sgf then pairNames sp else dstOf sp

def adrReads (seg : BitVec 3) (sp : Spec) : List Spec :=
  if seg = sgl ∨ seg = sgf then (pairNames sp).map .v else [sp]

/-- A load: address read, destination bound. -/
def loadFoot (seg : BitVec 3) (dat adr : Spec) (ad : Bool) : Foot :=
  ⟨adrReads seg adr, if ad then adrNames seg adr else [], dstOf dat⟩

/-- A store: value and address read. -/
def storeFoot (seg : BitVec 3) (dat adr : Spec) (ad : Bool) : Foot :=
  ⟨dat :: adrReads seg adr, if ad then adrNames seg adr else [], []⟩

/-- The registers an atomic reads for its operands (R172). -/
def atomReads (op : AtomOp) (dat : Spec) : List Spec :=
  match dat with
  | .v n =>
    match op.isCas, op.wide with
    | false, false => [.v n]
    | false, true => [.v n, .v (n + 1)]
    | true, false => [.v n, .v (n + 1)]
    | true, true => (blockNames n 4).map .v
  | sp => [sp]

/-- The registers an atomic returns the old value in (R172). -/
def atomDsts (op : AtomOp) (dat : Spec) : List (BitVec 9) :=
  match dat with
  | .v n => if op.wide then [n, n + 1] else [n]
  | _ => []

def atomFoot (op : AtomOp) (o : MWOps) : Foot :=
  ⟨atomReads op o.dat ++ adrReads o.seg o.adr, if o.ad then adrNames o.seg o.adr else [], atomDsts op o.dat⟩

def pairFoot (a : PairSpec) (ad : Bool) : Foot := ⟨a.names.map .v, if ad then a.names else [], []⟩

end Sys2Proof

namespace Sys2Proof.Machine

/-- The footprint of every slot instruction (R62, R65). -/
def foot : Instr → Foot
  | .chk _ v => ⟨[.v v], [], []⟩
  | .fadd o | .fsub o | .fmul o | .fmin o | .fmax o => o.foot
  | .ffmak o => o.footK
  | .ffma o => o.foot
  | .fclass o | .frnd o _ => o.foot
  | .fcmp o _ => o.foot
  | .hadd2 o _ | .hmul2 o _ => o.foot
  | .hfma2 o _ | .hdot2 o _ => o.foot
  | .vadd o | .vsub o | .vmul o | .vmulh o _ | .vmin o _ | .vmax o _ => o.foot
  | .vand o | .vor o | .vxor o | .vandn o | .vshl o | .vshr o | .vshra o | .vbfx o _ | .vsel o => o.foot
  | .vmad o | .vbfi o | .vdot4 o _ => o.foot
  | .vabs o | .vmov o | .vpopc o | .vclz o => o.foot
  | .vcmp o _ => o.foot
  | .cvt o _ _ _ _ => o.foot
  | .cvtmx o _ _ | .cvtxm o _ _ => o.foot
  | .pack o | .perm o => o.foot
  | .unpk o _ _ _ => o.foot
  | .vlane o _ _ | .xsh o _ _ => o.foot
  | .vrand o => o.foot
  | .rcp o | .rsq o | .sqrt o | .exp2 o | .log2 o | .sin o | .cos o | .tanh o => o.foot
  | .rcpA o | .rsqA o | .sqrtA o | .exp2A o | .log2A o | .sinA o | .cosA o | .tanhA o => o.foot
  | .redAdd o | .redMin o | .redMax o => o.foot
  | .rdrn _ d ps _ _ _ => ⟨[.ps ps], [], dstOf d⟩
  | .rqCl _ b _ | .rqAn _ b _ => ⟨(blockNames b 8).map .v, [], blockNames b 4⟩
  | .rqOc _ b _ => ⟨(blockNames b 8).map .v, [], [b]⟩
  | .texS _ b _ | .texF _ b _ | .texL _ b _ | .texq _ b _ => ⟨(blockNames b 4).map .v, [], blockNames b 4⟩
  | .ldM _ o => loadFoot o.seg o.dat o.adr o.ad
  | .ldt o => loadFoot o.seg o.dat o.adr o.ad
  | .stM _ o => storeFoot o.seg o.dat o.adr o.ad
  | .ldMw _ o => loadFoot o.seg o.dat o.adr o.ad
  | .ldS o | .ldPoll o | .ldAcq o | .ldSc o => loadFoot o.seg o.dat o.adr o.ad
  | .stMw _ o => storeFoot o.seg o.dat o.adr o.ad
  | .stRel o | .stSc o => storeFoot o.seg o.dat o.adr o.ad
  | .pref _ _ a _ ad => pairFoot a ad
  | .atomAdd o w => atomFoot (.add w) o
  | .atomMin o w u => atomFoot (.min w u) o
  | .atomMax o w u => atomFoot (.max w u) o
  | .atomAnd o w => atomFoot (.and w) o
  | .atomOr o w => atomFoot (.or w) o
  | .atomXor o w => atomFoot (.xor w) o
  | .atomExch o w => atomFoot (.exch w) o
  | .atomCas o w => atomFoot (.cas w) o
  | .atomAddF32 o => atomFoot .addF32 o
  | .atomAddBf16 o => atomFoot .addBf16 o
  | .atomSc o op => atomFoot op o
  | .redAddF32 o | .redAddN32 o | .redMinF32 o | .redMaxF32 o | .redAddBf16 o =>
    storeFoot o.seg o.dat o.adr o.ad
  | .flushrOrdered _ a _ _ ad => pairFoot a ad
  | .watchArm _ a _ ad | .watchDisarm _ a _ ad => pairFoot a ad
  | .stapp _ v key _ _ ad => ⟨[v, key], deadOf key ad, []⟩
  | .tsend _ v _ _ | .tsendM _ v _ _ => ⟨[v], [], []⟩
  | .trecv _ d _ _ => ⟨[], [], dstOf d⟩
  | _ => .none

/-- The distinct vN names an instruction reads (R65). -/
def readNames (i : Instr) : List (BitVec 9) :=
  (foot i).reads.filterMap (fun sp => match sp with | .v n => some n | _ => none)

/-! ## Guards -/

/-- How an instruction is gated: by a flag, by a predicate lane by lane, by a predicate but acting once for the warp
(R196, R467), or not at all. -/
inductive Gate where
  | flag (g : Guard)
  | lanes (g : Guard)
  | once (g : Guard)
  | always
  deriving DecidableEq, Repr

/-- The gate of every slot instruction. The predicate field of VSEL selects, so only its "never" form gates (R144). -/
def gate : Instr → Gate
  | .iadd o | .isub o | .imul o | .imulh o _ | .imad o _ | .idiv o _ | .irem o _ | .iand o | .ior o | .ixor o
  | .iandn o | .shl o | .shr o | .shra o | .rot o | .bfx o _ _ | .bfi o _ | .imin o _ | .imax o _ | .sel o _ _
  | .aadd o | .alea o _ _ | .wfw o => .flag o.g
  | .clz o | .popc o | .brev o => .flag o.g
  | .icmp g .. | .movi g .. | .limmB32 g .. | .limmB64 g .. | .movsRf g .. | .movsWf g .. | .movsLc g ..
  | .movsRp g .. | .movsWp g .. | .movsRm g .. | .flop g .. | .rdgcc g .. | .rdid g .. | .bru g ..
  | .brd g .. | .jmp g .. | .call g .. | .ret g .. | .loop g .. | .lstr g .. | .yield g | .exit g | .waita g ..
  | .twait g .. | .bar g .. | .barq g .. | .phase g .. | .phwait g .. | .trap g .. | .sys g .. | .eret g
  | .ctlr g .. | .ctlw g .. | .segw g .. | .prmt g .. | .launch g .. | .role g .. | .wdogRd g .. | .wdogLower g ..
  | .wdogSet g .. | .govr g .. | .govrP g .. | .govrW g .. | .govrWp g .. => .flag g
  | .fadd o | .fsub o | .fmul o | .ffmak o | .fmin o | .fmax o | .hadd2 o _ | .hmul2 o _ | .vadd o | .vsub o
  | .vmul o | .vmulh o _ | .vmin o _ | .vmax o _ | .vand o | .vor o | .vxor o | .vandn o | .vshl o | .vshr o
  | .vshra o | .vbfx o _ | .vsel o | .pack o | .perm o => .lanes o.p
  | .ffma o | .hfma2 o _ | .hdot2 o _ | .vmad o | .vbfi o | .vdot4 o _ => .lanes o.p
  | .fclass o | .frnd o _ | .vabs o | .vmov o | .vpopc o | .vclz o | .cvt o .. | .cvtmx o .. | .cvtxm o ..
  | .unpk o .. | .vlane o .. | .xsh o .. | .rcp o | .rsq o | .sqrt o | .exp2 o | .log2 o | .sin o | .cos o
  | .tanh o | .rcpA o | .rsqA o | .sqrtA o | .exp2A o | .log2A o | .sinA o | .cosA o | .tanhA o => .lanes o.p
  | .fcmp o _ | .vcmp o _ => .lanes o.p
  | .vrand o => .lanes o.p
  | .mode p .. => .lanes p
  | .redAdd o | .redMin o | .redMax o => .lanes o.p
  | .rdrn p .. | .rclr p .. => .lanes p
  | .mcall x .. | .mpar x .. | .mfmt x .. | .mstat x .. | .mpsw x .. | .wst x .. | .wstat x .. | .rqCl x ..
  | .rqAn x .. | .rqOc x .. | .bvhb x .. | .bvhf x .. | .texS x .. | .texF x .. | .texL x .. | .texq x ..
  | .copy x .. | .cmpt x .. | .cmpq x .. | .mark x .. | .markw x .. => .once x.p
  | .ldM _ o | .stM _ o | .ldt o => .lanes o.p
  | .ldMw _ o | .stMw _ o | .ldS o | .ldPoll o | .ldAcq o | .stRel o | .ldSc o | .stSc o => .lanes o.p
  | .pref p .. => .lanes p
  | .atomAdd o .. | .atomMin o .. | .atomMax o .. | .atomAnd o .. | .atomOr o .. | .atomXor o .. | .atomExch o ..
  | .atomCas o .. | .atomAddF32 o | .atomAddBf16 o | .atomSc o _ => .lanes o.p
  | .redAddF32 o | .redAddN32 o | .redMinF32 o | .redMaxF32 o | .redAddBf16 o => .lanes o.p
  | .flushr p .. | .flushrOrdered p .. | .fenceAcq p .. | .fenceRel p .. | .fenceAr p .. | .xfence p .. | .semp p ..
  | .semw p .. | .watchArm p .. | .watchDisarm p .. | .stset p .. | .stcmt p .. => .once p
  | .stapp p .. | .tsend p .. | .tsendM p .. | .trecv p .. => .lanes p
  | _ => .always

/-- The lanes for which active(l) holds (R8). -/
def activeMask (s : State) (g : Guard) : Mask := s.cur.mask &&& predMask s.me g

/-- Whether the instruction does nothing at all: a false condition (R97), the "never" predicate (R31, R62), or no
active lane for what acts once for the warp (R196, R467). -/
def isOff (s : State) (i : Instr) : Bool :=
  match gate i with
  | .flag g => !flagOn s.me g
  | .lanes g => g.never
  | .once g => g.never || activeMask s g == 0
  | .always => false

/-! ## Operand traps (R58, R59, R62) -/

/-- The trap a read of one specifier raises: an unbound name, or an invalid latch or entry. -/
def readTrap (w : Warp) : Spec → Option Trap
  | .v n => match tget? w.map n.toNat with
    | some _ => none
    | none => some (.of .unboundRegister)
  | .k n => if w.kv.getLsbD n.toNat then none else some (.of .staleOperand)
  | .latch n => if w.lv.getLsbD n.toNat then none else some (.of .staleOperand)
  | .ps n => if w.lv.getLsbD (8 + n.toNat) then none else some (.of .staleOperand)
  | _ => none

/-- The first operand trap of an instruction. -/
def operandTrap (w : Warp) (i : Instr) : Option Trap := (foot i).reads.findSome? (readTrap w)

/-! ## Values of operands -/

/-- The number of a lane within the group; an arrival handler stands beyond the 16 warps (R38). For a warp of no group the
model takes the warp number it gives that warp. DESIGN CHOICE, log entry 105. -/
def groupLane (w : Warp) (l : Nat) : Word := BitVec.ofNat 32 (128 * w.wnum + l)

/-- The value of a source whose 8-bit immediate is read by `f` (R38, R39). -/
def srcVal (s : State) (f : Byte → Word) : Spec → VReg
  | .v n => vGet s.myCore s.me n
  | .s n => .splat (sGet s.me n)
  | .k n => tget VReg.zero s.me.caches n.toNat
  | .latch n => tget VReg.zero s.me.latches n.toNat
  | .ps n => tget VReg.zero s.me.latches (8 + n.toNat)
  | .idx n =>
    match n.toNat with
    | 0 => .build (fun l => BitVec.ofNat 32 l) 0
    | 1 => .build (fun l => BitVec.ofNat 32 (l / 16)) 0
    | 2 => .splat (BitVec.ofNat 32 s.cur.warp)
    | _ => .build (groupLane s.me) 0
  | .null => .zero
  | .imm b => .splat (f b)

/-- Sign-extended, for integer and bit operations (R39). -/
def immInt (b : Byte) : Word := b.signExtend 32

/-- Unsigned, for ranges that begin at 0 and for address operands (R39, R160). -/
def immNat (b : Byte) : Word := b.setWidth 32

/-- Widened to FP32 (R39). -/
def immF32 (b : Byte) : Word := BitVec.ofNat 32 (widenImm .f32 b)

/-- Widened to a half format, in both halves (R39). -/
def immHalf (f : Fmt) (b : Byte) : Word := BitVec.ofNat 32 (widenImm f b * 0x10001)

end Sys2Proof.Machine

namespace Sys2Proof

open Machine

def Half.fmt : Half → Machine.Fmt
  | .h16 => .h16
  | .bf16 => .bf16

/-- The value b of the S-form (R99). -/
def SSrc.val (w : Warp) : SSrc → Word
  | .reg n => sGet w n
  | .imm i => i.signExtend 32

/-- The pair form of source B (R111). -/
def SSrc.val64 (w : Warp) : SSrc → DWord
  | .reg n => sPairGet w n
  | .imm i => i.signExtend 64

/-- An immediate or an s-register. -/
def ImmOrS.val (w : Warp) : ImmOrS → Word
  | .imm b => b.setWidth 32
  | .s n => sGet w n

end Sys2Proof
end

