-- ==== Sys2Proof/Machine/Translate.lean ====
section
/-!
DEFINITION. Translation (R388 to R390): the walk of five levels, the core TLB and the die translation caches, and the
reads of bytes by virtual address that fetches and the part's own agents make.
-/
namespace Sys2Proof.Machine

/-- What an access asks of a page (R389). -/
inductive Need where
  | read | write | fetch
  deriving DecidableEq, Repr

/-- The physical address of the root table in force, aligned to 4 KiB (R388). -/
def rootAddr (s : State) : Nat := s.ms.root.toNat / 4096 * 4096

/-- Whether memory stands at a physical address: inside the tiers of R305, on a die that is present. -/
def present (s : State) (pa : Nat) : Bool :=
  match homeDie pa with
  | some d => (tget Die.reset s.pt.dies d).present
  | none => false

/-- The index bits of each level: shift and width (R389). -/
def levelShift : Nat → Nat
  | 5 => 48
  | 4 => 39
  | 3 => 30
  | 2 => 21
  | _ => 16

def levelEntries : Nat → Nat
  | 1 => 32
  | _ => 512

/-- The register window for cores at level F (R439, R459): 64 MiB above the memory of R305. -/
def deviceBase : Nat := 0x30000000000 + 0x4000000 * Config.windowSlot

def isDevice (pa : Nat) : Bool :=
  decide (0x30000000000 ≤ pa) && decide (deviceBase ≤ pa) && decide (pa < deviceBase + 0x4000000)

/-- Where the walk of an address reads its entry in a table. -/
def entryAddr (table lv va : Nat) : Nat := table + 8 * (va / 2 ^ levelShift lv % levelEntries lv)

/-- One entry of a walk at a level above 0 (R389): a translation of its level, a leaf or the way to the next table, or the
subcode of its fault. `u x w` are the permissions so far. -/
def readEntry (s : State) (va lv table : Nat) (u x w : Bool) : Except Nat Leaf :=
  let pa := entryAddr table lv va
  if !present s pa then .error 3
  else if s.ms.poisoned.contains (lineOf pa) then .error 4
  else
    let e := memRead s.ms.mem pa 8
    let adr := e / 256 % 2 ^ 44 * 256
    let lf := e / 64 % 2 == 1
    let sh := levelShift lv
    if e % 2 = 0 then .error 1
    else if e / 2 ^ 52 != 0 || e / 128 % 2 != 0 || e / 2 % 4 != 0 then .error 3
    else
      let l : Leaf := ⟨va / 2 ^ sh * 2 ^ sh, sh, adr, u && e / 32 % 2 == 1, x && e / 16 % 2 == 1, w && e / 8 % 2 == 1, !lf⟩
      if lf then
        if lv ≥ 4 || adr % 2 ^ sh != 0 || !(present s adr || isDevice adr) then .error 3 else .ok l
      else if lv = 1 || (lv != 2 && adr % 4096 != 0) then .error 3
      else .ok l

/-- One walk, from a level downwards: the leaf, or the subcode of R389, and the entries of tables on the way. -/
def walkFrom (s : State) (va : Nat) : Nat → Nat → Bool → Bool → Bool → Except Nat Leaf × List Leaf
  | 0, _, _, _, _ => (.error 3, [])
  | lv + 1, table, u, x, w =>
    match readEntry s va (lv + 1) table u x w with
    | .error e => (.error e, [])
    | .ok l =>
      if l.dir then
        let (r, d) := walkFrom s va lv l.pa l.u l.x l.w
        (r, l :: d)
      else (.ok l, [])

def Leaf.covers (l : Leaf) (va : Nat) : Bool := decide (l.va ≤ va) && decide (va < l.va + 2 ^ l.shift)

def Leaf.phys (l : Leaf) (va : Nat) : Nat := l.pa + (va - l.va)

/-- The level of a table entry that a translation cache holds. -/
def Leaf.level (l : Leaf) : Nat := if l.shift = 48 then 5 else if l.shift = 39 then 4 else if l.shift = 30 then 3 else 2

/-- The entry of the lowest level, among those a die's translation cache holds, on the way to an address (R390). -/
def cachedDir (va : Nat) : List Leaf → Option Leaf
  | [] => none
  | l :: r =>
    let d := cachedDir va r
    if l.dir && l.covers va then
      match d with
      | some m => if m.shift ≤ l.shift then some m else some l
      | none => some l
    else d

/-- The walk of an address that a die makes, from the lowest entry that its translation cache holds (R389, R390). -/
def walkWays (s : State) (die va : Nat) : Except Nat Leaf × List Leaf :=
  match cachedDir va (tget [] s.ms.tcache die) with
  | some d => walkFrom s va (d.level - 1) d.pa d.u d.x d.w
  | none => walkFrom s va 5 (rootAddr s) true true true

/-- The translation of an address through a die's translation cache: a leaf that it holds, or a walk (R390). -/
def walkAt (s : State) (die va : Nat) : Except Nat Leaf :=
  if va ≥ 2 ^ 57 then .error 5
  else match (tget [] s.ms.tcache die).find? (fun l => !l.dir && l.covers va) with
    | some l => .ok l
    | none => (walkWays s die va).1

/-- Whether a leaf allows an access at a level (R389). -/
def Leaf.allows (l : Leaf) (lv : Level) (n : Need) : Bool :=
  (lv != .u || l.u) && (match n with | .read => true | .write => l.w | .fetch => l.x)

/-- What a translation gives: a physical address, a subcode of R389, or a miss of the core TLB (R161). -/
inductive TRes where
  | ok (pa : Nat)
  | fault (sub : Nat)
  | miss
  deriving DecidableEq, Repr

/-- Translate through the core TLB, which the lanes and the fetch use; a walk of the warp that failed gives its own
fault (R390). -/
def tlbLook (s : State) (c w : Nat) (lv : Level) (n : Need) (va : Nat) : TRes :=
  if va ≥ 2 ^ 57 then .fault 5
  else match (s.core c).tlb.find? (fun l => l.covers va) with
    | some l => if l.allows lv n then .ok (l.phys va) else .fault 2
    | none =>
      match s.ms.walks.find? (fun k => k.core == c && k.warp == w && k.va / 65536 == va / 65536 && k.fail.isSome) with
      | some k => .fault (k.fail.getD 0)
      | none => .miss

/-- Translate through a die's translation cache, as the engines of its cores do (R390). -/
def xlateOn (s : State) (die : Nat) (lv : Level) (n : Need) (va : Nat) : Except Nat Nat :=
  match walkAt s die va with
  | .ok l => if l.allows lv n then .ok (l.phys va) else .error 2
  | .error e => .error e

/-- Translate on the H-die, as the command core, the merge engines and the host do (R390). -/
def xlate (s : State) (lv : Level) (n : Need) (va : Nat) : Except Nat Nat := xlateOn s 8 lv n va

/-- Translate by the TLB where it holds the page and by the die's translation cache where it does not. -/
def xlateAny (s : State) (c : Nat) (lv : Level) (n : Need) (va : Nat) : Except Nat Nat :=
  match (s.core c).tlb.find? (fun l => l.covers va) with
  | some l => if l.allows lv n then .ok (l.phys va) else .error 2
  | none => xlateOn s (dieOf c) lv n va

/-- Put a leaf at the front of a core's TLB, the oldest leaving (R390). -/
def tlbFill (s : State) (c : Nat) (l : Leaf) : State :=
  s.updCore c (fun k => { k with tlb := (l :: k.tlb.filter (fun x => x != l)).take Config.tlbEntries })

/-- Bytes read by an agent of a die at virtual addresses: page by page, or the subcode of the first failure; a poisoned
line reports subcode 0. -/
def readOn (s : State) (die : Nat) (lv : Level) : Nat → Nat → Except (Nat × Nat) (List Byte)
  | _, 0 => .ok []
  | va, n + 1 =>
    match xlateOn s die lv .read va with
    | .error e => .error (e, va)
    | .ok pa =>
      if s.ms.poisoned.contains (lineOf pa) then .error (0, va)
      else match readOn s die lv (va + 1) n with
        | .ok r => .ok (memGet s.ms.mem pa :: r)
        | .error e => .error e

/-- Bytes read by an agent of the H-die. -/
def readVa (s : State) (lv : Level) (va n : Nat) : Except (Nat × Nat) (List Byte) := readOn s 8 lv va n

/-! ## Writes at the home -/

/-- Whether a warp's watch names a line (R184). -/
def watchHits (ln : Nat) (w : Warp) : Warp := if w.watch = some ln then { w with watchHit := true } else w

/-- A write to a line at its home sets the hit bit of every watch on it (R184). -/
def hitWatches (s : State) (ln : Nat) : State :=
  { s with cores := s.cores.map (fun x => (x.1, { x.2 with warps := x.2.warps.map (fun y => (y.1, watchHits ln y.2)) })) }

/-- Store bytes at a physical address at its home: a write of all 128 bytes of a line clears its poison, a partial
one leaves it (R443), and watches are hit (R184). -/
def homeWrite (s : State) (pa : Nat) (bs : List Byte) : State :=
  let s := { s with ms := { s.ms with mem := memWrite s.ms.mem pa bs } }
  let s := if pa % 128 = 0 ∧ bs.length = 128 then
    { s with ms := { s.ms with poisoned := s.ms.poisoned.filter (· != lineOf pa) } } else s
  hitWatches s (lineOf pa)

/-- Bytes at an address, cut where lines end. -/
def cutLines : Nat → List Byte → List (Nat × List Byte)
  | _, [] => []
  | va, b :: r =>
    match cutLines (va + 1) r with
    | (a, l) :: t => if lineOf a = lineOf va then (va, b :: l) :: t else (va, [b]) :: (a, l) :: t
    | [] => [(va, [b])]

/-- The number under which what goes to the host leaves the part. -/
def hostPort : Nat := 255

/-- The first physical address of a die's memory, and the pages it has (R305). -/
def dieBase (d : Nat) : Nat := if d = 8 then 2 ^ 40 else d * 2 ^ 37

def diePages (d : Nat) : Nat := if d = 8 then 2 ^ 25 else 2 ^ 21

/-- Where the counters of a die's pages lie in its own memory (R438). -/
def counterBase (d : Nat) : Nat := dieBase d + 0x4000000 * (Config.counterSlot d % (diePages d / 1024))

/-- The address of the counter of a page, given by its number in memory. -/
def counterAddr (d pg : Nat) : Nat := counterBase d + 2 * (pg - dieBase d / 65536)

/-- Put pieces of lines at virtual addresses of the H-die's agents; one that cannot be translated is dropped. -/
def putBytes (s : State) (l : List (Nat × List Byte)) : State :=
  l.foldl (fun s x => match xlate s .s .write x.1 with | .ok pa => homeWrite s pa x.2 | .error _ => s) s

/-- A request that enters a line's home counts for its page (R438, R440): the counter, a word of memory, advances while EN is
set and saturates, and reaching the threshold appends a record to the die's migration queue. The counter's own access and
the record's do not count. Log entry 91. -/
def countAccess (s : State) (ln : Nat) : State :=
  match homeDie (ln * 128) with
  | none => s
  | some d =>
    let die := tget Die.reset s.pt.dies d
    if !die.pactl.getLsbD 0 then s
    else
      let pg := ln / 512
      let a := counterAddr d pg
      let n := memRead s.ms.mem a 2
      let s := homeWrite s a (bytesOf 2 (min (n + 1) 0xFFFF))
      if n + 1 != (die.pactl.extractLsb' 16 16).toNat || n == 0xFFFF then s
      else if (die.mqhead - die.mqtail).toNat ≥ 4096 then
        { s with pt := { s.pt with dies := tset s.pt.dies d { die with pactl := die.pactl ||| 4#32 } } }
      else
        let rec_ : Nat := pg + 2 ^ 36 * d + (if d = 8 then 2 ^ 40 else 0) + 2 ^ 63
        let s := { s with pt := { s.pt with dies := tset s.pt.dies d { die with mqhead := die.mqhead + 1 } } }
        let s := if die.pactl.getLsbD 1 then { s with hd := { s.hd with outbox := s.hd.outbox ++ [(hostPort, .irq d)] } } else s
        putBytes s (cutLines (die.mqbase.toNat + 8 * (die.mqhead.toNat % 4096)) (bytesOf 8 rec_))

/-! ## Fetch (R26, R27) -/

/-- The bytes of a fetch, or the subcode of the fetch fault, or a TLB miss. -/
inductive Fetched where
  | ok (bs : List Byte)
  | fault (sub : Nat)
  | miss
  deriving DecidableEq, Repr

/-- Read `n` bytes of a fetch line for a warp of a level. At an odd address the head's second byte may lie on another
page, or in another line, than its first (R27, R47). -/
def fetchBytes (s : State) (c w : Nat) (lv : Level) (pc : DWord) (n : Nat) : Fetched :=
  match tlbLook s c w lv .fetch pc.toNat, tlbLook s c w lv .fetch (pc.toNat + n - 1) with
  | .miss, _ => .miss
  | .fault e, _ => .fault e
  | .ok _, .miss => .miss
  | .ok _, .fault e => .fault e
  | .ok a, .ok b =>
    if s.ms.poisoned.contains (lineOf a) || s.ms.poisoned.contains (lineOf b) then .fault 0
    else .ok (memBytes s.ms.mem a (n - 1) ++ [memGet s.ms.mem b])

/-- The pages that a fetch of the head at an address still lacks. -/
def fetchMisses (s : State) (c w : Nat) (lv : Level) (pc : DWord) : List Nat :=
  [pc.toNat, pc.toNat + 1].filter (fun va => tlbLook s c w lv .fetch va == .miss)

/-- The head at an address, wherever it can be translated (used to find the bundles that follow). -/
def headAt (s : State) (c : Nat) (lv : Level) (pc : DWord) : Option (BitVec 16) :=
  match xlateAny s c lv .fetch pc.toNat with
  | .ok pa => some (BitVec.ofNat 16 (memRead s.ms.mem pa 2))
  | .error _ => none

/-- The address of the bundle `k` bundles after the one at `pc` on the sequential path (R26). -/
def seqFrom (s : State) (c : Nat) (lv : Level) : DWord → Nat → Option DWord
  | pc, 0 => some pc
  | pc, k + 1 =>
    match headAt s c lv pc with
    | some h => seqFrom s c lv (BitVec.ofNat 64 (nextPc pc.toNat h)) k
    | none => none

end Sys2Proof.Machine
end

