-- ==== Sys2Proof/Machine/Slot.lean ====
section
/-!
DEFINITION. The frame every slot instruction shares: its gate, its operand checks, the three steps of R62, its effect,
and the trap where one of them fails; switch points (R60, R70) and the delay of control instructions (R114).
-/
namespace Sys2Proof.Machine

/-- The instructions that have delay bundles (R114). -/
def isControl : Instr → Bool
  | .bru .. | .brv .. | .brd .. | .jmp .. | .call .. | .ret .. | .chk .. => true
  | _ => false

/-- Whether a control transfer is pending (R114). -/
def transferPending (w : Warp) : Bool :=
  decide (w.dl > 0) && (match w.xfer with | .none => false | _ => true)

/-- A BRD that moves nothing: the priority of its entry acts after the third bundle that follows, also where a further
control instruction stands among those (R114, R117). -/
def addFall (s : State) (p : BitVec 16) : State := s.updMe (fun w => { w with falls := w.falls ++ [(4, p)] })

/-- Begin the three delay bundles of a control instruction, with what follows the third (R114). -/
def startDelay (s : State) (t : Transfer) : State :=
  let s := s.updMe (fun w => { w with dl := 3, xfer := t, issuer := some s.cur.mask })
  { s with cur := { s.cur with control := true } }

/-- What a suppressed instruction still does: a suppressed control instruction has its delay bundles (R97). -/
def offEffect (i : Instr) (s : State) : State := if isControl i then startDelay s .none else s

/-- The checks and the three steps of R62 for one instruction: reads, releases, bindings. -/
def prep (i : Instr) (s : State) : Run :=
  match operandTrap s.me i with
  | some tr => .error tr
  | none =>
    match bindAll (releaseAll s (foot i).dead) (foot i).dsts with
    | some s' => .ok s'
    | none => .error (.of .allotmentOverflow)

/-- A slot instruction taken by itself: off, trapped, or carried out. `run` reads from the state at issue and applies
its effect to the state after the bindings. -/
def slotExec (i : Instr) (run : State → State → Run) (s : State) : Host.Outcome State Fault Refusal :=
  if isOff s i then .next (offEffect i s)
  else
    match prep i s with
    | .error tr => .next (takeTrap s tr)
    | .ok s1 =>
      match run s s1 with
      | .error tr => .next (takeTrap s tr)
      | .ok s2 => .next s2

/-- Whether the issuing warp is inside a static region (R285). -/
def inRegion (s : State) : Bool := s.me.region.isSome

/-- An instruction that a static region forbids takes the timing fault with subcode 1 (R287, R294). -/
def notInRegion (s : State) (k : Run) : Run := if inRegion s then .error (.timing 1) else k

/-- A voluntary deschedule: the warp's pending writes land on their cycles, then its valid bits are cleared and it may
become ready again (R60, R70). -/
def switchPoint (s : State) : State :=
  let s := s.updMe (fun w => { w with drain := true, ready := none })
  { s with cur := { s.cur with switch := true } }

/-- Remember what a switch-point bundle found, and the slot of its first wait. -/
def markSwitch (s0 s : State) : State :=
  s.updMe (fun w =>
    let m := s0.me
    { w with sw := some ⟨s0.cur.pc, s0.cur.mask, (if w.susp = .none then s.cur.slot.num else (w.sw.map (·.slot)).getD s.cur.slot.num), m.entries, m.spilled, m.loops, m.dl, m.xfer, m.falls, m.issuer,
      m.latches, m.caches, m.lv, m.kv⟩ })

/-- Suspend the whole warp at a switch point; a second wait of one bundle follows the first (R268, R271). -/
def suspend (s0 s : State) (x : Susp) : State :=
  switchPoint ((markSwitch s0 s).updMe (fun w =>
    if w.susp = .none then { w with susp := x } else { w with also := w.also ++ [x] }))

/-- A wait of a warp ends. -/
def endSusp (w : Warp) : Warp :=
  match w.also with
  | [] => { w with susp := .none }
  | x :: r => { w with susp := x, also := r }

/-- Where the issuing entry stands, with the delay bundles, the transfer and the loop levels of its warp. -/
def pointOf (w : Warp) (e : Entry) : Point := ⟨e.pc, e.prio, e.mask, w.dl, w.xfer, w.falls, w.loops⟩

/-- The issuing entry waits at a switch point (R271); `s0` is the state at issue. -/
def waitEntry (s0 s : State) (x : Wait) : State :=
  let s := s.updMe (fun w =>
    { w with entries := w.entries.map (fun e => if e.mask = s.cur.mask then { e with wait := x, back := some (pointOf s0.me e) } else e) })
  switchPoint { s with cur := { s.cur with wait := x } }

end Sys2Proof.Machine
end

