-- ==== Sys2Proof/Machine/Scalar.lean ====
section
/-!
DEFINITION. The meanings of the scalar instructions: arithmetic, logic, fields, compares, moves, addresses, clock and
identity (R101 to R113).
-/
namespace Sys2Proof.Machine

/-- A result of sources a and b. -/
def runS3 (lat : Nat) (f : Word → Word → Word) (o : S3) (s0 s : State) : Run :=
  .ok (pendS s lat o.d (f (sGet s0.me o.a) (o.b.val s0.me)))

/-- A result of source a. -/
def runS2 (f : Word → Word) (o : S2) (s0 s : State) : Run := .ok (pendS s 1 o.d (f (sGet s0.me o.a)))

def runIadd (o : S3) : State → State → Run := runS3 1 (· + ·) o
def runIsub (o : S3) : State → State → Run := runS3 1 (· - ·) o
def runImul (o : S3) : State → State → Run := runS3 3 (· * ·) o

/-- The high half of a product (R101, R141). -/
def mulHigh (uns : Bool) (a b : Word) : Word :=
  if uns then (a.setWidth 64 * b.setWidth 64).extractLsb' 32 32
  else (a.signExtend 64 * b.signExtend 64).extractLsb' 32 32

def runImulh (o : S3) (uns : Bool) : State → State → Run := runS3 3 (mulHigh uns) o

def runImad (o : S3) (c : BitVec 7) (s0 s : State) : Run :=
  .ok (pendS s 3 o.d (sGet s0.me o.a * o.b.val s0.me + sGet s0.me c))

/-- The quotient of R102. -/
def idivWord (uns : Bool) (a b : Word) : Word :=
  if b = 0 then 0xFFFFFFFF
  else if uns then BitVec.ofNat 32 (a.toNat / b.toNat)
  else if a = 0x80000000 ∧ b = 0xFFFFFFFF then a
  else BitVec.ofInt 32 (Int.tdiv a.toInt b.toInt)

/-- The remainder of R102: it takes the sign of a. -/
def iremWord (uns : Bool) (a b : Word) : Word :=
  if b = 0 then a
  else if uns then BitVec.ofNat 32 (a.toNat % b.toNat)
  else if a = 0x80000000 ∧ b = 0xFFFFFFFF then 0
  else BitVec.ofInt 32 (Int.tmod a.toInt b.toInt)

def runIdiv (o : S3) (uns : Bool) : State → State → Run := runS3 20 (idivWord uns) o
def runIrem (o : S3) (uns : Bool) : State → State → Run := runS3 20 (iremWord uns) o

def runIand (o : S3) : State → State → Run := runS3 1 (· &&& ·) o
def runIor (o : S3) : State → State → Run := runS3 1 (· ||| ·) o
def runIxor (o : S3) : State → State → Run := runS3 1 (· ^^^ ·) o
def runIandn (o : S3) : State → State → Run := runS3 1 (fun a b => a &&& ~~~b) o

/-- Shifts by the unsigned value of the count; a count of 32 or more leaves zeros, or copies of the sign (R103). -/
def shlWord (a b : Word) : Word := if b.toNat < 32 then a <<< b.toNat else 0
def shrWord (a b : Word) : Word := if b.toNat < 32 then a >>> b.toNat else 0
def shraWord (a b : Word) : Word :=
  if b.toNat < 32 then a.sshiftRight b.toNat else if a.msb then 0xFFFFFFFF else 0

def runShl (o : S3) : State → State → Run := runS3 1 shlWord o
def runShr (o : S3) : State → State → Run := runS3 1 shrWord o
def runShra (o : S3) : State → State → Run := runS3 1 shraWord o
def runRot (o : S3) : State → State → Run := runS3 1 (fun a b => a.rotateLeft (b.toNat % 32)) o

/-- Leading zero bits, 32 for 0 (R103). -/
def clzWord (a : Word) : Word := BitVec.ofNat 32 (32 - bitLen a.toNat)

/-- One bits (R103). -/
def popcWord (a : Word) : Word := BitVec.ofNat 32 ((List.range 32).filter (fun i => a.getLsbD i)).length

/-- Bit i of the result is bit 31 − i of the source (R103). -/
def brevWord (a : Word) : Word := a.reverse

def runClz (o : S2) : State → State → Run := runS2 clzWord o
def runPopc (o : S2) : State → State → Run := runS2 popcWord o
def runBrev (o : S2) : State → State → Run := runS2 brevWord o

/-- Extract a field of w bits at b mod 32, sign-extended from bit w − 1 when signed (R104). -/
def bfxWord (w : Nat) (sgn : Bool) (a b : Word) : Word :=
  let f := a.toNat / 2 ^ (b.toNat % 32) % 2 ^ w
  if sgn && f / 2 ^ (w - 1) % 2 == 1 then BitVec.ofInt 32 ((f : Int) - 2 ^ w) else BitVec.ofNat 32 f

/-- Insert w bits of a into `old` at b mod 32 (R104). -/
def bfiWord (w : Nat) (a b old : Word) : Word :=
  let pos := b.toNat % 32
  let m : Word := BitVec.ofNat 32 ((2 ^ w - 1) * 2 ^ pos)
  (old &&& ~~~m) ||| ((a <<< pos) &&& m)

def runBfx (o : S3) (w : BitVec 5) (sgn : Bool) : State → State → Run := runS3 1 (bfxWord (w.toNat + 1) sgn) o

/-- BFI reads its own destination at issue (R104). -/
def runBfi (o : S3) (w : BitVec 5) (s0 s : State) : Run :=
  runS3 1 (fun a b => bfiWord (w.toNat + 1) a b (sGet s0.me o.d)) o s0 s

def lessWord (uns : Bool) (a b : Word) : Bool := if uns then a.ult b else a.slt b

def minWord (uns : Bool) (a b : Word) : Word := if lessWord uns b a then b else a
def maxWord (uns : Bool) (a b : Word) : Word := if lessWord uns a b then b else a

def runImin (o : S3) (uns : Bool) : State → State → Run := runS3 1 (minWord uns) o
def runImax (o : S3) (uns : Bool) : State → State → Run := runS3 1 (maxWord uns) o

end Sys2Proof.Machine

namespace Sys2Proof

/-- The conditions of R106. -/
def Cond.test (c : Cond) (a b : Word) : Bool :=
  match c with
  | .eq => a == b
  | .ne => a != b
  | .ltI => a.slt b
  | .leI => a.sle b
  | .gtI => b.slt a
  | .geI => b.sle a
  | .ltN => a.ult b
  | .leN => a.ule b
  | .gtN => b.ult a
  | .geN => b.ule a

end Sys2Proof

namespace Sys2Proof.Machine

def runIcmp (fd : BitVec 3) (a : BitVec 7) (b : SSrc) (c : Cond) (s0 s : State) : Run :=
  .ok (pend s 1 (.flag fd (c.test (sGet s0.me a) (b.val s0.me))))

def runSel (o : S3) (fl : BitVec 3) (neg : Bool) (s0 s : State) : Run :=
  runS3 1 (fun a b => if fGet s0.me fl != neg then a else b) o s0 s

/-! ## Moves (R109, R110) -/

def runMovi (d : BitVec 7) (i : BitVec 14) (_ s : State) : Run := .ok (pendS s 1 d (i.signExtend 32))

def runLimmB32 (d : BitVec 7) (w : Word) (_ s : State) : Run := .ok (pendS s 1 d w)

def runLimmB64 (d : BitVec 7) (w : BitVec 48) (_ s : State) : Run := .ok (pendPair s 1 d (w.signExtend 64))

/-- The flags as a word; bit 0 reads 1 (R110). -/
def flagWord (w : Warp) : Word := (w.f ||| 1#8).setWidth 32

def runMovsRf (d : BitVec 7) (s0 s : State) : Run := .ok (pendS s 1 d (flagWord s0.me))

/-- Flags f1 to f7 take bits 1 to 7; each is a result of its own (R68, R110). -/
def runMovsWf (a : BitVec 7) (s0 s : State) : Run :=
  let v := sGet s0.me a
  .ok ([1, 2, 3, 4, 5, 6, 7].foldl (fun s i => pend s 1 (.flag (BitVec.ofNat 3 i) (v.getLsbD i))) s)

def runMovsLc (d : BitVec 7) (n : BitVec 3) (s0 s : State) : Run :=
  .ok (pendS s 1 d (match s0.me.loops[n.toNat]? with | some l => l.lc | none => 0))

def runMovsRp (d : BitVec 7) (p : BitVec 3) (j : BitVec 2) (s0 s : State) : Run :=
  .ok (pendS s 1 d ((pGet s0.me p).extractLsb' (32 * j.toNat) 32))

/-- All 32 selected lanes are written, whatever the entry's mask (R110). -/
def runMovsWp (p : BitVec 3) (j : BitVec 2) (a : BitVec 7) (s0 s : State) : Run :=
  .ok (pend s 1 (.pred p ((0xFFFFFFFF#128) <<< (32 * j.toNat)) ((sGet s0.me a).setWidth 128 <<< (32 * j.toNat))))

def runMovsRm (d : BitVec 7) (j : BitVec 2) (s0 s : State) : Run :=
  .ok (pendS s 1 d (s0.cur.mask.extractLsb' (32 * j.toNat) 32))

/-! ## Addresses, clock, identity (R111 to R113), flags (R108) -/

def runAadd (o : S3) (s0 s : State) : Run :=
  .ok (pendPair s 1 o.d (sPairGet s0.me o.a + o.b.val64 s0.me))

def runAlea (o : S3) (k : BitVec 3) (z : Bool) (s0 s : State) : Run :=
  let b := o.b.val s0.me
  let e : DWord := if z then b.setWidth 64 else b.signExtend 64
  .ok (pendPair s 1 o.d (sPairGet s0.me o.a + (e <<< k.toNat)))

/-- f[SD] <- bit (2·f[fa] + f[fb]) of the truth table (R108). -/
def runFlop (fd fa fb : BitVec 3) (t : BitVec 4) (s0 s : State) : Run :=
  let i := (if fGet s0.me fa then 2 else 0) + (if fGet s0.me fb then 1 else 0)
  .ok (pend s 1 (.flag fd (t.getLsbD i)))

/-- GCC at the cycle in which the bundle issues (R112). -/
def runRdgcc (d : BitVec 7) (s0 s : State) : Run := .ok (pendPair s 1 d (BitVec.ofNat 64 s0.gcc))

/-- The values of R113. DESIGN CHOICE (log entry 113): the warp number of an arrival handler is 16 plus its handler number. -/
def rdidVal (s : State) (sel : BitVec 3) : Nat :=
  match sel.toNat with
  | 0 => s.cur.core
  | 1 => dieOf s.cur.core
  | 2 => quadOf s.cur.core
  | 3 => s.cur.core % 16
  | 4 => s.cur.warp
  | 5 => s.me.wnum
  | 6 => s.myGroup.num
  | _ => s.me.level.num

/-- The warp and group numbers of a warp of no group (R14, R376) are free values. -/
def runRdid (d : BitVec 7) (sel : BitVec 3) (s0 s : State) : Run :=
  if s0.me.handle = noGroup ∧ (sel = 5 ∨ sel = 6) then
    let (n, s) := s.draw
    .ok (pendS s 1 d (Config.freeWord n))
  else .ok (pendS s 1 d (BitVec.ofNat 32 (rdidVal s0 sel)))

/-! ## The meanings -/

abbrev Out := Host.Outcome State Fault Refusal

def execIadd (o : S3) (s : State) : Out := slotExec (.iadd o) (runIadd o) s
def execIsub (o : S3) (s : State) : Out := slotExec (.isub o) (runIsub o) s
def execImul (o : S3) (s : State) : Out := slotExec (.imul o) (runImul o) s
def execImulh (o : S3) (uns : Bool) (s : State) : Out := slotExec (.imulh o uns) (runImulh o uns) s
def execImad (o : S3) (c : BitVec 7) (s : State) : Out := slotExec (.imad o c) (runImad o c) s
def execIdiv (o : S3) (uns : Bool) (s : State) : Out := slotExec (.idiv o uns) (runIdiv o uns) s
def execIrem (o : S3) (uns : Bool) (s : State) : Out := slotExec (.irem o uns) (runIrem o uns) s
def execIand (o : S3) (s : State) : Out := slotExec (.iand o) (runIand o) s
def execIor (o : S3) (s : State) : Out := slotExec (.ior o) (runIor o) s
def execIxor (o : S3) (s : State) : Out := slotExec (.ixor o) (runIxor o) s
def execIandn (o : S3) (s : State) : Out := slotExec (.iandn o) (runIandn o) s
def execShl (o : S3) (s : State) : Out := slotExec (.shl o) (runShl o) s
def execShr (o : S3) (s : State) : Out := slotExec (.shr o) (runShr o) s
def execShra (o : S3) (s : State) : Out := slotExec (.shra o) (runShra o) s
def execRot (o : S3) (s : State) : Out := slotExec (.rot o) (runRot o) s
def execClz (o : S2) (s : State) : Out := slotExec (.clz o) (runClz o) s
def execPopc (o : S2) (s : State) : Out := slotExec (.popc o) (runPopc o) s
def execBrev (o : S2) (s : State) : Out := slotExec (.brev o) (runBrev o) s
def execBfx (o : S3) (w : BitVec 5) (sgn : Bool) (s : State) : Out := slotExec (.bfx o w sgn) (runBfx o w sgn) s
def execBfi (o : S3) (w : BitVec 5) (s : State) : Out := slotExec (.bfi o w) (runBfi o w) s
def execImin (o : S3) (uns : Bool) (s : State) : Out := slotExec (.imin o uns) (runImin o uns) s
def execImax (o : S3) (uns : Bool) (s : State) : Out := slotExec (.imax o uns) (runImax o uns) s
def execIcmp (g : Guard) (fd : BitVec 3) (a : BitVec 7) (b : SSrc) (c : Cond) (s : State) : Out :=
  slotExec (.icmp g fd a b c) (runIcmp fd a b c) s
def execSel (o : S3) (fl : BitVec 3) (neg : Bool) (s : State) : Out := slotExec (.sel o fl neg) (runSel o fl neg) s
def execMovi (g : Guard) (d : BitVec 7) (i : BitVec 14) (s : State) : Out := slotExec (.movi g d i) (runMovi d i) s
def execLimmB32 (g : Guard) (d : BitVec 7) (w : Word) (s : State) : Out :=
  slotExec (.limmB32 g d w) (runLimmB32 d w) s
def execLimmB64 (g : Guard) (d : BitVec 7) (w : BitVec 48) (s : State) : Out :=
  slotExec (.limmB64 g d w) (runLimmB64 d w) s
def execMovsRf (g : Guard) (d : BitVec 7) (s : State) : Out := slotExec (.movsRf g d) (runMovsRf d) s
def execMovsWf (g : Guard) (a : BitVec 7) (s : State) : Out := slotExec (.movsWf g a) (runMovsWf a) s
def execMovsLc (g : Guard) (d : BitVec 7) (n : BitVec 3) (s : State) : Out :=
  slotExec (.movsLc g d n) (runMovsLc d n) s
def execMovsRp (g : Guard) (d : BitVec 7) (p : BitVec 3) (j : BitVec 2) (s : State) : Out :=
  slotExec (.movsRp g d p j) (runMovsRp d p j) s
def execMovsWp (g : Guard) (p : BitVec 3) (j : BitVec 2) (a : BitVec 7) (s : State) : Out :=
  slotExec (.movsWp g p j a) (runMovsWp p j a) s
def execMovsRm (g : Guard) (d : BitVec 7) (j : BitVec 2) (s : State) : Out :=
  slotExec (.movsRm g d j) (runMovsRm d j) s
def execAadd (o : S3) (s : State) : Out := slotExec (.aadd o) (runAadd o) s
def execAlea (o : S3) (k : BitVec 3) (z : Bool) (s : State) : Out := slotExec (.alea o k z) (runAlea o k z) s
def execFlop (g : Guard) (fd fa fb : BitVec 3) (t : BitVec 4) (s : State) : Out :=
  slotExec (.flop g fd fa fb t) (runFlop fd fa fb t) s
def execRdgcc (g : Guard) (d : BitVec 7) (s : State) : Out := slotExec (.rdgcc g d) (runRdgcc d) s
def execRdid (g : Guard) (d : BitVec 7) (sel : BitVec 3) (s : State) : Out :=
  slotExec (.rdid g d sel) (runRdid d sel) s

end Sys2Proof.Machine
end

