-- ==== Sys2Proof/Machine/Control.lean ====
section
/-!
DEFINITION. The meanings of the control instructions, loops, YIELD and EXIT (R114 to R127).
-/
namespace Sys2Proof.Machine

/-- The target of a B-form instruction (R115). -/
def branchTarget (s : State) (off : BitVec 26) : DWord := s.cur.pc + (off.signExtend 64 <<< 1)

/-- The address of the bundle `k` after the issuing one in sequence. Where a head on the way cannot be read the
address is a free value. -/
def aheadOf (s : State) (k : Nat) : DWord × State :=
  match seqFrom s s.cur.core s.me.level s.cur.pc k with
  | some a => (a, s)
  | none => (Config.freeWord s.drawn ++ Config.freeWord (s.drawn + 1), { s with drawn := s.drawn + 2 })

/-- The innermost active loop level (R120). -/
def innermost (w : Warp) : Option LoopLevel := w.loops.getLast?

/-- Whether an address lies in a loop body. -/
def LoopLevel.holds (l : LoopLevel) (a : DWord) : Bool := l.start.ule a && a.ule l.stop

/-- A control instruction at one of the last four bundles of the innermost body (R123). -/
def nearEnd (s : State) : Bool :=
  match innermost s.me with
  | none => false
  | some l => l.holds s.cur.pc &&
      [0, 1, 2, 3].any (fun k => seqFrom s s.cur.core s.me.level s.cur.pc k == some l.stop)

/-- A transfer out of the innermost body (R123). -/
def leavesBody (s : State) (t : DWord) : Bool :=
  match innermost s.me with
  | none => false
  | some l => l.holds s.cur.pc && !l.holds t

/-- The checks of R123 for a control instruction: `out` for those whose target is checked. -/
def controlFault (s : State) (out : Option DWord) : Bool :=
  nearEnd s || (match out with | some t => leavesBody s t | none => false)

def runBru (off : BitVec 26) (s0 s : State) : Run :=
  if controlFault s0 (some (branchTarget s0 off)) then .error (.of .loopFault)
  else .ok (startDelay s (.goto (branchTarget s0 off)))

/-- BRV: uniform over the entry's mask, or a trap (R116). Where R123 forbids it as well, the non-uniform branch is the trap
taken. DESIGN CHOICE, log entry 106. -/
def runBrv (p : Guard) (off : BitVec 26) (s0 s : State) : Run :=
  let v := predMask s0.me p &&& s0.cur.mask
  let t := branchTarget s0 off
  if v ≠ 0 ∧ v ≠ s0.cur.mask then .error (.of .nonUniformBranch)
  else if controlFault s0 (if v = s0.cur.mask then some t else none) then .error (.of .loopFault)
  else .ok (startDelay s (if v = s0.cur.mask then .goto t else .none))

/-- BRD: the predicate is read at issue; inside a static region a division is a timing fault (R117), also where R123 forbids
the BRD as well. DESIGN CHOICE, log entry 106. -/
def runBrd (off : BitVec 26) (p : Guard) (pft ptk : BitVec 16) (s0 s : State) : Run :=
  let t := predMask s0.me p &&& s0.cur.mask
  let f := s0.cur.mask &&& ~~~t
  let a := branchTarget s0 off
  if inRegion s0 ∧ t ≠ 0 ∧ f ≠ 0 then .error (.timing 2)
  else if controlFault s0 (if t = 0 then none else some a) then .error (.of .loopFault)
  else if t = 0 then .ok (startDelay (addFall s pft) .none)
  else .ok (startDelay s (if f = 0 then .take a ptk else .split a ptk pft t f))

def runJmp (off : BitVec 26) (s0 s : State) : Run :=
  if controlFault s0 none then .error (.of .loopFault)
  else .ok (startDelay s (.jump (branchTarget s0 off)))

/-- CALL: the link pair takes the address that follows the third delay bundle (R118). -/
def runCall (off : BitVec 26) (link : BitVec 7) (s0 s : State) : Run :=
  if controlFault s0 none then .error (.of .loopFault)
  else
    let (a, s) := aheadOf s 4
    .ok (startDelay (pendPair s 1 link a) (.goto (branchTarget s0 off)))

def runRet (a : BitVec 7) (s0 s : State) : Run :=
  if controlFault s0 none then .error (.of .loopFault)
  else .ok (startDelay s (.goto (sPairGet s0.me a)))

/-- CHK: any poison in the lanes of the entry's mask sends the whole entry to the recovery bundle (R119). -/
def runChk (off : BitVec 26) (v : BitVec 9) (s0 s : State) : Run :=
  if controlFault s0 none then .error (.of .loopFault)
  else
    .ok (startDelay s
      (if (vGet s0.myCore s0.me v).poison &&& s0.cur.mask = 0 then .none else .goto (branchTarget s0 off)))

/-- The registrations held for a level (R121, R124). -/
def heldStride (w : Warp) (n slot : Nat) : Option (BitVec 7 × Word) := tget? w.strides (2 * n + slot)

/-- LOOP: opens a level over the next `body + 1` bundles, or skips them (R121, R123). -/
def runLoop (b : SSrc) (body : BitVec 6) (s0 s : State) : Run :=
  let count := b.val s0.me
  let n := s0.me.loops.length
  if n ≥ 6 ∨ (innermost s0.me).map (·.stop) = some s0.cur.pc then .error (.of .loopFault)
  else if count = 0 then
    let (a, s) := aheadOf s (body.toNat + 2)
    .ok { s with cur := { s.cur with skip := some a } }
  else
    let (a, s) := aheadOf s (body.toNat + 1)
    .ok (s.updMe (fun w =>
      { w with
        loops := w.loops ++ [⟨s0.cur.nextPc, a, count, true, heldStride w n 0, heldStride w n 1⟩]
        strides := tdel (tdel w.strides (2 * n)) (2 * n + 1) }))

/-- LSTR: replaces a registration of an active level, or holds it until the level opens (R124). -/
def runLstr (d : BitVec 7) (b : SSrc) (level : BitVec 3) (reg : Bool) (s0 s : State) : Run :=
  let r := (d, b.val s0.me)
  .ok (s.updMe (fun w =>
    if level.toNat < w.loops.length then
      { w with loops := (w.loops.modify level.toNat fun l =>
          if reg then { l with r1 := some r } else { l with r0 := some r }) }
    else { w with strides := tset w.strides (2 * level.toNat + (if reg then 1 else 0)) r }))

def runYield (s0 s : State) : Run := notInRegion s0 (.ok (switchPoint s))

/-- EXIT: the issuing entry leaves the frontier (R127). -/
def runExit (s0 s : State) : Run :=
  notInRegion s0 <|
    let s := s.updMe (fun w => { w with entries := w.entries.filter (fun e => e.mask != s0.cur.mask) })
    .ok { s with cur := { s.cur with exited := true } }

/-! ## The meanings -/

def execBru (g : Guard) (off : BitVec 26) (s : State) : Out := slotExec (.bru g off) (runBru off) s
def execBrv (p : Guard) (off : BitVec 26) (s : State) : Out := slotExec (.brv p off) (runBrv p off) s
def execBrd (g : Guard) (off : BitVec 26) (p : Guard) (pft ptk : BitVec 16) (s : State) : Out :=
  slotExec (.brd g off p pft ptk) (runBrd off p pft ptk) s
def execJmp (g : Guard) (off : BitVec 26) (s : State) : Out := slotExec (.jmp g off) (runJmp off) s
def execCall (g : Guard) (off : BitVec 26) (link : BitVec 7) (s : State) : Out :=
  slotExec (.call g off link) (runCall off link) s
def execRet (g : Guard) (a : BitVec 7) (s : State) : Out := slotExec (.ret g a) (runRet a) s
def execChk (off : BitVec 26) (v : BitVec 9) (s : State) : Out := slotExec (.chk off v) (runChk off v) s
def execLoop (g : Guard) (b : SSrc) (body : BitVec 6) (s : State) : Out :=
  slotExec (.loop g b body) (runLoop b body) s
def execLstr (g : Guard) (d : BitVec 7) (b : SSrc) (level : BitVec 3) (reg : Bool) (s : State) : Out :=
  slotExec (.lstr g d b level reg) (runLstr d b level reg) s
def execYield (g : Guard) (s : State) : Out := slotExec (.yield g) runYield s
def execExit (g : Guard) (s : State) : Out := slotExec (.exit g) runExit s

end Sys2Proof.Machine
end

