-- ==== Sys2Proof/Machine/Vector.lean ====
section
/-!
DEFINITION. The meanings of the vector instructions of VA, VB and VC: floating point, packed halves, integers and bits,
lane movement, noise and MODE (R129 to R146, R150 to R153).
-/
namespace Sys2Proof.Machine

/-- Queue a vector result: its destination, its slot's latch and its operand-cache copy, in the active lanes (R129). -/
def writeVec (s : State) (lat : Nat) (d : Spec) (kc : Bool) (ki : BitVec 3) (m : Mask) (v : VReg) : State :=
  pend s lat (.vec (match d with | .v n => some (target s n) | _ => none) m v s.cur.slot.latch
    (if kc then some ki else none))

/-- The flags of the active lanes of a list of lane results. -/
def activeFx (m : Mask) : Nat → List (Nat × Fx) → Fx
  | _, [] => 0
  | i, x :: r => (if m.getLsbD i then x.2 else 0) ||| activeFx m (i + 1) r

def wordsOfRes (l : List (Nat × Fx)) : List Word := l.map (fun x => BitVec.ofNat 32 x.1)

/-- ctl.fmode as it stands at issue (R83). -/
def fmodeOf (s : State) : FMode := FMode.ofWord s.me.fmode

/-! ## Shapes of lane-wise instructions -/

/-- One source, a word function. -/
def runV1 (imm : Byte → Word) (lat : Nat) (f : Word → Word) (o : V1) (s0 s : State) : Run :=
  let a := srcVal s0 imm o.a
  .ok (writeVec s lat o.d o.kc o.ki (activeMask s0 o.p) ⟨a.lanes.map f, a.poison⟩)

/-- Two sources, a word function. -/
def runV2 (imm : Byte → Word) (lat : Nat) (f : Word → Word → Word) (o : V2) (s0 s : State) : Run :=
  let a := srcVal s0 imm o.a
  let b := srcVal s0 imm o.b
  .ok (writeVec s lat o.d o.kc o.ki (activeMask s0 o.p) ⟨List.zipWith f a.lanes b.lanes, a.poison ||| b.poison⟩)

/-- Two sources and the destination, a word function (R130). -/
def runVAcc (imm : Byte → Word) (lat : Nat) (f : Word → Word → Word → Word) (o : VAcc) (s0 s : State) : Run :=
  let a := srcVal s0 imm o.a
  let b := srcVal s0 imm o.b
  let c := srcVal s0 imm (.v o.d)
  let r := List.zipWith (fun (f : Word → Word) z => f z) (List.zipWith f a.lanes b.lanes) c.lanes
  .ok (writeVec s lat (.v o.d) o.kc o.ki (activeMask s0 o.p) ⟨r, a.poison ||| b.poison ||| c.poison⟩)

/-- One source, a floating-point function with flags. -/
def runF1 (lat : Nat) (f : FMode → Nat → Nat × Fx) (o : V1) (s0 s : State) : Run :=
  let a := srcVal s0 immF32 o.a
  let m := activeMask s0 o.p
  let r := a.lanes.map (fun x => f (fmodeOf s0) x.toNat)
  .ok (raiseFx (writeVec s lat o.d o.kc o.ki m ⟨wordsOfRes r, a.poison⟩) (activeFx m 0 r))

/-- Two sources, a floating-point function with flags. -/
def runF2 (imm : Byte → Word) (lat : Nat) (f : FMode → Nat → Nat → Nat × Fx) (o : V2) (s0 s : State) : Run :=
  let a := srcVal s0 imm o.a
  let b := srcVal s0 imm o.b
  let m := activeMask s0 o.p
  let r := List.zipWith (fun x y => f (fmodeOf s0) x.toNat y.toNat) a.lanes b.lanes
  .ok (raiseFx (writeVec s lat o.d o.kc o.ki m ⟨wordsOfRes r, a.poison ||| b.poison⟩) (activeFx m 0 r))

/-- Two sources and an addend, a floating-point function with flags, into a destination. -/
def runF3 (imm : Byte → Word) (lat : Nat) (f : FMode → Nat → Nat → Nat → Nat × Fx) (p : Guard) (d a b c : Spec)
    (kc : Bool) (ki : BitVec 3) (s0 s : State) : Run :=
  let a := srcVal s0 imm a
  let b := srcVal s0 imm b
  let c := srcVal s0 imm c
  let m := activeMask s0 p
  let fs := List.zipWith (fun (x y : Word) (z : Word) => f (fmodeOf s0) x.toNat y.toNat z.toNat) a.lanes b.lanes
  let r := List.zipWith (fun (g : Word → Nat × Fx) z => g z) fs c.lanes
  .ok (raiseFx (writeVec s lat d kc ki m ⟨wordsOfRes r, a.poison ||| b.poison ||| c.poison⟩) (activeFx m 0 r))

/-- The lanes where a list of conditions holds. -/
def boolMask : Nat → List Bool → Mask
  | _, [] => 0
  | i, b :: r => (if b then (1#128 <<< i) else 0) ||| boolMask (i + 1) r

/-! ## Floating point (R134 to R138) -/

def runFadd (o : V2) : State → State → Run := runF2 immF32 4 (fAdd .f32) o
def runFsub (o : V2) : State → State → Run := runF2 immF32 4 (fSub .f32) o
def runFmul (o : V2) : State → State → Run := runF2 immF32 4 (fMul .f32) o
def runFfma (o : VAcc) : State → State → Run := runF3 immF32 4 (fFma .f32) o.p (.v o.d) o.a o.b (.v o.d) o.kc o.ki

/-- FFMAK: the addend comes from entry KI whatever KC says (R31, R134). -/
def runFfmak (o : V2) : State → State → Run := runF3 immF32 4 (fFma .f32) o.p o.d o.a o.b (.k o.ki) o.kc o.ki

def runFmin (o : V2) : State → State → Run := runF2 immF32 4 (fMinMax .f32 false) o
def runFmax (o : V2) : State → State → Run := runF2 immF32 4 (fMinMax .f32 true) o
def runFclass (o : V1) : State → State → Run := runV1 immF32 2 (fun x => fClass x.toNat) o

end Sys2Proof.Machine

namespace Sys2Proof

open Machine

/-- The rounding of FRND; dynamic SR reads as RNE (R137). -/
def FrndMode.rm (m : FrndMode) (f : FMode) : Rm :=
  match m with
  | .rne => .rne
  | .rz => .rz
  | .ru => .ru
  | .rd => .rd
  | .dyn => f.rm.arith

end Sys2Proof

namespace Sys2Proof.Machine

def runFrnd (o : V1) (m : FrndMode) : State → State → Run := runF1 4 (fun md x => fRnd md (m.rm md) x) o

/-- FCMP writes the active lanes of a predicate, which carries no poison (R131, R132, R138). -/
def runFcmp (o : VCmp) (c : FCond) (s0 s : State) : Run :=
  let a := srcVal s0 immF32 o.a
  let b := srcVal s0 immF32 o.b
  let m := activeMask s0 o.p
  let r := List.zipWith (fun x y => fCmp c (fmodeOf s0) x.toNat y.toNat) a.lanes b.lanes
  let fx := activeFx m 0 (r.map (fun x => (0, x.2)))
  .ok (raiseFx (pend s 2 (.pred o.pd m (boolMask 0 (r.map (·.1))))) fx)

/-! ## Packed halves (R139, R140) -/

/-- An operation on both halves of a lane, its flags merged. -/
def onHalves2 (f : Nat → Nat → Nat × Fx) (a b : Nat) : Nat × Fx :=
  let lo := f (a % 65536) (b % 65536)
  let hi := f (a / 65536) (b / 65536)
  (lo.1 + 65536 * hi.1, lo.2 ||| hi.2)

def onHalves3 (f : Nat → Nat → Nat → Nat × Fx) (a b c : Nat) : Nat × Fx :=
  let lo := f (a % 65536) (b % 65536) (c % 65536)
  let hi := f (a / 65536) (b / 65536) (c / 65536)
  (lo.1 + 65536 * hi.1, lo.2 ||| hi.2)

def runHadd2 (o : V2) (f : Half) : State → State → Run :=
  runF2 (immHalf f.fmt) 4 (fun md => onHalves2 (fAdd f.fmt md)) o
def runHmul2 (o : V2) (f : Half) : State → State → Run :=
  runF2 (immHalf f.fmt) 4 (fun md => onHalves2 (fMul f.fmt md)) o
def runHfma2 (o : VAcc) (f : Half) : State → State → Run :=
  runF3 (immHalf f.fmt) 4 (fun md => onHalves3 (fFma f.fmt md)) o.p (.v o.d) o.a o.b (.v o.d) o.kc o.ki
def runHdot2 (o : VAcc) (f : Half) : State → State → Run :=
  runF3 (immHalf f.fmt) 4 (fDot2 f.fmt) o.p (.v o.d) o.a o.b (.v o.d) o.kc o.ki

/-! ## Integers and bits (R141 to R146) -/

def runVadd (o : V2) : State → State → Run := runV2 immInt 2 (· + ·) o
def runVsub (o : V2) : State → State → Run := runV2 immInt 2 (· - ·) o
def runVmul (o : V2) : State → State → Run := runV2 immInt 2 (· * ·) o
def runVmulh (o : V2) (uns : Bool) : State → State → Run := runV2 immInt 2 (mulHigh uns) o
def runVmad (o : VAcc) : State → State → Run := runVAcc immInt 2 (fun a b c => a * b + c) o
def runVmin (o : V2) (uns : Bool) : State → State → Run := runV2 immInt 2 (minWord uns) o
def runVmax (o : V2) (uns : Bool) : State → State → Run := runV2 immInt 2 (maxWord uns) o

/-- VABS of the most negative number gives itself (R141). -/
def absWord (a : Word) : Word := if a.msb then -a else a

def runVabs (o : V1) : State → State → Run := runV1 immInt 2 absWord o
def runVmov (o : V1) : State → State → Run := runV1 immInt 2 id o
def runVand (o : V2) : State → State → Run := runV2 immInt 2 (· &&& ·) o
def runVor (o : V2) : State → State → Run := runV2 immInt 2 (· ||| ·) o
def runVxor (o : V2) : State → State → Run := runV2 immInt 2 (· ^^^ ·) o
def runVandn (o : V2) : State → State → Run := runV2 immInt 2 (fun a b => a &&& ~~~b) o
def runVshl (o : V2) : State → State → Run := runV2 immInt 2 shlWord o
def runVshr (o : V2) : State → State → Run := runV2 immInt 2 shrWord o
def runVshra (o : V2) : State → State → Run := runV2 immInt 2 shraWord o
def runVpopc (o : V1) : State → State → Run := runV1 immInt 2 popcWord o
def runVclz (o : V1) : State → State → Run := runV1 immInt 2 clzWord o

/-- The width in bits 9:5 of b, less one; an immediate of 0 to 127 gives a width of 1 (R143). -/
def fieldWidth (sp : Spec) (b : Word) : Nat :=
  match sp with
  | .imm i => if i.msb then (b.extractLsb' 5 5).toNat + 1 else 1
  | _ => (b.extractLsb' 5 5).toNat + 1

def runVbfx (o : V2) (uns : Bool) : State → State → Run :=
  runV2 immInt 2 (fun a b => bfxWord (fieldWidth o.b b) (!uns) a b) o
def runVbfi (o : VAcc) : State → State → Run :=
  runVAcc immInt 2 (fun a b c => bfiWord (fieldWidth o.b b) a b c) o

/-- VSEL: every lane of the entry's mask is written; the predicate selects (R144). The poison is that of the source
selected (R132). -/
def runVsel (o : V2) (s0 s : State) : Run :=
  let a := srcVal s0 immInt o.a
  let b := srcVal s0 immInt o.b
  let sel := predMask s0.me o.p
  .ok (writeVec s 2 o.d o.kc o.ki s0.cur.mask (VReg.merge sel b a))

/-- A byte of a word, extended. -/
def byteExt (uns : Bool) (a : Word) (k : Nat) : Int :=
  let b := a.extractLsb' (8 * k) 8
  if uns then b.toNat else b.toInt

def dot4Word (uns : Bool) (a b c : Word) : Word :=
  let p (k : Nat) : Int := byteExt uns a k * byteExt uns b k
  c + BitVec.ofInt 32 (p 0 + p 1 + p 2 + p 3)

def runVdot4 (o : VAcc) (uns : Bool) : State → State → Run := runVAcc immInt 4 (dot4Word uns) o

def runVcmp (o : VCmp) (c : Cond) (s0 s : State) : Run :=
  let a := srcVal s0 immInt o.a
  let b := srcVal s0 immInt o.b
  .ok (pend s 2 (.pred o.pd (activeMask s0 o.p) (boolMask 0 (List.zipWith c.test a.lanes b.lanes))))

/-! ## Packing and lane movement (R150, R151) -/

def runPack (o : V2) : State → State → Run :=
  runV2 immInt 3 (fun a b => b.extractLsb' 0 16 ++ a.extractLsb' 0 16) o

/-- A byte or half of a lane, extended (R150). -/
def unpkWord (x z : Bool) (n : BitVec 2) (a : Word) : Word :=
  if z then
    let h := a.extractLsb' (16 * (n.toNat % 2)) 16
    if x then h.signExtend 32 else h.setWidth 32
  else
    let b := a.extractLsb' (8 * n.toNat) 8
    if x then b.signExtend 32 else b.setWidth 32

def runUnpk (o : V1) (x z : Bool) (n : BitVec 2) : State → State → Run := runV1 immInt 3 (unpkWord x z n) o

/-- Move lanes: result lane l takes source lane `f l`, active or not, with its poison (R132, R151). -/
def moveLanes (a : VReg) (f : Nat → Nat) : VReg :=
  ⟨(List.range 128).map (fun l => a.lane (f l)), maskOf (fun l => a.poison.getLsbD (f l))⟩

def runPerm (o : V2) (s0 s : State) : Run :=
  let a := srcVal s0 immInt o.a
  let b := srcVal s0 immInt o.b
  .ok (writeVec s 4 o.d o.kc o.ki (activeMask s0 o.p)
    (moveLanes a (fun l => 16 * (l / 16) + (b.lane l).toNat % 16)))

/-- The source index within a strip (R151). -/
def vlaneIndex (pat : VlanePat) (k i : Nat) : Nat :=
  match pat with
  | .xor => i ^^^ k
  | .add => (i + k) % 16
  | .bcast => k
  | .rev => 15 - i

def runVlane (o : V1) (pat : VlanePat) (k : BitVec 4) (s0 s : State) : Run :=
  .ok (writeVec s 4 o.d o.kc o.ki (activeMask s0 o.p)
    (moveLanes (srcVal s0 immInt o.a) (fun l => 16 * (l / 16) + vlaneIndex pat k.toNat (l % 16))))

/-- The source strip of XSH (R151). -/
def xshStrip (x : Bool) (k st : Nat) : Nat := if x then st ^^^ k else (st + k) % 8

def runXsh (o : V1) (x : Bool) (k : BitVec 3) (s0 s : State) : Run :=
  .ok (writeVec s 8 o.d o.kc o.ki (activeMask s0 o.p)
    (moveLanes (srcVal s0 immInt o.a) (fun l => 16 * xshStrip x k.toNat (l / 16) + l % 16)))

/-! ## Noise and MODE (R152, R153) -/

/-- One draw in each active lane, ascending. -/
def drawLanes (m : Mask) : List Nat → Warp → List Word × Warp
  | [], w => ([], w)
  | l :: r, w =>
    if m.getLsbD l then
      let (d, w) := drawLane w l
      let (ds, w) := drawLanes m r w
      (d :: ds, w)
    else
      let (ds, w) := drawLanes m r w
      (0 :: ds, w)

def runVrand (o : V0) (s0 s : State) : Run :=
  let m := activeMask s0 o.p
  let (ds, w) := drawLanes m (List.range 128) s.me
  .ok (writeVec (s.updMe (fun _ => w)) 2 o.d o.kc o.ki m ⟨ds, 0⟩)

/-- MODE: a mode of 5 to 7 is an execution trap and leaves ctl.fmode unchanged (R82, R153). -/
def runMode (value mask : ImmOrS) (s0 s : State) : Run :=
  let m := mask.val s0.me &&& 0xF7#32
  let new := (s0.me.fmode &&& ~~~m) ||| (value.val s0.me &&& m)
  if (new.extractLsb' 0 3).toNat ≥ 5 then .error (.of .illegalOperand)
  else .ok (s.updMe (fun w => { w with fmode := new }))

/-! ## The meanings -/

def execFadd (o : V2) (s : State) : Out := slotExec (.fadd o) (runFadd o) s
def execFsub (o : V2) (s : State) : Out := slotExec (.fsub o) (runFsub o) s
def execFmul (o : V2) (s : State) : Out := slotExec (.fmul o) (runFmul o) s
def execFfma (o : VAcc) (s : State) : Out := slotExec (.ffma o) (runFfma o) s
def execFfmak (o : V2) (s : State) : Out := slotExec (.ffmak o) (runFfmak o) s
def execFmin (o : V2) (s : State) : Out := slotExec (.fmin o) (runFmin o) s
def execFmax (o : V2) (s : State) : Out := slotExec (.fmax o) (runFmax o) s
def execFclass (o : V1) (s : State) : Out := slotExec (.fclass o) (runFclass o) s
def execFrnd (o : V1) (m : FrndMode) (s : State) : Out := slotExec (.frnd o m) (runFrnd o m) s
def execFcmp (o : VCmp) (c : FCond) (s : State) : Out := slotExec (.fcmp o c) (runFcmp o c) s
def execHadd2 (o : V2) (f : Half) (s : State) : Out := slotExec (.hadd2 o f) (runHadd2 o f) s
def execHmul2 (o : V2) (f : Half) (s : State) : Out := slotExec (.hmul2 o f) (runHmul2 o f) s
def execHfma2 (o : VAcc) (f : Half) (s : State) : Out := slotExec (.hfma2 o f) (runHfma2 o f) s
def execHdot2 (o : VAcc) (f : Half) (s : State) : Out := slotExec (.hdot2 o f) (runHdot2 o f) s
def execVadd (o : V2) (s : State) : Out := slotExec (.vadd o) (runVadd o) s
def execVsub (o : V2) (s : State) : Out := slotExec (.vsub o) (runVsub o) s
def execVmul (o : V2) (s : State) : Out := slotExec (.vmul o) (runVmul o) s
def execVmulh (o : V2) (uns : Bool) (s : State) : Out := slotExec (.vmulh o uns) (runVmulh o uns) s
def execVmad (o : VAcc) (s : State) : Out := slotExec (.vmad o) (runVmad o) s
def execVmin (o : V2) (uns : Bool) (s : State) : Out := slotExec (.vmin o uns) (runVmin o uns) s
def execVmax (o : V2) (uns : Bool) (s : State) : Out := slotExec (.vmax o uns) (runVmax o uns) s
def execVabs (o : V1) (s : State) : Out := slotExec (.vabs o) (runVabs o) s
def execVmov (o : V1) (s : State) : Out := slotExec (.vmov o) (runVmov o) s
def execVand (o : V2) (s : State) : Out := slotExec (.vand o) (runVand o) s
def execVor (o : V2) (s : State) : Out := slotExec (.vor o) (runVor o) s
def execVxor (o : V2) (s : State) : Out := slotExec (.vxor o) (runVxor o) s
def execVandn (o : V2) (s : State) : Out := slotExec (.vandn o) (runVandn o) s
def execVshl (o : V2) (s : State) : Out := slotExec (.vshl o) (runVshl o) s
def execVshr (o : V2) (s : State) : Out := slotExec (.vshr o) (runVshr o) s
def execVshra (o : V2) (s : State) : Out := slotExec (.vshra o) (runVshra o) s
def execVpopc (o : V1) (s : State) : Out := slotExec (.vpopc o) (runVpopc o) s
def execVclz (o : V1) (s : State) : Out := slotExec (.vclz o) (runVclz o) s
def execVbfx (o : V2) (uns : Bool) (s : State) : Out := slotExec (.vbfx o uns) (runVbfx o uns) s
def execVbfi (o : VAcc) (s : State) : Out := slotExec (.vbfi o) (runVbfi o) s
def execVsel (o : V2) (s : State) : Out := slotExec (.vsel o) (runVsel o) s
def execVdot4 (o : VAcc) (uns : Bool) (s : State) : Out := slotExec (.vdot4 o uns) (runVdot4 o uns) s
def execVcmp (o : VCmp) (c : Cond) (s : State) : Out := slotExec (.vcmp o c) (runVcmp o c) s
def execPack (o : V2) (s : State) : Out := slotExec (.pack o) (runPack o) s
def execUnpk (o : V1) (x z : Bool) (n : BitVec 2) (s : State) : Out := slotExec (.unpk o x z n) (runUnpk o x z n) s
def execPerm (o : V2) (s : State) : Out := slotExec (.perm o) (runPerm o) s
def execVlane (o : V1) (pat : VlanePat) (k : BitVec 4) (s : State) : Out :=
  slotExec (.vlane o pat k) (runVlane o pat k) s
def execXsh (o : V1) (x : Bool) (k : BitVec 3) (s : State) : Out := slotExec (.xsh o x k) (runXsh o x k) s
def execVrand (o : V0) (s : State) : Out := slotExec (.vrand o) (runVrand o) s
def execMode (p : Guard) (value mask : ImmOrS) (s : State) : Out :=
  slotExec (.mode p value mask) (runMode value mask) s

end Sys2Proof.Machine
end

