-- ==== Sys2Proof/Machine/Convert.lean ====
section
/-!
DEFINITION. The meanings of the conversions CVT, CVTMX and CVTXM (R147 to R149).
-/
namespace Sys2Proof

open Machine

/-- The float format of a conversion format, if it is one. -/
def CvtFmt.fmt : CvtFmt → Option Fmt
  | .f32 => some .f32
  | .h16 => some .h16
  | .bf16 => some .bf16
  | .e4m3 => some .e4m3
  | .e5m2 => some .e5m2
  | _ => none

/-- Whether an integer format is signed. -/
def CvtFmt.signed : CvtFmt → Bool
  | .i8 | .i16 | .i32 => true
  | _ => false

/-- The rounding of a conversion; 7 reads ctl.fmode.RM (R147). -/
def Rmo.rm (r : Rmo) (md : FMode) : Rm :=
  match r with
  | .rne => .rne
  | .rz => .rz
  | .ru => .ru
  | .rd => .rd
  | .sr => .sr
  | .dyn => md.rm

/-- The element format of an MX block (R148). -/
def MxFmt.fmt : MxFmt → Fmt
  | .e4m3 => .e4m3
  | .e5m2 => .e5m2
  | .e2m1 => .e2m1

/-- The exponent of the largest binade of an element format (R148). -/
def MxFmt.emax : MxFmt → Int
  | .e4m3 => 8
  | .e5m2 => 15
  | .e2m1 => 2

end Sys2Proof

namespace Sys2Proof.Machine

/-- A conversion of one element that may need a draw: whether it does, and its result given the draw (R88). -/
structure Conv where
  draws : Bool
  val : Word → Nat × Fx

/-- Carry out a lane's conversions in the active lanes, drawing where stochastic rounding needs it (R90). -/
def convLanes (m : Mask) (sr : Bool) : Nat → List Conv → Warp → List (Nat × Fx) × Warp
  | _, [], w => ([], w)
  | i, c :: r, w =>
    if m.getLsbD i && sr && c.draws then
      let (d, w) := drawLane w i
      let (l, w) := convLanes m sr (i + 1) r w
      (c.val d :: l, w)
    else
      let (l, w) := convLanes m sr (i + 1) r w
      (c.val 0 :: l, w)

/-- The sub-element a conversion reads (R147). -/
def subElem (sf : CvtFmt) (sp : Nat) (a : Word) : Nat := a.toNat / 2 ^ (sf.width * sp) % 2 ^ sf.width

/-- A result in the low bits of the lane; signed 8-bit and 16-bit results have copies of the sign above them. -/
def intResult (v : Int) : Nat := (BitVec.ofInt 32 v).toNat

/-- Whether rounding an element into a float format needs a draw under SR. -/
def floatDraws (f : Fmt) (x : FVal) : Bool :=
  match x with
  | .num _ m e => !holds f m e
  | _ => false

def intDraws (x : FVal) : Bool :=
  match x with
  | .num _ m e => (splitAt m e 0).2.1 != 0
  | _ => false

/-- The conversion of one element between two formats (R147). -/
def cvtElem (sf df : CvtFmt) (md : FMode) (rm : Rm) (x : Nat) : Conv :=
  match sf.fmt, df.fmt with
  | some f, some g =>
    let v := decodeF f (finCode f md.fzi x)
    ⟨floatDraws g v, fun d => toFloat g (!widens f g) md rm v d⟩
  | some f, none =>
    let v := decodeF f (finCode f md.fzi x)
    ⟨intDraws v, fun d => let r := toInt df.width df.signed rm v d; (intResult r.1, r.2)⟩
  | none, some g =>
    let n : Int := if sf.signed then (BitVec.ofNat 32 x).toInt else x
    let v := FVal.num (decide (n < 0)) n.natAbs 0
    ⟨floatDraws g v, fun d => toFloat g true md rm v d⟩
  | none, none =>
    let n : Int := if sf.signed then (BitVec.ofNat 32 x).toInt else x
    let (lo, hi) := intRange df.width df.signed
    ⟨false, fun _ => if n < lo then (intResult lo, Fx.nv) else if n > hi then (intResult hi, Fx.nv)
      else (intResult n, 0)⟩

/-- A signed sub-element widened to 32 bits, so that its value is that of a 32-bit integer. -/
def widenSub (sf : CvtFmt) (x : Nat) : Nat :=
  if sf.signed && x / 2 ^ (sf.width - 1) % 2 == 1 then x + (2 ^ 32 - 2 ^ sf.width) else x

/-- The 8-bit immediate read according to the source format (R147). -/
def cvtImm (sf : CvtFmt) (b : Byte) : Word :=
  match sf with
  | .f32 => immF32 b
  | .h16 => immHalf .h16 b
  | .bf16 => immHalf .bf16 b
  | .e4m3 | .e5m2 => BitVec.ofNat 32 (b.toNat * 0x01010101)
  | _ => immInt b

def runCvt (o : V1) (sf df : CvtFmt) (rmo : Rmo) (sp : BitVec 3) (s0 s : State) : Run :=
  let a := srcVal s0 (cvtImm sf) o.a
  let md := fmodeOf s0
  let rm := rmo.rm md
  let m := activeMask s0 o.p
  let (r, w) := convLanes m (rm == .sr) 0
    (a.lanes.map (fun x => cvtElem sf df md rm (widenSub sf (subElem sf sp.toNat x)))) s.me
  .ok (raiseFx (writeVec (s.updMe (fun _ => w)) 3 o.d o.kc o.ki m ⟨wordsOfRes r, a.poison⟩) (activeFx m 0 r))

/-! ## MX blocks -/

/-- The floor of log2 of a magnitude, for one that is not zero. -/
def expOf (x : FVal) : Option Int :=
  match x with
  | .num _ m e => if m = 0 then none else some ((bitLen m : Int) - 1 + e)
  | _ => none

/-- The scale of a block: 0xFF with a NaN or an infinity, 127 when every element is zero (R148). -/
def mxScale (emax : Int) (xs : List FVal) : Nat :=
  if xs.any (fun x => x.isNan || x == .inf false || x == .inf true) then 255
  else match xs.filterMap expOf with
    | [] => 127
    | e :: r => (max 0 (min 254 (r.foldl max e - emax + 127))).toNat

/-- One element of a block under its scale; a block of scale 0xFF holds zeros and raises NV (R148). -/
def mxElem (f : Fmt) (md : FMode) (rm : Rm) (sc : Nat) (x : FVal) : Conv :=
  if sc = 255 then ⟨false, fun _ => (0, Fx.nv)⟩
  else match x with
    | .num s m e =>
      let e' := e + 127 - sc
      ⟨!holds f m e', fun d => encodeNum f rm true md.fzo s m e' d⟩
    | _ => ⟨false, fun _ => (0, 0)⟩

/-- The lane of a block layout that holds element i of block j (R148). -/
def mxLaneOf (f : Fmt) (j i : Nat) : Nat := if f = .e2m1 then 4 * j + i / 8 else 8 * j + i / 4

/-- The bit at which element i stands in its lane (R148). -/
def mxBitOf (f : Fmt) (i : Nat) : Nat := if f = .e2m1 then 4 * (i % 8) else 8 * (i % 4)

/-- A lane of the layout of R148, from the 128 element codes and the four scales. -/
def mxLane (f : Fmt) (es : List Nat) (scs : List Nat) (l : Nat) : Nat :=
  if l = 32 then (List.range 4).foldl (fun a j => a + scs.getD j 0 * 2 ^ (8 * j)) 0
  else (List.range 128).foldl (fun a k =>
    if mxLaneOf f (k / 32) (k % 32) = l then a + es.getD k 0 * 2 ^ mxBitOf f (k % 32) else a) 0

/-- The poison of a lane of the layout: that of its block's source lanes, and of all lanes for the scales (R132). -/
def mxPoison (f : Fmt) (p : Mask) (l : Nat) : Bool :=
  if l = 32 then p != 0
  else match (List.range 4).find? (fun j => mxLaneOf f j 0 ≤ l ∧ l ≤ mxLaneOf f j 31) with
    | some j => p.extractLsb' (32 * j) 32 != 0
    | none => false

def runCvtmx (o : V1) (ef : MxFmt) (rmo : Rmo) (s0 s : State) : Run :=
  let a := srcVal s0 immF32 o.a
  let md := fmodeOf s0
  let rm := rmo.rm md
  let m := activeMask s0 o.p
  let xs := (List.range 128).map (fun l =>
    if m.getLsbD l then decodeF .f32 (finCode .f32 md.fzi (a.lane l).toNat) else .num false 0 0)
  let scs := (List.range 4).map (fun j => mxScale ef.emax ((xs.drop (32 * j)).take 32))
  let (r, w) := convLanes m (rm == .sr) 0
    ((List.range 128).map (fun l => mxElem ef.fmt md rm (scs.getD (l / 32) 0) (xs.getD l (.num false 0 0)))) s.me
  let es := r.map (·.1)
  let v : VReg := ⟨(List.range 128).map (fun l => BitVec.ofNat 32 (mxLane ef.fmt es scs l)),
    maskOf (mxPoison ef.fmt a.poison)⟩
  .ok (raiseFx (writeVec (s.updMe (fun _ => w)) 8 o.d o.kc o.ki m v) (mergeFx (r.map (·.2))))

/-- Unpack an element of a block laid out by R148 and scale it (R149). -/
def mxUnpack (f : Fmt) (md : FMode) (rm : Rm) (a : VReg) (l : Nat) : Conv :=
  let j := l / 32
  let i := l % 32
  let sc := ((a.lane 32).extractLsb' (8 * j) 8).toNat
  let c := (a.lane (mxLaneOf f j i)).toNat / 2 ^ mxBitOf f i % 2 ^ f.width
  match decodeF f (finCode f md.fzi c) with
  | .num s m e =>
    if sc = 255 then ⟨false, fun _ => (Fmt.nanCode .f32, 0)⟩
    else
      let v := FVal.num s m (e + sc - 127)
      ⟨floatDraws .f32 v, fun d => toFloat .f32 true md rm v d⟩
  | .inf s => if sc = 255 then ⟨false, fun _ => (Fmt.nanCode .f32, 0)⟩
    else ⟨false, fun d => toFloat .f32 true md rm (.inf s) d⟩
  | v => ⟨false, fun d => toFloat .f32 true md rm v d⟩

/-- What an immediate supplies here is free. DESIGN CHOICE, log entry 97. -/
def runCvtxm (o : V1) (ef : MxFmt) (rmo : Rmo) (s0 s : State) : Run :=
  let a := srcVal s0 (Config.mxImm ef.code.toNat) o.a
  let md := fmodeOf s0
  let rm := rmo.rm md
  let m := activeMask s0 o.p
  let (r, w) := convLanes m (rm == .sr) 0 ((List.range 128).map (mxUnpack ef.fmt md rm a)) s.me
  let p := maskOf (fun l => a.poison.getLsbD (mxLaneOf ef.fmt (l / 32) (l % 32)) || a.poison.getLsbD 32)
  .ok (raiseFx (writeVec (s.updMe (fun _ => w)) 8 o.d o.kc o.ki m ⟨wordsOfRes r, p⟩) (activeFx m 0 r))

/-! ## The meanings -/

def execCvt (o : V1) (sf df : CvtFmt) (rmo : Rmo) (sp : BitVec 3) (s : State) : Out :=
  slotExec (.cvt o sf df rmo sp) (runCvt o sf df rmo sp) s
def execCvtmx (o : V1) (ef : MxFmt) (rmo : Rmo) (s : State) : Out :=
  slotExec (.cvtmx o ef rmo) (runCvtmx o ef rmo) s
def execCvtxm (o : V1) (ef : MxFmt) (rmo : Rmo) (s : State) : Out :=
  slotExec (.cvtxm o ef rmo) (runCvtxm o ef rmo) s

end Sys2Proof.Machine
end

