-- ==== Sys2Proof/Machine/Special.lean ====
section
/-!
DEFINITION. The special functions of XE (R95, R96, R154, R155). A result of R95 is the hardware's own fixed function
of the source bits and of FZI, FZO and NANP: a free value, kept where it meets the bound of R95 against a reference
worked out in fixed point.
-/
namespace Sys2Proof.Machine

/-- The special functions, in the order of R154. -/
inductive SF where
  | rcp | rsq | sqrt | exp2 | log2 | sin | cos | tanh
  deriving DecidableEq, Repr

def SF.num : SF → Nat
  | .rcp => 1
  | .rsq => 2
  | .sqrt => 3
  | .exp2 => 4
  | .log2 => 5
  | .sin => 6
  | .cos => 7
  | .tanh => 8

/-! ## References in fixed point -/

/-- Bits of fraction of the fixed-point references. -/
def fpBits : Nat := 256

/-- π with 576 bits of fraction. -/
def piFixed : Nat :=
  0x3243F6A8885A308D313198A2E03707344A4093822299F31D0082EFA98EC4E6C89452821E638D01377BE5466CF34E90C6CC0AC29B7C97C50DD3F84D5B5B54709179216D5D98979FB1B

/-- The natural logarithm of 2 with 512 bits of fraction. -/
def ln2Fixed : Nat :=
  0xB17217F7D1CF79ABC9E3B39803F2F6AF40F343267298B62D8A0D175B8BAAFA2BE7B876206DEBAC98559552FB4AFA1B10ED2EAE35C138214427573B291169B825

/-- The greatest number whose square is at most `n`, found bit by bit. -/
def isqrtFrom (n : Nat) : Nat → Nat → Nat
  | 0, r => r
  | k + 1, r => if (r + 2 ^ k) * (r + 2 ^ k) ≤ n then isqrtFrom n k (r + 2 ^ k) else isqrtFrom n k r

def isqrt (n : Nat) : Nat := isqrtFrom n (bitLen n / 2 + 1) 0

/-- `n * 2^e` in units of `2^-fpBits`. -/
def toFixed (n : Int) (e : Int) : Int :=
  if 0 ≤ e + fpBits then n * 2 ^ (e + fpBits).toNat else n / 2 ^ (-(e + fpBits)).toNat

def fixMul (a b : Int) : Int := a * b / 2 ^ fpBits

/-- The sum t + t·x/k + t·x²/(k(k+1)) + …: the series of the exponential from its k-th term. -/
def expSeries (x : Int) : Nat → Nat → Int → Int
  | 0, _, _ => 0
  | n + 1, k, t => t + expSeries x n (k + 1) (fixMul t x / k)

/-- The series of sine or cosine in −x², from the term t. -/
def trigSeries (x2 : Int) : Nat → Nat → Int → Int
  | 0, _, _ => 0
  | n + 1, k, t => t + trigSeries x2 n (k + 2) (-(fixMul t x2) / (k * (k + 1)))

/-- The series z + z³/3 + z⁵/5 + …. -/
def atanhSeries (z2 : Int) : Nat → Nat → Int → Int
  | 0, _, _ => 0
  | n + 1, k, t => t / k + atanhSeries z2 n (k + 2) (fixMul t z2)

/-- e^x for 0 ≤ x < 1. -/
def expFixed (x : Int) : Int := expSeries x 70 1 (2 ^ fpBits)

def ln2Ref : Int := ln2Fixed / 2 ^ (512 - fpBits)

/-- 2^x as a number, for x in fixed point. -/
def exp2Ref (x : Int) : Exact :=
  let i := x / 2 ^ fpBits
  let f := x % 2 ^ fpBits
  ⟨expFixed (fixMul f ln2Ref), i - fpBits⟩

/-- log2 of m·2^e, m > 0. -/
def log2Ref (m : Nat) (e : Int) : Exact :=
  let len : Int := bitLen m
  -- a mantissa in 0.75 to 1.5 keeps the logarithm of a number near 1 exact
  let big := decide (3 * 2 ^ bitLen m ≤ 4 * m)
  let k : Int := if big then len else len - 1
  let y := toFixed m (-k)
  let z := (y - 2 ^ fpBits) * 2 ^ fpBits / (y + 2 ^ fpBits)
  let ln := 2 * atanhSeries (fixMul z z) 90 1 z
  ⟨(e + k) * 2 ^ fpBits + ln * 2 ^ fpBits / ln2Ref, -fpBits⟩

/-- The quarter turn of an angle and the rest, from −π/4 to π/4. -/
def reduceAngle (n : Int) (e : Int) : Int × Int :=
  let h : Int := piFixed
  let x := n * 2 ^ (e + 577).toNat
  let q := (x + h / 2) / h
  let r := (x - q * h) / 2 ^ (577 - fpBits)
  (q % 4, r)

def sinFixed (r : Int) : Int := trigSeries (fixMul r r) 40 2 r

def cosFixed (r : Int) : Int := trigSeries (fixMul r r) 40 1 (2 ^ fpBits)

/-- Sine, or cosine as the sine a quarter turn on. -/
def sinRef (quarter : Int) (n e : Int) : Exact :=
  let (q, r) := reduceAngle n e
  let v := match ((q + quarter) % 4).toNat with
    | 0 => sinFixed r
    | 1 => cosFixed r
    | 2 => -sinFixed r
    | _ => -cosFixed r
  ⟨v, -fpBits⟩

/-- The hyperbolic tangent; from 64 on it is 1 to the last bit of the reference. -/
def tanhRef (s : Bool) (m : Nat) (e : Int) : Exact :=
  let x := toFixed m e
  let t : Int :=
    if x ≥ 64 * 2 ^ fpBits then 2 ^ fpBits
    else if x < 2 ^ (fpBits - 30) then x - fixMul (fixMul x x) x / 3
    else
      let p := exp2Ref (2 * x * 2 ^ fpBits / ln2Ref)
      let u := toFixed p.n p.e
      (u - 2 ^ fpBits) * 2 ^ fpBits / (u + 2 ^ fpBits)
  ⟨if s then -t else t, -fpBits⟩

/-- The reference of a function at a finite source that is not zero. -/
def SF.ref (f : SF) (s : Bool) (m : Nat) (e : Int) : Exact :=
  let n : Int := if s then -(m : Int) else m
  match f with
  | .rcp =>
    let q : Nat := 2 ^ 160 / m
    ⟨if s then -(q : Int) else (q : Int), -160 - e⟩
  | .rsq =>
    let (m', e') := if e % 2 = 0 then (m, e) else (2 * m, e - 1)
    ⟨isqrt (2 ^ 320 / m'), -160 - e' / 2⟩
  | .sqrt =>
    let (m', e') := if e % 2 = 0 then (m, e) else (2 * m, e - 1)
    ⟨isqrt (m' * 2 ^ 200), e' / 2 - 100⟩
  | .exp2 => exp2Ref (toFixed n e)
  | .log2 => log2Ref m e
  | .sin => sinRef 0 n e
  | .cos => sinRef 1 n e
  | .tanh => tanhRef s m e

/-! ## The bound of R95 -/

/-- Whether |x| ≤ |y|·2^k. -/
def absLe (x y : Exact) (k : Int) : Bool :=
  let d := Exact.add ⟨x.n.natAbs, x.e⟩ ⟨-(y.n.natAbs : Int), y.e + k⟩
  decide (d.n ≤ 0)

/-- The number a code stands for, an infinity standing for the power of two above the largest finite number. -/
def codeNum (c : Nat) : Option Exact :=
  match decodeF .f32 c with
  | .num s m e => some ⟨if s then -(m : Int) else m, e⟩
  | .inf s => some ⟨if s then -1 else 1, 128⟩
  | .nan .. => none

/-- Whether a code meets the bound of R95 for a reference. -/
def SF.within (f : SF) (appr : Bool) (s : Bool) (m : Nat) (e : Int) (r : Exact) (c : Nat) : Bool :=
  match codeNum c with
  | none => false
  | some v =>
    let d := Exact.add v ⟨-r.n, r.e⟩
    let x : Exact := ⟨if s then -(m : Int) else m, e⟩
    if !appr then absLe d ⟨1, ulpExp .f32 r.n.natAbs r.e⟩ 0
    else match f with
      | .rcp | .rsq | .sqrt => absLe d r (-11)
      | .exp2 => absLe d r (-10)
      | .log2 =>
        if absLe ⟨1, -1⟩ x 0 && absLe x ⟨1, 1⟩ 0 then absLe d ⟨1, -20⟩ 0 else absLe d r (-10)
      | .sin | .cos => if absLe x ⟨1, 15⟩ 0 then absLe d ⟨1, -12⟩ 0 else absLe v ⟨1, 0⟩ 0
      | .tanh => absLe d ⟨1, -12⟩ 0

/-- Whether a code is the exact mathematical value, which no infinity is (R154). -/
def SF.isExact (f : SF) (s : Bool) (m : Nat) (e : Int) (c : Nat) : Bool :=
  match codeNum c, decide (c % 2 ^ 31 = Fmt.infCode .f32) with
  | none, _ | _, true => false
  | some v, false =>
    let eqNum (a b : Exact) : Bool := (Exact.add a ⟨-b.n, b.e⟩).n == 0
    let x : Exact := ⟨if s then -(m : Int) else m, e⟩
    match f with
    | .rcp => eqNum ⟨v.n * x.n, v.e + x.e⟩ ⟨1, 0⟩
    | .rsq => eqNum ⟨v.n * v.n * x.n, 2 * v.e + x.e⟩ ⟨1, 0⟩
    | .sqrt => eqNum ⟨v.n * v.n, 2 * v.e⟩ x
    | .exp2 => (splitAt m e 0).2.1 == 0 &&
        eqNum v ⟨1, if s then -((splitAt m e 0).1 : Int) else (splitAt m e 0).1⟩
    | .log2 => m == 2 ^ (bitLen m - 1) && eqNum v ⟨(bitLen m : Int) - 1 + e, 0⟩
    | .sin | .cos | .tanh => false

/-- A result by R95 with its flags (R154). -/
def SF.byBound (f : SF) (appr : Bool) (md : FMode) (c : Nat) (s : Bool) (m : Nat) (e : Int) : Nat × Fx :=
  let r := f.ref s m e
  let near := (encodeNum .f32 .rne false false (decide (r.n < 0)) r.n.natAbs r.e 0).1
  let cand := (Config.specialFn (f.num + (if appr then 16 else 0)) (BitVec.ofNat 32 c)
    ((if md.nanp then 4 else 0) + (if md.fzo then 2 else 0) + (if md.fzi then 1 else 0))).toNat
  let v := if f.within appr s m e r cand then cand else near
  let ix := !f.isExact s m e v
  let tiny := decide (v % 2 ^ 31 < 2 ^ 23)
  let ov := v % 2 ^ 31 == 0x7F800000
  (v, (if ov then Fx.of else 0) ||| (if tiny && ix then Fx.uf else 0) ||| (if ix && !appr then Fx.nx else 0))

/-- The exact square root, rounded under RM (R95): two more bits and a sticky bit carry what lies below. -/
def sqrtExact (md : FMode) (m : Nat) (e : Int) : Nat × Fx :=
  let (m', e') := if e % 2 = 0 then (m, e) else (2 * m, e - 1)
  let n := m' * 2 ^ 60
  let q := isqrt n
  encodeNum .f32 md.rm.arith false false false (2 * q + (if q * q = n then 0 else 1)) (e' / 2 - 31) 0

/-- |x| against 9.1, above which TANH gives ±1 (R155). -/
def tanhBig (m : Nat) (e : Int) : Bool := absLe ⟨91, 0⟩ ⟨10 * (m : Int), e⟩ 0

/-- The value of a function at a finite source that is not zero (R95, R155). -/
def SF.finite (f : SF) (appr : Bool) (md : FMode) (c : Nat) (s : Bool) (m : Nat) (e : Int) : Nat × Fx :=
  let one := 0x3F800000
  match f with
  | .rcp => if c = one then (one, 0) else f.byBound appr md c s m e
  | .rsq => if s then (Fmt.nanCode .f32, Fx.nv) else if c = one then (one, 0) else f.byBound appr md c s m e
  | .sqrt =>
    if s then (Fmt.nanCode .f32, Fx.nv)
    else if c = one then (one, 0)
    else if appr then f.byBound appr md c s m e
    else sqrtExact md m e
  | .exp2 =>
    if c = one then (0x40000000, 0)
    else if !s && !absLe ⟨m, e⟩ ⟨128, 0⟩ 0 then (Fmt.infCode .f32, Fx.of ||| Fx.nx)
    else if s && !absLe ⟨m, e⟩ ⟨150, 0⟩ 0 then (0, Fx.uf ||| Fx.nx)
    else f.byBound appr md c s m e
  | .log2 => if s then (Fmt.nanCode .f32, Fx.nv) else if c = one then (0, 0) else f.byBound appr md c s m e
  | .sin | .cos => f.byBound appr md c s m e
  | .tanh =>
    if !appr && tanhBig m e then (signBit .f32 s + one, Fx.nx) else f.byBound appr md c s m e

/-- The table of R155 for zeros. -/
def SF.zero (f : SF) (s : Bool) : Nat × Fx :=
  match f with
  | .rcp | .rsq => (signBit .f32 s + Fmt.infCode .f32, Fx.dz)
  | .sqrt | .sin | .tanh => (signBit .f32 s, 0)
  | .exp2 | .cos => (0x3F800000, 0)
  | .log2 => (signBit .f32 true + Fmt.infCode .f32, Fx.dz)

/-- The table of R155 for infinities. -/
def SF.infinite (f : SF) (s : Bool) : Nat × Fx :=
  match f, s with
  | .rcp, _ => (signBit .f32 s, 0)
  | .rsq, false => (0, 0)
  | .sqrt, false | .log2, false => (Fmt.infCode .f32, 0)
  | .exp2, _ => (if s then 0 else Fmt.infCode .f32, 0)
  | .tanh, _ => (signBit .f32 s + 0x3F800000, 0)
  | _, _ => (Fmt.nanCode .f32, Fx.nv)

/-- A special function of one lane (R154, R155). The flush of FZO raises UF and NX (R85), in the .a forms
too, where the pseudocode of R154 applies FZO and its prose says that NX is never raised: the pseudocode governs (R8). DEDUCED, log
entry 98. -/
def SF.apply (f : SF) (appr : Bool) (md : FMode) (c : Nat) : Nat × Fx :=
  let c := finCode .f32 md.fzi c
  match decodeF .f32 c with
  | .nan s m g => (nanOf .f32 md.nanp [.nan s m g], if g then Fx.nv else 0)
  | .inf s => f.infinite s
  | .num s m e =>
    if m = 0 then f.zero s
    else
      let r := f.finite appr md c s m e
      let z := flushOut .f32 md.fzo r.1
      (z.1, r.2 ||| z.2)

/-- The exact form lands after 12 cycles and the approximate form after 6 (R154). -/
def runSpecial (f : SF) (appr : Bool) (o : V1) : State → State → Run :=
  runF1 (if appr then 6 else 12) (fun md x => f.apply appr md x) o

def runRcp (o : V1) : State → State → Run := runSpecial .rcp false o
def runRsq (o : V1) : State → State → Run := runSpecial .rsq false o
def runSqrt (o : V1) : State → State → Run := runSpecial .sqrt false o
def runExp2 (o : V1) : State → State → Run := runSpecial .exp2 false o
def runLog2 (o : V1) : State → State → Run := runSpecial .log2 false o
def runSin (o : V1) : State → State → Run := runSpecial .sin false o
def runCos (o : V1) : State → State → Run := runSpecial .cos false o
def runTanh (o : V1) : State → State → Run := runSpecial .tanh false o
def runRcpA (o : V1) : State → State → Run := runSpecial .rcp true o
def runRsqA (o : V1) : State → State → Run := runSpecial .rsq true o
def runSqrtA (o : V1) : State → State → Run := runSpecial .sqrt true o
def runExp2A (o : V1) : State → State → Run := runSpecial .exp2 true o
def runLog2A (o : V1) : State → State → Run := runSpecial .log2 true o
def runSinA (o : V1) : State → State → Run := runSpecial .sin true o
def runCosA (o : V1) : State → State → Run := runSpecial .cos true o
def runTanhA (o : V1) : State → State → Run := runSpecial .tanh true o

/-! ## The meanings -/

def execRcp (o : V1) (s : State) : Out := slotExec (.rcp o) (runRcp o) s
def execRsq (o : V1) (s : State) : Out := slotExec (.rsq o) (runRsq o) s
def execSqrt (o : V1) (s : State) : Out := slotExec (.sqrt o) (runSqrt o) s
def execExp2 (o : V1) (s : State) : Out := slotExec (.exp2 o) (runExp2 o) s
def execLog2 (o : V1) (s : State) : Out := slotExec (.log2 o) (runLog2 o) s
def execSin (o : V1) (s : State) : Out := slotExec (.sin o) (runSin o) s
def execCos (o : V1) (s : State) : Out := slotExec (.cos o) (runCos o) s
def execTanh (o : V1) (s : State) : Out := slotExec (.tanh o) (runTanh o) s
def execRcpA (o : V1) (s : State) : Out := slotExec (.rcpA o) (runRcpA o) s
def execRsqA (o : V1) (s : State) : Out := slotExec (.rsqA o) (runRsqA o) s
def execSqrtA (o : V1) (s : State) : Out := slotExec (.sqrtA o) (runSqrtA o) s
def execExp2A (o : V1) (s : State) : Out := slotExec (.exp2A o) (runExp2A o) s
def execLog2A (o : V1) (s : State) : Out := slotExec (.log2A o) (runLog2A o) s
def execSinA (o : V1) (s : State) : Out := slotExec (.sinA o) (runSinA o) s
def execCosA (o : V1) (s : State) : Out := slotExec (.cosA o) (runCosA o) s
def execTanhA (o : V1) (s : State) : Out := slotExec (.tanhA o) (runTanhA o) s

end Sys2Proof.Machine
end

