-- ==== Sys2Proof/Machine/Reduce.lean ====
section
/-!
DEFINITION. The meanings of the reductions into the partial sums, RDRN and RCLR (R93, R156 to R159).
-/
namespace Sys2Proof.Machine

/-- The operations of the reduction tree. -/
inductive TreeOp where
  | add | min | max
  deriving DecidableEq, Repr

/-- The identity an inactive lane contributes (R93, R156). -/
def treeIdentity (op : TreeOp) (ty : RedTy) : Word :=
  match op, ty with
  | .add, .f32 => 0x80000000
  | .min, .f32 => 0x7F800000
  | .max, .f32 => 0xFF800000
  | .add, _ => 0
  | .min, .i32 => 0x7FFFFFFF
  | .min, .n32 => 0xFFFFFFFF
  | .max, .i32 => 0x80000000
  | .max, .n32 => 0

/-- The minimum or maximum of two FP32 codes in the tree: a NaN gives the canonical NaN (R93). -/
def treeMinMax (big : Bool) (x y : Word) : Word :=
  if (decodeF .f32 x.toNat).isNan || (decodeF .f32 y.toNat).isNan then BitVec.ofNat 32 (Fmt.nanCode .f32)
  else BitVec.ofNat 32 (fMinMax .f32 big .plain x.toNat y.toNat).1

/-- What an active lane brings into the tree: of a floating-point reduction a NaN comes as the canonical one, the only NaN
that the tree gives (R84, R86, R93). -/
def treeLeaf (ty : RedTy) (x : Word) : Word :=
  if ty = .f32 ∧ (decodeF .f32 x.toNat).isNan then BitVec.ofNat 32 (Fmt.nanCode .f32) else x

/-- One combination, the lower half as left operand (R93). -/
def treeCombine (op : TreeOp) (ty : RedTy) (x y : Word) : Word :=
  match op, ty with
  | .add, .f32 => BitVec.ofNat 32 (fAdd .f32 .plain x.toNat y.toNat).1
  | .min, .f32 => treeMinMax false x y
  | .max, .f32 => treeMinMax true x y
  | .add, _ => x + y
  | .min, t => minWord (t == .n32) x y
  | .max, t => maxWord (t == .n32) x y

/-- One level of the tree: neighbours combined. -/
def treeLevel (f : Word → Word → Word) : List Word → List Word
  | x :: y :: r => f x y :: treeLevel f r
  | l => l

/-- `k` levels of the tree (R93). -/
def treeLevels (f : Word → Word → Word) : Nat → List Word → List Word
  | 0, l => l
  | k + 1, l => treeLevels f k (treeLevel f l)

/-- A reduction over segments of 2^W lanes into a partial sum (R156). -/
def runRed (op : TreeOp) (o : VRed) (s0 s : State) : Run :=
  let a := srcVal s0 (if o.ty = .f32 then immF32 else immInt) o.a
  let m := activeMask s0 o.p
  let n := 2 ^ o.w.toNat
  let x := mergeLanes m 0 (List.replicate 128 (treeIdentity op o.ty)) (a.lanes.map (treeLeaf o.ty))
  let f := treeCombine op o.ty
  let t := treeLevels f o.w.toNat x
  let old := srcVal s0 immInt (.ps o.ps)
  let v := (List.range 128).map (fun l =>
    let r := t.getD (l / n) 0
    if o.acc then f (old.lane l) r else r)
  let pa := a.poison &&& m
  let seg (l : Nat) : Bool := pa.extractLsb' (l / n * n) n != 0
  let po := maskOf (fun l => seg l || (o.acc && old.poison.getLsbD l))
  .ok (pend s 5 (.vec none m ⟨v, po⟩ (some (8 + o.ps.toNat)) none))

def runRedAdd (o : VRed) : State → State → Run := runRed .add o
def runRedMin (o : VRed) : State → State → Run := runRed .min o
def runRedMax (o : VRed) : State → State → Run := runRed .max o

/-- RDRN: the segment results in the low lanes, zeros above (R157). -/
def runRdrn (p : Guard) (d : Spec) (ps : BitVec 2) (w : BitVec 3) (kc : Bool) (ki : BitVec 3) (s0 s : State) : Run :=
  let a := srcVal s0 immInt (.ps ps)
  let n := 2 ^ w.toNat
  .ok (writeVec s 2 d kc ki (activeMask s0 p)
    ⟨(List.range 128).map (fun l => if l < 128 / n then a.lane (l * n) else 0),
      maskOf (fun l => decide (l < 128 / n) && a.poison.getLsbD (l * n))⟩)

end Sys2Proof.Machine

namespace Sys2Proof

/-- The fill of a code of RCLR (R158). -/
def FillCode.word : FillCode → Word
  | .zero => 0
  | .negzero => 0x80000000
  | .pinf => 0x7F800000
  | .ninf => 0xFF800000
  | .imax => 0x7FFFFFFF
  | .ones => 0xFFFFFFFF

end Sys2Proof

namespace Sys2Proof.Machine

def runRclr (p : Guard) (ps : BitVec 2) (c : FillCode) (s0 s : State) : Run :=
  .ok (pend s 5 (.vec none (activeMask s0 p) (.splat c.word) (some (8 + ps.toNat)) none))

/-! ## The meanings -/

def execRedAdd (o : VRed) (s : State) : Out := slotExec (.redAdd o) (runRedAdd o) s
def execRedMin (o : VRed) (s : State) : Out := slotExec (.redMin o) (runRedMin o) s
def execRedMax (o : VRed) (s : State) : Out := slotExec (.redMax o) (runRedMax o) s
def execRdrn (p : Guard) (d : Spec) (ps : BitVec 2) (w : BitVec 3) (kc : Bool) (ki : BitVec 3) (s : State) : Out :=
  slotExec (.rdrn p d ps w kc ki) (runRdrn p d ps w kc ki) s
def execRclr (p : Guard) (ps : BitVec 2) (c : FillCode) (s : State) : Out :=
  slotExec (.rclr p ps c) (runRclr p ps c) s

end Sys2Proof.Machine
end

