-- ==== Sys2Proof/Machine/Memory.lean ====
section
/-!
DEFINITION. The memory system behind the lanes: core caches and remote-data caches (R299, R309), the read-modify-writes
of R173 and R174, requests and the points at which they perform (R307, R308, R315), and their answers (R163).
-/
namespace Sys2Proof.Machine

/-! ## Lines and caches -/

/-- Bytes with those of a mask replaced. -/
def maskBytes (m : Mask) : Nat → List Byte → List Byte → List Byte
  | i, a :: r, b :: t => (if m.getLsbD i then b else a) :: maskBytes m (i + 1) r t
  | _, l, _ => l

/-- Write the bytes of a mask of a line at its home, and hit its watches; one write that covers the line (`whole`) clears its
poison (R443). -/
def homeMerge (s : State) (ln : Nat) (bs : List Byte) (m : Mask) (whole : Bool) : State :=
  let old := memBytes s.ms.mem (ln * 128) 128
  let s := { s with ms := { s.ms with
    mem := memWrite s.ms.mem (ln * 128) (maskBytes m 0 old bs)
    poisoned := if whole then s.ms.poisoned.filter (· != ln) else s.ms.poisoned } }
  hitWatches s ln

/-- The remote-data cache of a die. -/
def rdcOf (s : State) (die : Nat) : Table CLine := tget [] s.ms.rdc die

def updRdc (s : State) (die : Nat) (f : Table CLine → Table CLine) : State :=
  { s with ms := { s.ms with rdc := tset s.ms.rdc die (f (rdcOf s die)) } }

/-- A line that a full cache gives up: one of its own choice (R299, R309). -/
def victim (s : State) (l : List Nat) : State × Option Nat :=
  let (n, s) := s.draw
  (s, l[Config.freeNat n % l.length]?)

/-- Place a line in a remote-data cache, which holds 32 MiB (R18, R309). -/
def rdcPut (s : State) (die ln : Nat) (l : CLine) : State :=
  let t := rdcOf s die
  if (tget? t ln).isSome || decide (t.length < 262144) then updRdc s die (fun t => tset t ln l)
  else
    let (s, v) := victim s (t.map (fun (x : Nat × CLine) => x.1))
    updRdc s die (fun t => tset (match v with | some x => tdel t x | none => t) ln l)

/-- A line stands in its home L2, which holds 96 MiB (R18). -/
def l2Put (s : State) (ln : Nat) : State :=
  let mine := s.ms.l2.filter (fun x => homeDie (x * 128) == homeDie (ln * 128))
  if s.ms.l2.contains ln then s
  else if mine.length < 786432 then { s with ms := { s.ms with l2 := s.ms.l2 ++ [ln] } }
  else
    let (s, v) := victim s mine
    { s with ms := { s.ms with l2 := s.ms.l2.filter (fun x => v != some x) ++ [ln] } }

/-- A store written through updates a copy that is present (R309); one that covers the line clears its poison (R443). -/
def rdcUpdate (s : State) (die ln : Nat) (bs : List Byte) (m : Mask) (whole : Bool) : State :=
  match tget? (rdcOf s die) ln with
  | some l => updRdc s die (fun t => tset t ln { l with bytes := maskBytes m 0 l.bytes bs, poison := l.poison && !whole })
  | none => s

/-- A line takes the poison of a copy that is written back (R443). -/
def spoil (s : State) (ln : Nat) (bad : Bool) : State :=
  if bad && !s.ms.poisoned.contains ln then { s with ms := { s.ms with poisoned := s.ms.poisoned ++ [ln] } } else s

/-- Write a core's dirty copy of a line back to its home, a request that counts there (R438); with `drop` the copy leaves the cache
(R299). Stores that covered a poisoned line only between them leave its poison, which goes to the home with them (R443). -/
def writeBack (s : State) (c ln : Nat) (drop : Bool) : State :=
  match tget? (s.core c).cache ln with
  | none => s
  | some l =>
    let whole := l.dirty == BitVec.allOnes 128 && !l.poison
    let s := if l.dirty = 0 then s
      else rdcUpdate (spoil (homeMerge (countAccess s ln) ln l.bytes l.dirty whole) ln l.poison) (dieOf c) ln l.bytes l.dirty whole
    s.updCore c (fun k => { k with cache := if drop then tdel k.cache ln else tset k.cache ln { l with dirty := 0 } })

/-- The line as its home holds it. -/
def homeLine (s : State) (ln : Nat) : CLine :=
  ⟨memBytes s.ms.mem (ln * 128) 128, 0, s.ms.poisoned.contains ln⟩

/-- Whether a line is homed on another die than a core's. -/
def remoteLine (c ln : Nat) : Bool := homeDie (ln * 128) != some (dieOf c)

/-- The copy that a core's die holds of a line of another home (R309). -/
def dieCopy (s : State) (c ln : Nat) : Option CLine := if remoteLine c ln then tget? (rdcOf s (dieOf c)) ln else none

/-- What an acquire leaves of a core's copies: a clean line is dropped, and the clean bytes of the others are taken anew, from the
copy of the die where it has one, so that no later read of the core goes back behind them (R299, R316). A copy that is poisoned
stays so (R443). -/
def freshCopies (s : State) (c : Nat) (t : Table CLine) : Table CLine :=
  (t.filter (fun (x : Nat × CLine) => x.2.dirty != 0)).map (fun (x : Nat × CLine) =>
    let h := (dieCopy s c x.1).getD (homeLine s x.1)
    let l : CLine := x.2
    (x.1, { l with
      bytes := maskBytes l.dirty 0 h.bytes l.bytes
      poison := l.poison || (h.poison && l.dirty != BitVec.allOnes 128) }))

/-- An acquire drops the clean lines, and the clean bytes of the others, from the core cache at .qd or wider, and the die's
remote-data cache at .pk or wider (R168, R299, R309, R318). -/
def acquireCaches (s : State) (c : Nat) (sc : Scope) : State :=
  let s := if sc.num ≥ 4 then updRdc s (dieOf c) (fun _ => []) else s
  if sc.num ≥ 2 then s.updCore c (fun k => { k with cache := freshCopies s c k.cache }) else s

/-- The dirty lines of a core cache leave it at a release of scope .qd or wider (R299). -/
def releaseCaches (s : State) (c : Nat) (sc : Scope) : State :=
  if sc.num ≥ 2 then
    (((s.core c).cache.filter (fun x => x.2.dirty != 0)).map (·.1)).foldl (fun s ln => writeBack s c ln false) s
  else s

/-- Lines that the core cache holds (R299). -/
def cacheCap (k : Core) : Nat := (16 - k.carve) * 8192

/-- Place a line in a core cache; when the cache is full, a line of the cache's own choice leaves it (R299). -/
def cachePut (s : State) (c ln : Nat) (l : CLine) : State :=
  let k := s.core c
  let s := match tget? k.cache ln with
    | some _ => s
    | none =>
      if k.cache.length < cacheCap k then s
      else
        let (s, v) := victim s (k.cache.map (fun (x : Nat × CLine) => x.1))
        match v with
        | some x => writeBack s c x true
        | none => s
  s.updCore c (fun k => { k with cache := tset k.cache ln l })

/-! ## Values -/

end Sys2Proof.Machine

namespace Sys2Proof

/-- A loaded element, extended to 32 bits (R164). -/
def LdTy.extend (t : LdTy) (v : Nat) : Word :=
  match t with
  | .i8 => (BitVec.ofNat 8 v).signExtend 32
  | .n8 => (BitVec.ofNat 8 v).setWidth 32
  | .i16 => (BitVec.ofNat 16 v).signExtend 32
  | .n16 => (BitVec.ofNat 16 v).setWidth 32
  | .b32 => BitVec.ofNat 32 v

end Sys2Proof

namespace Sys2Proof.Machine

/-- Minimum or maximum of two numbers of 8w bits (R173). -/
def atomMinMax (big wide uns : Bool) (m x : DWord) : DWord :=
  let less (a b : DWord) : Bool :=
    if uns then a.ult b
    else if wide then a.slt b else (a.extractLsb' 0 32).slt (b.extractLsb' 0 32)
  if big then (if less m x then x else m) else if less x m then x else m

/-- FP32 addition as engines and atomics do it (R84). -/
def addF32 (m x : Word) : Word := BitVec.ofNat 32 (fAdd .f32 .plain m.toNat x.toNat).1

/-- BF16 addition of both halves (R173). -/
def addBf16 (m x : Word) : Word := BitVec.ofNat 32 (onHalves2 (fAdd .bf16 .plain) m.toNat x.toNat).1

end Sys2Proof.Machine

namespace Sys2Proof

open Machine

/-- The new value of a read-modify-write; CAS compares with `x` and stores `y` (R172, R173). -/
def AtomOp.apply (op : AtomOp) (m x y : DWord) : DWord :=
  match op with
  | .add _ => m + x
  | .min w u => atomMinMax false w u m x
  | .max w u => atomMinMax true w u m x
  | .and _ => m &&& x
  | .or _ => m ||| x
  | .xor _ => m ^^^ x
  | .exch _ => x
  | .cas _ => if m = x then y else m
  | .addF32 => (Machine.addF32 (m.extractLsb' 0 32) (x.extractLsb' 0 32)).setWidth 64
  | .addBf16 => (Machine.addBf16 (m.extractLsb' 0 32) (x.extractLsb' 0 32)).setWidth 64

/-- The combination of two elements of the reduction buffer (R174). -/
def RedOp.apply (op : RedOp) (e x : Word) : Word :=
  match op with
  | .addF32 => Machine.addF32 e x
  | .addN32 => e + x
  | .minF32 => treeMinMax false e x
  | .maxF32 => treeMinMax true e x
  | .addBf16 => Machine.addBf16 e x

def AtomOp.bytes (op : AtomOp) : Nat := if op.wide then 8 else 4

end Sys2Proof

namespace Sys2Proof.Machine

/-! ## Requests -/

/-- What an instruction asks of the memory system for its lanes. -/
structure Ask where
  rid : Option Nat
  kind : ReqKind
  path : Path
  lanes : List LaneReq
  chain : Nat
  orders : Bool
  acq : Option Scope
  rel : Option Scope
  sc : Bool
  deriving DecidableEq, Repr

/-- A request of the issuing warp that must come before later ones (R168, R169, R179). -/
def orderingIds (s : State) (c w : Nat) : List Nat :=
  (s.ms.reqs.filter (fun r => r.core == c && r.warp == w && r.orders)).map (·.id)

/-- Every request of a warp that has not been answered. -/
def openIds (s : State) (c w : Nat) : List Nat :=
  (s.ms.reqs.filter (fun r => r.core == c && r.warp == w)).map (·.id)

/-- Put a lane in front of the lines of those after it: into the request of its line, unless a lane that it has to perform
before, in a chain of R169 (2: any lane) or R173 (1: one of its home), stands in between. -/
def joinLine (chain : Nat) (x : LaneReq) : List (Nat × List LaneReq) → Option (List (Nat × List LaneReq))
  | [] => none
  | (ln, l) :: t =>
    if ln = lineOf x.pa then some ((ln, x :: l) :: t)
    else if chain = 2 ∨ (chain = 1 ∧ homeDie (ln * 128) = homeDie x.pa) then none
    else (joinLine chain x t).map (fun t => match t with
      | y :: t => y :: (ln, l) :: t
      | [] => [(ln, l)])

/-- The lines of a list of lanes in the order in which they first appear (R307). -/
def splitLines (chain : Nat) : List LaneReq → List (Nat × List LaneReq)
  | [] => []
  | x :: r =>
    let t := splitLines chain r
    (joinLine chain x t).getD ((lineOf x.pa, [x]) :: t)

/-- The delay before a request can enter: two cycles on the issuing die, a time of its own, later than that, elsewhere
(R307). -/
def entryDelay (s : State) (c ln : Nat) : Nat × State :=
  if remoteLine c ln then
    let (n, s) := s.draw
    (3 + Config.freeNat n, s)
  else (2, s)

/-- Add the requests of one ask, one for each line. -/
def addReqs (a : Ask) (deps : List Nat) (behind : Option (Nat × Nat)) : List (Nat × List LaneReq) → State → State
  | [], s => s
  | (ln, ls) :: r, s =>
    let (d, s) := entryDelay s s.cur.core ln
    let (id, s) := s.fresh
    let q : Req :=
      { id := id, core := s.cur.core, warp := s.cur.warp, rid := a.rid, kind := a.kind, path := a.path, line := ln,
        lanes := ls, deps := deps, chain := a.chain, orders := a.orders, acq := a.acq, rel := a.rel, sc := a.sc,
        scKey := none, behind := behind, stage := .waiting, due := s.gcc + d, acted := false
        route := (s.hd.control.route.getD ln 0xFF).toNat }
    addReqs a deps behind r { s with ms := { s.ms with reqs := s.ms.reqs ++ [q] } }

/-- The place of the issuing slot: what its warp issued before it stands in earlier bundles, or in earlier slots of this
one (R30, R317). -/
def here (s : State) : Option (Nat × Nat) := some (s.gcc, s.cur.slot.num)

/-- Issue the requests of one instruction: a release waits for every earlier access of the warp, and any access for the
ordering points before it (R168, R169, R179). -/
def ask (s : State) (a : Ask) : State :=
  let full := a.rel.isSome || a.sc
  addReqs a (if full then openIds s s.cur.core s.cur.warp else orderingIds s s.cur.core s.cur.warp)
    (if full then here s else none) (splitLines a.chain a.lanes) s

/-- An ordering point that accesses nothing: it performs when what it waits for has been answered, and the scratchpad
accesses it stands behind have performed. -/
def orderPoint (s : State) (c w : Nat) (kind : ReqKind) (deps : List Nat) (behind : Option (Nat × Nat)) (orders : Bool) :
    Nat × State :=
  let (id, s) := s.fresh
  let q : Req :=
    { id := id, core := c, warp := w, rid := none, kind := kind, path := .order, line := 0, lanes := [], deps := deps,
      chain := 0, orders := orders, acq := none, rel := none, sc := false, scKey := none, behind := behind,
      stage := .waiting, due := s.gcc, acted := false, route := 0xFF }
  (id, { s with ms := { s.ms with reqs := s.ms.reqs ++ [q] } })

/-- A release of a warp's accesses before a place, at a scope: an ordering point behind all of them (R185, R186, R252). -/
def releasePoint (s : State) (c w : Nat) (behind : Option (Nat × Nat)) (sc : Scope) : Nat × State :=
  orderPoint s c w (.release sc) (openIds s c w) behind false

/-- An acquire of a warp at a scope behind given points, and behind its scratchpad loads before a place: its later accesses wait for
it (R179, R180, R317). -/
def acquirePoint (s : State) (c w : Nat) (sc : Scope) (deps : List Nat) (behind : Option (Nat × Nat)) : State :=
  (orderPoint (acquireCaches s c sc) c w (.acquire sc) deps behind true).2

/-- An acquire that ends a wait, behind the releases it pairs with: the warp also issues nothing before those releases have
performed, so that its accesses at fixed cycles come after what they release (R185, R186, R318). -/
def syncPoint (s : State) (c w : Nat) (sc : Scope) (rels : List Nat) : State :=
  (acquirePoint s c w sc rels none).updWarp c w (fun x => { x with gate := x.gate ++ rels })

/-! ## Performing -/

/-- The values that the lanes of a load read from a line; a poisoned line gives 0 and poison (R162). -/
def loadLanes (l : CLine) (t : LdTy) (ls : List LaneReq) : List LaneReq :=
  ls.map (fun x =>
    if x.bad || l.poison then { x with val := 0, bad := true }
    else { x with val := (t.extend (field l.bytes (x.pa % 128) t.bytes)).setWidth 64 })

/-- The bytes and the mask that the lanes of a store write in a line, the highest lane of a byte last (R164). -/
def storeLanes (t : StTy) : List LaneReq → List Byte × Mask → List Byte × Mask
  | [], r => r
  | x :: ls, (bs, m) =>
    let o := x.pa % 128
    storeLanes t ls
      ((bs.take o ++ bytesOf t.bytes x.x.toNat ++ bs.drop (o + t.bytes)).take 128,
        m ||| ((BitVec.ofNat 128 (2 ^ t.bytes - 1)) <<< o))

/-- A record without context for a poisoned element that did not perform (R162, R392). -/
def poisonRecord (s : State) (c w : Nat) (src : Nat) (addr : DWord) : State :=
  postPlain s { plainRecord s .poisonedData 0 src 2 (s.warp c w).handle addr with core := c }

/-- One lane of an atomic at its home (R162, R173). -/
def atomLane (op : AtomOp) (c w : Nat) (s : State) (x : LaneReq) : State × LaneReq :=
  if s.ms.poisoned.contains (lineOf x.pa) then (poisonRecord s c w 0 x.addr, { x with val := 0, bad := true })
  else
    let m : DWord := BitVec.ofNat 64 (memRead s.ms.mem x.pa op.bytes)
    (homeWrite s x.pa (bytesOf op.bytes (op.apply m x.x x.y).toNat), { x with val := m })

/-- One element of the reduction buffer at its home (R176). -/
def redLane (op : RedOp) (c w : Nat) (s : State) (x : LaneReq) : State × LaneReq :=
  if s.ms.poisoned.contains (lineOf x.pa) then (poisonRecord s c w 0 x.addr, { x with val := 0, bad := true })
  else
    let m : Word := BitVec.ofNat 32 (memRead s.ms.mem x.pa 4)
    (homeWrite s x.pa (bytesOf 4 (op.apply m (x.x.setWidth 32)).toNat), { x with val := m.setWidth 64 })

/-- The lanes of a request in ascending order. -/
def eachLane (f : State → LaneReq → State × LaneReq) : List LaneReq → State → State × List LaneReq
  | [], s => (s, [])
  | x :: r, s =>
    let (s, x) := f s x
    let (s, r) := eachLane f r s
    (s, x :: r)

/-- A load through the core cache: its own copy, else the die's remote-data cache, else the home; a miss allocates
(R299, R309). -/
def loadCached (s : State) (c ln : Nat) : State × CLine :=
  match tget? (s.core c).cache ln with
  | some l => (s, l)
  | none =>
    match dieCopy s c ln with
    | some l => (cachePut s c ln l, l)
    | none =>
      let l := homeLine s ln
      let s := if remoteLine c ln then rdcPut s (dieOf c) ln l else s
      (cachePut s c ln l, l)

/-- A request that bypasses the caches: the core's copy is written back and dropped first, and the die's copy is
dropped (R299, R309). -/
def bypass (s : State) (c ln : Nat) : State :=
  updRdc (writeBack s c ln true) (dieOf c) (fun t => tdel t ln)

/-- Carry out a request at the point where it performs (R315), with the values its lanes read. -/
def perform (s : State) (r : Req) : State × Req :=
  let s := match r.acq with | some sc => acquireCaches s r.core sc | none => s
  let s := match r.rel with | some sc => releaseCaches s r.core sc | none => s
  match r.kind, r.path with
  | .load t, .cached =>
    let (s, l) := loadCached s r.core r.line
    (s, { r with lanes := loadLanes l t r.lanes })
  | .load t, _ =>
    let s := bypass s r.core r.line
    (s, { r with lanes := loadLanes (homeLine s r.line) t r.lanes })
  | .store t, .cached =>
    let (s, l) := loadCached s r.core r.line
    let (bs, m) := storeLanes t r.lanes (l.bytes, 0)
    (s.updCore r.core (fun k =>
      { k with cache := tset k.cache r.line ⟨bs, l.dirty ||| m, l.poison && m != BitVec.allOnes 128⟩ }), r)
  | .store t, _ =>
    let s := writeBack s r.core r.line true
    let s := if r.sc then updRdc s (dieOf r.core) (fun x => tdel x r.line) else s
    let (bs, m) := storeLanes t r.lanes ((homeLine s r.line).bytes, 0)
    let whole := m == BitVec.allOnes 128
    (rdcUpdate (homeMerge s r.line bs m whole) (dieOf r.core) r.line bs m whole, r)
  | .atom op, _ =>
    let (s, ls) := eachLane (atomLane op r.core r.warp) r.lanes (bypass s r.core r.line)
    (s, { r with lanes := ls })
  | .red op, _ =>
    let (s, ls) := eachLane (redLane op r.core r.warp) r.lanes (bypass s r.core r.line)
    (s, { r with lanes := ls })
  | .fill core, _ =>
    let s := if core then (loadCached s r.core r.line).1 else s
    (l2Put s r.line, r)
  | .acquire sc, _ => (acquireCaches s r.core sc, r)
  | .release sc, _ => (releaseCaches s r.core sc, r)

/-! ## Entry -/

/-- Replace a request. -/
def setReq (s : State) (r : Req) : State :=
  { s with ms := { s.ms with reqs := s.ms.reqs.map (fun x => if x.id = r.id then r else x) } }

def dropReq (s : State) (id : Nat) : State :=
  { s with ms := { s.ms with reqs := s.ms.reqs.filter (fun x => x.id != id) } }

def getReq (s : State) (id : Nat) : Option Req := s.ms.reqs.find? (fun x => x.id == id)

/-- Requests older than one, in the order of issue. -/
def olderThan (s : State) (id : Nat) : List Req := s.ms.reqs.takeWhile (fun x => x.id != id)

/-- Whether a request has yet to perform. -/
def Req.pending (r : Req) : Bool := r.stage != .answered && !r.acted

/-- Whether two requests are for one line of this part's memory. -/
def sameLine (r x : Req) : Bool :=
  x.path != .order && r.path != .order && x.path != .fabric && r.path != .fabric && x.line == r.line

/-- Whether an older request keeps this one from going to the point at which it performs: one of its core to its line that
has not gone there (R165, R299), one of its warp to its part, or one of its chain that may perform later than it would
(R169, R173). -/
def blockedBy (r x : Req) : Bool :=
  (sameLine r x && x.core == r.core && x.stage == .waiting) ||
  (r.path == .fabric && x.path == .fabric && x.core == r.core && x.warp == r.warp && x.line == r.line &&
    x.stage == .waiting) ||
  (r.rid.isSome && x.rid == r.rid && x.core == r.core && x.pending && x.stage != .entered &&
    (r.chain == 2 || (r.chain == 1 && homeDie (x.line * 128) == homeDie (r.line * 128))))

/-- Whether an access is one that a release at a place stands behind (R317). -/
def Access.before (a : Access) (c w : Nat) (b : Nat × Nat) : Bool :=
  a.src == c && a.warp == w && (decide (a.bun < b.1) || (a.bun == b.1 && decide (a.slot < b.2 ∨ (a.slot = 8 ∧ 6 < b.2))))

def WinReq.before (q : WinReq) (c w : Nat) (b : Nat × Nat) : Bool :=
  q.src == c && q.warp == w && (decide (q.bun < b.1) || (q.bun == b.1 && decide (6 < b.2)))

/-- Whether an ordering point stands behind a scratchpad access: an acquire behind loads, a release behind every one (R179). -/
def Req.awaits (r : Req) (k : AccKind) : Bool :=
  match r.kind, k with
  | .acquire _, .load .. | .acquire _, .deliver _ => true
  | .acquire _, _ => false
  | _, _ => true

/-- Whether the scratchpad accesses that an ordering point stands behind have performed (R317, R320). -/
def spadDone (s : State) (r : Req) : Bool :=
  match r.behind with
  | none => true
  | some b => s.cores.all (fun x =>
      x.2.accs.all (fun a => !(a.before r.core r.warp b && r.awaits a.kind)) &&
      x.2.winq.all (fun q => !(q.before r.core r.warp b && q.parts.any (fun p => r.awaits p.2))))

/-- The order of SC accesses (R321): a request with a key performs after every one with a lower key. -/
def scReady (s : State) (r : Req) : Bool :=
  !r.sc || (match r.scKey with
    | none => false
    | some k => s.ms.reqs.all (fun x => !(x.sc && x.pending) || (match x.scKey with | some j => decide (k ≤ j) | none => true)))

/-- Whether a request can go to the point at which it performs. -/
def canEnter (s : State) (r : Req) : Bool :=
  (r.stage == .waiting || r.stage == .ingress) && decide (r.due ≤ s.gcc) &&
  r.deps.all (fun d => (getReq s d).isNone) && spadDone s r &&
  (olderThan s r.id).all (fun x => !blockedBy r x) && scReady s r

/-- A hit on the issuing core's own copy, or on its die's: the request never reaches the home (R299, R309, R438). An access of
the core to the line that has still to perform comes first, at the home (R165, R299, R308). -/
def cacheHit (s : State) (r : Req) : Bool :=
  r.path == .cached && r.acq.isNone &&
  (olderThan s r.id).all (fun x => !(sameLine r x && x.core == r.core && x.pending)) &&
  ((tget? (s.core r.core).cache r.line).isSome || (dieCopy s r.core r.line).isSome)

/-! ## Ports (R307, R308) -/

/-- The bank of a line in the part, counted over the dies. -/
def bankNo (ln : Nat) : Nat := 64 * (homeDie (ln * 128)).getD 9 + l2Bank (ln * 128)

/-- The network port of the bank of a line. -/
def netPort (ln : Nat) : Nat := 17 * bankNo ln + 16

/-- The port of a core's requests at the bank of a line: the core's own on its die, the network port elsewhere. -/
def portOf (c ln : Nat) : Nat := if remoteLine c ln then netPort ln else 17 * bankNo ln + c % 16

/-- A port carries one request in a cycle: it is taken up to a cycle. -/
def portOpen (s : State) (c ln : Nat) : Bool := decide (tget 0 s.ms.ports (portOf c ln) ≤ s.gcc)

/-- A request takes the next cycle of a port. -/
def bookPort (s : State) (p : Nat) : State :=
  { s with ms := { s.ms with ports := tset s.ms.ports p (max (tget 0 s.ms.ports p) s.gcc + 1) } }

def portTake (s : State) (c ln : Nat) : State := bookPort s (portOf c ln)

/-- Put a request behind those that came no later. -/
def insertDue (r : Req) : List Req → List Req
  | [] => [r]
  | x :: l => if x.due ≤ r.due then x :: insertDue r l else r :: x :: l

/-- Requests in the order in which they came to where they stand: by cycle, then by issue. -/
def byDue (l : List Req) : List Req := l.foldl (fun t r => insertDue r t) []

/-- The requests for a line that wait in the ingress queues of its bank, in the order of their arrival. -/
def waitingFor (s : State) (ln : Nat) : List Req := byDue (s.ms.reqs.filter (fun r => r.stage == .ingress && r.line == ln))

/-- How many of them come before a request. -/
def lineAhead (s : State) (r : Req) : Nat := ((waitingFor s r.line).takeWhile (fun x => x.id != r.id)).length

/-- Whether a request stands on the list of its line behind one that waits in an ingress queue, and takes no place there: up to 32
requests share the list (R308). -/
def joined (s : State) (r : Req) : Bool := decide (0 < lineAhead s r) && decide (lineAhead s r < 32)

/-- The requests that take a place in the ingress queue of a port. -/
def ingress (s : State) (c ln : Nat) : List Req :=
  s.ms.reqs.filter (fun r => r.stage == .ingress && portOf r.core r.line == portOf c ln && !joined s r)

/-- The places of that queue: 8, and 64 at the network port. -/
def ingressCap (c ln : Nat) : Nat := if remoteLine c ln then 64 else 8

/-- Whether one request came to the ingress queues before another. -/
def cameBefore (s : State) (x r : Req) : Bool :=
  x.stage == .ingress &&
    (r.stage != .ingress || decide (x.due < r.due) || (x.due == r.due && (olderThan s r.id).any (fun y => y.id == x.id)))

/-- Whether a line of the same instruction that comes before, for the same bank, has entered: the lines of a bundle enter a bank one
in a cycle, in their order (R307). -/
def inTurn (s : State) (r : Req) : Bool :=
  (olderThan s r.id).all (fun x =>
    !(r.rid.isSome && x.rid == r.rid && x.core == r.core && x.path != .order && x.path != .fabric && x.stage == .waiting &&
      bankNo x.line == bankNo r.line && !cacheHit s x))

/-- Free misses of a slice: 256 lines in flight (R308). -/
def missesFull (s : State) (ln : Nat) : Bool :=
  let sl (x : Nat) := l2Bank (x * 128) / 4
  decide ((s.ms.misses.filter (fun m => homeDie (m.line * 128) == homeDie (ln * 128) && sl m.line == sl ln)).length ≥ 256)

/-- Whether a request at its bank has to wait: behind one for its line that waits, for a place on the list of its line, or for
a miss register (R308). -/
def mustWait (s : State) (r : Req) : Bool :=
  decide (0 < lineAhead s r) ||
  (match s.ms.misses.find? (fun m => m.line == r.line) with
    | some m => decide (32 ≤ m.list.length)
    | none => !s.ms.l2.contains r.line && missesFull s r.line)

/-- Whether a request can go on at its bank in this cycle: one on its way needs its port and its turn, and a place to wait where it
has to and joins no list; one that waits is the first of its queue. -/
def bankReady (s : State) (r : Req) : Bool :=
  if r.stage == .ingress then
    !mustWait s r && (ingress s r.core r.line).all (fun x => x.id == r.id || !cameBefore s x r)
  else portOpen s r.core r.line && inTurn s r &&
    (!mustWait s r || joined s r || decide ((ingress s r.core r.line).length < ingressCap r.core r.line))

/-! ## Performing at the home -/

/-- A hit reads and acts at its bank 22 cycles after its entry, and its answer leaves 24 cycles after that, later on the way to
another die (R288, R307). -/
def answerAt (s : State) (r : Req) : Nat × State :=
  if remoteLine r.core r.line then
    let (n, s) := s.draw
    (s.gcc + 24 + Config.freeNat n, s)
  else (s.gcc + 24, s)

/-- Perform a request, unless it has acted, and send its answer at a cycle. -/
def performAt (s : State) (r : Req) (due : Nat) : State :=
  let (s, r) := if r.acted then (s, r) else perform s r
  setReq s { r with stage := .answered, due := due }

/-- Perform a request at its bank. -/
def performHome (s : State) (r : Req) : State :=
  let (d, s) := answerAt s r
  performAt s r d

/-- Replace requests. -/
def setReqs (s : State) (l : List Req) : State := l.foldl setReq s

/-- A request enters its home L2 bank: it hits, joins the list of its line, starts a miss, or waits. Those that had joined it where
it waited go on behind it, one in each cycle (R307, R308). -/
def enterHome (s : State) (r : Req) : State :=
  let s := if r.stage == .waiting then countAccess (portTake s r.core r.line) r.line else s
  if mustWait s r then setReq s { r with stage := .ingress, due := s.gcc }
  else
    let rest := (waitingFor s r.line).filter (fun x => x.id != r.id)
    match s.ms.misses.find? (fun m => m.line == r.line) with
    | some m =>
      let l := r :: rest.take (31 - m.list.length)
      setReqs { s with ms := { s.ms with misses := s.ms.misses.map (fun x =>
        if x.line = r.line then { x with list := x.list ++ l.map (·.id) } else x) } } (l.map (fun x => { x with stage := .listed }))
    | none =>
      let l := r :: rest.take 31
      if s.ms.l2.contains r.line then
        setReqs s (l.zipIdx.map (fun x => { x.1 with stage := .entered, due := s.gcc + 22 + x.2 }))
      else
        let (n, s) := s.draw
        setReqs { s with ms := { s.ms with misses := s.ms.misses ++
          [⟨r.line, s.gcc + 1 + Config.freeNat n, false, l.map (·.id)⟩] } } (l.map (fun x => { x with stage := .listed }))

/-! ## Accesses of engines, the host and Privet (R307, R308, R438) -/

/-- The requests of cores that came to the bank of a line and have not acted, in the order of their arrival. -/
def atBank (s : State) (ln : Nat) : List Req :=
  let stand (st : Stage) : List Req :=
    byDue (s.ms.reqs.filter (fun r => r.stage == st && r.line == ln && r.path != .fabric && r.path != .order))
  let list := match s.ms.misses.find? (fun m => m.line == ln) with
    | some m => m.list.filterMap (getReq s)
    | none => []
  (stand .entered ++ list ++ stand .ingress).filter (fun r => !r.acted)

/-- One of them acts; its answer comes in its own time. -/
def actNow (s : State) (r : Req) : State :=
  let (s, r) := perform s r
  setReq s { r with acted := true }

/-- Whether some channel under repair holds its reads (R448). -/
def anyHeld (s : State) : Bool := s.pt.channels.any (fun x => x.2.held)

/-- Whether a read of a line waits for a repair window: its channel holds reads and its home L2 lacks it (R448). -/
def readHeld (s : State) (ln : Nat) : Bool :=
  (match homeDie (ln * 128) with | some d => decide (d < 8) | none => false) && !s.ms.l2.contains ln &&
    (tget Channel.reset s.pt.channels (Config.channelOf ln)).held

/-- An access of an engine, of the host or of Privet to a line: it counts, takes a cycle of the network port of its bank, and acts
behind every request that came there before it. DEDUCED, log entry 115. -/
def netAccess (s : State) (ln : Nat) : State :=
  let s := (atBank s ln).foldl actNow s
  countAccess (bookPort s (netPort ln)) ln

/-- The lines that an engine, the host or Privet reaches at their homes. -/
def netAll (s : State) (l : List Nat) : State := l.foldl netAccess s

/-- The reads that an agent of a die makes of `n` bytes at a virtual address, each of its lines at its home. -/
def countRead (s : State) (die : Nat) (lv : Level) (va n : Nat) : State :=
  if n = 0 then s
  else netAll s ((List.range (lineOf (va + n - 1) - lineOf va + 1)).filterMap (fun i =>
    match xlateOn s die lv .read (128 * (lineOf va + i)) with | .ok pa => some (lineOf pa) | .error _ => none))

/-- Store pieces of lines at virtual addresses, up to the first that fails: with `save` one that finds a poisoned line fails,
with subcode 0 (R375, R389). -/
def writeParts (save : Bool) (die : Nat) (lv : Level) : List (Nat × List Byte) → State → Except (Nat × Nat) State
  | [], s => .ok s
  | (va, l) :: r, s =>
    match xlateOn s die lv .write va with
    | .error e => .error (e, va)
    | .ok pa =>
      if save && s.ms.poisoned.contains (lineOf pa) then .error (0, va)
      else writeParts save die lv r (homeWrite (netAccess s (lineOf pa)) pa l)

/-- Store bytes at a virtual address for an agent of a die: a line written whole loses its poison (R443). -/
def writeOn (s : State) (die : Nat) (lv : Level) (va : Nat) (l : List Byte) : Except (Nat × Nat) State :=
  writeParts false die lv (cutLines va l) s

/-- Store bytes for an agent of the H-die. -/
def writeVa (s : State) (lv : Level) (va : Nat) (l : List Byte) : Except (Nat × Nat) State := writeOn s 8 lv va l

/-- Store bytes for an agent of a die that stops at a poisoned line (R375, R396). -/
def strictOn (s : State) (die : Nat) (lv : Level) (va : Nat) (l : List Byte) : Except (Nat × Nat) State :=
  writeParts true die lv (cutLines va l) s

/-- Store bytes as the save engine does: a poisoned line fails the write (R375). -/
def saveVa (s : State) (lv : Level) (va : Nat) (l : List Byte) : Except (Nat × Nat) State := strictOn s 8 lv va l

/-! ## Answers -/

/-- Put the values of lanes into the writes of a result: the first write takes bits 31:0, the second bits 63:32. -/
def fillVReg (hi : Bool) (v : VReg) (ls : List LaneReq) : VReg :=
  ls.foldl (fun v x =>
    ⟨v.lanes.set x.lane (if hi then x.val.extractLsb' 32 32 else x.val.extractLsb' 0 32),
      if x.bad then v.poison ||| (1#128 <<< x.lane) else v.poison⟩) v

def fillWrites (ls : List LaneReq) : Bool → List Write → List Write
  | hi, .vec d m v l k :: r => .vec d m (fillVReg hi v ls) l k :: fillWrites ls true r
  | hi, w :: r => w :: fillWrites ls hi r
  | _, [] => []

/-- A compare and swap is futile while no lane has matched (R274). -/
def anyMatch (ls : List LaneReq) : Bool := ls.any (fun x => !x.bad && x.val == x.x)

/-- The part of an answer that a result takes. -/
def fillResult (r : Req) (last : Bool) (flt : Option (DWord × Mask)) (x : Result) : Result :=
  { x with
    todo := fillWrites r.lanes false x.todo
    futile := x.futile && !(match r.kind with | .atom op => op.isCas && anyMatch r.lanes | _ => false)
    fault := match x.fault with | some f => some f | none => flt
    arrived := last }

/-- The part of an answer that a pending write takes (R170). -/
def fillPending (id : Nat) (ls : List LaneReq) (p : Pending) : Pending :=
  if p.id = some id then
    { p with
      left := p.left - 1
      wr := match p.wr with
        | .vec d m v l k => .vec d m (fillVReg false v ls) l k
        | w => w }
  else p

/-- A result or a fixed-latency reply takes the answer of a request; the result arrives with its last one (R163). -/
def takeAnswer (s : State) (r : Req) (flt : Option (DWord × Mask)) : State :=
  let s := dropReq s r.id
  match r.rid with
  | none => s
  | some rid =>
    let last := s.ms.reqs.all (fun x => x.rid != some rid || x.core != r.core)
    s.updCore r.core (fun k =>
      { k with
        warps := k.warps.map (fun (x : Nat × Warp) =>
          (x.1, { x.2 with results := x.2.results.map (fun y => if y.rid = rid then fillResult r last flt y else y) }))
        pw := k.pw.map (fillPending rid r.lanes) })

end Sys2Proof.Machine
end

