-- ==== Sys2Proof/Machine/Access.lean ====
section
/-!
DEFINITION. Lane addresses and the checks of R160 to R162, the holds of R161 and R308, the results that instructions
register on their counters (R163), and reads of descriptors as loads of the issuing warp (R322).
-/
namespace Sys2Proof.Machine

/-! ## Addresses of lanes (R160) -/

/-- An address operand lane by lane, with its poison: a pair for sgl, sgf and the unsegmented forms. -/
def addrOperand (s : State) (pair : Bool) (adr : Spec) : List DWord × Mask :=
  match pair, adr with
  | true, .v n =>
    let lo := vGet s.myCore s.me n
    let hi := vGet s.myCore s.me (n + 1)
    (List.zipWith (fun (a b : Word) => b ++ a) lo.lanes hi.lanes, lo.poison ||| hi.poison)
  | true, .s n => (List.replicate 128 (sPairGet s.me n), 0)
  | _, a =>
    let v := srcVal s immNat a
    (v.lanes.map (fun x => x.setWidth 64), v.poison)

def PairSpec.toSpec : PairSpec → Spec
  | .v n => .v n
  | .s n => .s n

/-- trunc(base + e, 64) (R296). -/
def wrapAddr (base : DWord) (e : Int) : DWord := BitVec.ofInt 64 (base.toNat + e)

/-- A check of one lane that fails: the lane, its address, the cause and the subcode. -/
structure BadLane where
  lane : Nat
  addr : DWord
  cause : Cause
  sub : Nat
  deriving DecidableEq, Repr

/-- The trap of a list of failing lanes: the cause and address of the lowest, and every lane that fails that way. -/
def badTrap (ak : Nat) : List BadLane → Option Trap
  | [] => none
  | b :: r =>
    some ⟨b.cause, b.sub, b.addr,
      ((b :: r).filter (fun x => x.cause == b.cause && x.sub == b.sub)).foldl (fun m x => m ||| (1#128 <<< x.lane)) 0, ak, []⟩

/-- The segment, alignment and upper-bit checks of one address (R160, R298). -/
def checkAddr (size : Nat) (limit : Option DWord) (fabric : Bool) (lane : Nat) (e : Int) (a : DWord) :
    Option BadLane :=
  if (match limit with | some l => decide (e < 0) || decide (l.toNat < e + size) | none => false) then
    some ⟨lane, a, .segmentLimit, 0⟩
  else if a.toNat % size != 0 then some ⟨lane, a, .misalignedAccess, 0⟩
  else if a.toNat ≥ 2 ^ 57 ∨ (fabric ∧ a.getLsbD 56) then some ⟨lane, a, .translationFault, 5⟩
  else none

/-- The poisoned-data trap of the poisoned lanes (R162). -/
def poisonTrap (m : Mask) (ak : Nat) : Trap := ⟨.poisonedData, 0, 0, m, ak, []⟩

/-! ## Holds -/

/-- Hold the issue for the walks of pages: the bundle has no effect now (R161). A die's 64 walkers take them in turn from a queue
of 512; while that is full a page has to ask again (R390). -/
def holdWalk (s : State) (vas : List Nat) : Run :=
  if inRegion s then .error (.timing 9)
  else
    let (n, s) := s.draw
    let die := dieOf s.cur.core
    let new := vas.foldl (fun (l : List Walk) va =>
      let pg := va / 65536 * 65536
      let pages := ((l.filter (fun k => dieOf k.core == die && k.fail.isNone)).map (·.va)).eraseDups
      if l.any (fun k => k.core == s.cur.core && k.warp == s.cur.warp && k.va == pg) ||
          (decide (64 + 512 ≤ pages.length) && !pages.contains pg) then l
      else l ++ [⟨s.cur.core, s.cur.warp, pg, s.gcc + 1 + Config.freeNat n, none⟩]) s.ms.walks
    .ok { s with ms := { s.ms with walks := new }, cur := { s.cur with stall := .walk } }

/-- Hold the issue while a queue is full (R48). -/
def holdQueue (s : State) : Run := .ok { s with cur := { s.cur with stall := .queue } }

/-- Hold the issue while a port is full (R308). -/
def holdPort (s : State) : Run := .ok { s with cur := { s.cur with stall := .port } }

/-! ## Global and fabric accesses -/

/-- The lanes of an access, or the pages it has to wait for. -/
inductive Lanes where
  | ok (l : List LaneReq)
  | hold (vas : List Nat)
  deriving DecidableEq, Repr

def laneReq (lane : Nat) (addr : DWord) (pa : Nat) : LaneReq := ⟨lane, addr, pa, 0, 0, 0, false⟩

/-- Translate the lanes that passed their checks (R161): a miss of the TLB holds the bundle. The register window is for level F
(R5, R439). -/
def translateLanes (s : State) (n : Need) (ak : Nat) (l : List (Nat × DWord)) : Except Trap Lanes :=
  let r := l.map (fun x => (x.1, x.2, tlbLook s s.cur.core s.cur.warp s.me.level n x.2.toNat))
  match r.filterMap (fun x => match x.2.2 with | .miss => some x.2.1.toNat | _ => none) with
  | v :: vs => .ok (.hold (v :: vs))
  | [] =>
    match badTrap ak (r.filterMap (fun x => match x.2.2 with
      | .fault e => some ⟨x.1, x.2.1, .translationFault, e⟩
      | .ok pa => if isDevice pa && s.me.level != .f then some ⟨x.1, x.2.1, .privilegeViolation, 0⟩ else none
      | .miss => none)) with
    | some tr => .error tr
    | none => .ok (.ok (r.filterMap (fun x => match x.2.2 with | .ok pa => some (laneReq x.1 x.2.1 pa) | _ => none)))

/-- The lanes of a segmented access to memory (R160 to R162, R298). A fabric lane is told apart by its part. -/
def memLanes (s : State) (m : Mask) (seg : BitVec 3) (adr : Spec) (ofs : Int) (size ak : Nat) (n : Need) :
    Except Trap Lanes :=
  let (a, po) := addrOperand s (seg == sgl || seg == sgf) adr
  if po &&& m != 0 then .error (poisonTrap (po &&& m) ak)
  else
    let base := tget 0 s.me.segBase seg.toNat
    let limit := tget 0 s.me.segLimit seg.toNat
    let l := (lanesOf m).map (fun i =>
      let e : Int := (a.getD i 0).toNat + ofs
      (i, e, wrapAddr base e))
    match badTrap ak (l.filterMap (fun x => checkAddr size (some limit) (seg == sgf) x.1 x.2.1 x.2.2)) with
    | some tr => .error tr
    | none =>
      if seg = sgf then
        .ok (.ok (l.map (fun x => laneReq x.1 x.2.2 ((x.2.2.extractLsb' 48 8).toNat * 128))))
      else translateLanes s n ak (l.map (fun x => (x.1, x.2.2)))

/-- The lanes of LD.S and PREF, which never trap and never hold: a lane that fails is marked (R161, R166, R171). -/
def softLanes (s : State) (m : Mask) (base : DWord) (limit : Option DWord) (pair : Bool) (adr : Spec) (ofs : Int)
    (size : Nat) : List LaneReq :=
  let (a, po) := addrOperand s pair adr
  (lanesOf m).map (fun i =>
    let e : Int := (a.getD i 0).toNat + ofs
    let ad := wrapAddr base e
    if po.getLsbD i || (checkAddr size limit false i e ad).isSome then { laneReq i ad 0 with bad := true }
    else match xlateAny s s.cur.core s.me.level .read ad.toNat with
      | .ok pa => { laneReq i ad pa with bad := isDevice pa && s.me.level != .f }
      | .error _ => { laneReq i ad 0 with bad := true })

/-- The lowest lane of a mask. -/
def lowestLane (m : Mask) : Nat := (lanesOf m).headD 0

/-- The one address of WATCH and FLUSHR.ordered, in the lowest active lane (R160, R161). -/
def oneAddress (s : State) (m : Mask) (a : PairSpec) (ofs : Int) (align ak : Nat) (n : Need) : Except Trap Lanes :=
  let l := lowestLane m
  let (v, po) := addrOperand s true (PairSpec.toSpec a)
  if po.getLsbD l then .error (poisonTrap (1#128 <<< l) ak)
  else
    let ad := wrapAddr 0 ((v.getD l 0).toNat + ofs)
    match badTrap ak ((checkAddr align none false l 0 ad).toList) with
    | some tr => .error tr
    | none => translateLanes s n ak [(l, ad)]

/-- Whether the queue of a port is full that one of the lanes would go through (R308). -/
def portFull (s : State) (path : Path) (ls : List LaneReq) : Bool :=
  path != .fabric &&
  ls.any (fun x =>
    let ln := lineOf x.pa
    let c := s.cur.core
    !(path == .cached && ((tget? s.myCore.cache ln).isSome || (dieCopy s c ln).isSome)) &&
    decide (ingressCap c ln ≤ (ingress s c ln).length))

/-- Whether what an instruction has put under way would go through a port whose queue is full (R308). -/
def drainsFull (before after : State) : Bool :=
  (after.ms.reqs.drop before.ms.reqs.length).any (fun r => r.path == .home && portFull before .home r.lanes)

/-! ## Results (R163) -/

/-- Whether a counter has room for one more result (R163). -/
def resultRoom (w : Warp) (ctr : BitVec 3) : Bool :=
  decide ((w.results.filter (fun r => r.ctr == ctr)).length < 63) && decide (w.results.length < 128)

def Result.new (rid : Nat) (ctr : BitVec 3) (todo : List Write) (m : Mask) : Result :=
  { rid := rid, ctr := ctr, arrived := false, todo := todo, mask := m, poll := false, cas := false, futile := false,
    fault := none, bad := false }

/-- Add one result to the end of a counter's list. -/
def addResult (s : State) (r : Result) : State := s.updMe (fun w => { w with results := w.results ++ [r] })

/-- Change the result of a number wherever its warp stands on a core: its numbers are its own. -/
def updResult (s : State) (c rid : Nat) (f : Result → Result) : State :=
  s.updCore c (fun k => { k with warps := k.warps.map (fun (x : Nat × Warp) =>
    (x.1, { x.2 with results := x.2.results.map (fun r => if r.rid = rid then f r else r) })) })

/-- A result whose every part is there arrives. -/
def arriveResult (s : State) (c rid : Nat) : State := updResult s c rid (fun r => { r with arrived := true })

/-- Arrive at once when no request has been made for a result. -/
def settleResult (s : State) (rid : Nat) : State :=
  if s.ms.reqs.any (fun x => x.rid == some rid) then s else arriveResult s s.cur.core rid

/-- Register a result on its counter, or trap when there is no room (R163). -/
def register (s : State) (ctr : BitVec 3) (k : Nat → State → Run) : Run :=
  if resultRoom s.me ctr then
    let (rid, s) := s.fresh
    k rid s
  else .error (.of .arrivalOverflow)

/-- The MW-form is forbidden in a static region (R287). -/
def mwForm (s : State) (k : Run) : Run := notInRegion s k

/-! ## Descriptors (R322) -/

/-- Bytes of a line as an access that has yet to perform there leaves them. -/
def Req.onBytes (b : List Byte) (r : Req) : List Byte :=
  match r.kind with
  | .store t => (storeLanes t r.lanes (b, 0)).1
  | .atom op => r.lanes.foldl (fun b x =>
      let o := x.pa % 128
      b.take o ++ bytesOf op.bytes (op.apply (BitVec.ofNat 64 (field b o op.bytes)) x.x x.y).toNat ++ b.drop (o + op.bytes)) b
  | _ => b

/-- A line as the issuing warp loads it: through the core cache and the die's remote-data cache, which keep it (R299, R309), with
the warp's own earlier accesses that have not yet performed (R317). A miss counts at the home (R438). -/
def warpLoad (s : State) (ln : Nat) : State × CLine :=
  let c := s.cur.core
  let s := if (tget? (s.core c).cache ln).isSome || (dieCopy s c ln).isSome then s else countAccess s ln
  let (s, l) := loadCached s c ln
  let late := s.ms.reqs.filter (fun r => r.core == c && r.warp == s.cur.warp && sameLine r { r with line := ln } && r.pending)
  (s, { l with bytes := late.foldl Req.onBytes l.bytes })

/-- Bytes at physical addresses, read as loads of the issuing warp, each with its poison; a poisoned one reads as 0 (R162). -/
def warpBytes : List Nat → State → State × List (Byte × Bool)
  | [], s => (s, [])
  | pa :: r, s =>
    let (s, l) := warpLoad s (lineOf pa)
    let (s, t) := warpBytes r s
    (s, (if l.poison then 0 else l.bytes.getD (pa % 128) 0, l.poison) :: t)

/-- `n` bytes of a descriptor at a physical address (R322). -/
def warpRead (s : State) (pa n : Nat) : State × List (Byte × Bool) := warpBytes ((List.range n).map (pa + ·)) s

/-- The descriptor of `n` bytes that an engine command names: its alignment and its translation are checked at issue
(R48, R161). It lies within one page, being aligned. -/
def descriptor (s0 s : State) (va : DWord) (align n : Nat) (k : State → List Byte → Run) : Run :=
  if va.toNat % align != 0 then .error ⟨.misalignedAccess, 0, va, 0, 0, []⟩
  else
    match tlbLook s0 s0.cur.core s0.cur.warp s0.me.level .read va.toNat with
    | .fault e => .error ⟨.translationFault, e, va, 0, 0, []⟩
    | .miss => holdWalk s0 [va.toNat]
    | .ok pa =>
      let (s, b) := warpRead s pa n
      k s (b.map (·.1))

end Sys2Proof.Machine
end

