-- ==== Sys2Proof/Machine/Scratch.lean ====
section
/-!
DEFINITION. The fixed-latency loads and stores of the scratchpad, the quad window and the stream view, semaphore
increments and timed transfers (R164, R186, R192, R193, R288 to R290, R301 to R304).
-/
namespace Sys2Proof.Machine

/-! ## Lanes in scratchpads -/

/-- One lane's element: the core whose scratchpad holds it and the offset there. -/
structure SpadLane where
  lane : Nat
  core : Nat
  off : Nat
  deriving DecidableEq, Repr

/-- The group of the issuing warp's quad group on a core (R266, R302). -/
def quadMember (s : State) (c : Nat) : Option (Nat × Group) :=
  if s.me.handlerOf.isSome then none
  else
    ((quadGroup s s.me.handle.toNat).map (fun h => (h, s.group h))).find? (fun x => x.2.core == c)

/-- Where a scratchpad address leads: the issuing core for sgs and sgt, a core of the quad for sgq (R302). -/
def spadTarget (s : State) (seg : BitVec 3) (a : DWord) : Option (Nat × Nat) :=
  if seg = sgq then
    let al := s.myGroup.allot
    if al = 0 then none
    else
      let p := a.toNat / al
      if p > 3 then none
      else match quadMember s (4 * quadOf s.cur.core + p) with
        | some (_, g) => some (g.core, g.region + a.toNat % al)
        | none => none
  else some (s.cur.core, a.toNat)

/-- The lanes of an M-form access (R160, R263, R302). -/
def spadLanes (s : State) (m : Mask) (seg : BitVec 3) (adr : Spec) (ofs : Int) (size ak : Nat) :
    Except Trap (List SpadLane) :=
  let (a, po) := addrOperand s false adr
  if po &&& m != 0 then .error (poisonTrap (po &&& m) ak)
  else
    let base := tget 0 s.me.segBase seg.toNat
    let limit := tget 0 s.me.segLimit seg.toNat
    let l := (lanesOf m).map (fun i =>
      let e : Int := (a.getD i 0).toNat + ofs
      let ad := wrapAddr base e
      (i, ad, spadTarget s seg ad,
        if decide (e < 0) || decide (limit.toNat < e + size) then some (⟨i, ad, .segmentLimit, 0⟩ : BadLane)
        else if ad.toNat % size != 0 then some ⟨i, ad, .misalignedAccess, 0⟩
        else none))
    let bad := l.filterMap (fun x => match x.2.2.2 with
      | some b => some b
      | none => match x.2.2.1 with
        | none => some ⟨x.1, x.2.1, .segmentLimit, 0⟩
        | some (c, o) =>
          if o + size ≤ (s.core c).carve * 2 ^ 20 then none else some ⟨x.1, x.2.1, .segmentLimit, 0⟩)
    match badTrap ak bad with
    | some tr => .error tr
    | none => .ok (l.filterMap (fun x => x.2.2.1.map (fun y => ⟨x.1, y.1, y.2⟩)))

/-- The place of each lane's word among the distinct words of its bank in its scratchpad, in lane order (R164). -/
def wordRanks : List SpadLane → List (Nat × Nat) → List (SpadLane × Nat)
  | [], _ => []
  | x :: r, seen =>
    let w := (x.core, x.off / 4)
    if seen.contains w then
      (x, ((seen.takeWhile (· != w)).filter (fun y => y.1 == x.core && y.2 % 128 == x.off / 4 % 128)).length) ::
        wordRanks r seen
    else
      (x, (seen.filter (fun y => y.1 == x.core && y.2 % 128 == x.off / 4 % 128)).length) ::
        wordRanks r (seen ++ [w])

/-- k: the largest number of distinct words of one bank, at least 1 (R164, R303). -/
def wordCount (l : List (SpadLane × Nat)) : Nat := l.foldl (fun k x => max k (x.2 + 1)) 1

/-- The cores that a list of lanes reaches. -/
def coresOf (l : List (SpadLane × Nat)) : List Nat :=
  l.foldl (fun c x => if c.contains x.1.core then c else c ++ [x.1.core]) []

/-- σ > 0 in a FAULT region is a timing fault (R164, R287). -/
def sigmaFault (s : State) (k : Nat) : Bool :=
  decide (k > 1) && (match s.me.region with | some r => !r.pol | none => false)

/-- Note the σ of a slot: the core adds the largest after the bundle (R164). -/
def noteSigma (s : State) (k : Nat) : State := { s with cur := { s.cur with extra := max s.cur.extra (k - 1) } }

/-- Add an access of the issuing slot to its core, performing after `rem` cycles. -/
def addAccess (s : State) (rem : Nat) (kind : AccKind) : State :=
  s.updMyCore (fun k => { k with accs := k.accs ++ [⟨rem, s.cur.slot.num, s.cur.core, s.cur.warp, s.gcc, kind⟩] })

/-- Add the part of a bundle's request to one window port (R303): the two memory slots make one request. -/
def addWindow (s : State) (dst k : Nat) (parts : List (Nat × AccKind)) : State :=
  s.updCore dst (fun q =>
    if q.winq.any (fun x => x.src == s.cur.core && x.bun == s.gcc) then
      { q with winq := q.winq.map (fun x =>
          if x.src == s.cur.core && x.bun == s.gcc then { x with k := max x.k k, parts := x.parts ++ parts } else x) }
    else
      { q with winq := q.winq ++ [⟨s.cur.core, s.cur.warp, s.gcc, s.gcc + 8, k, s.gcc + 18, parts⟩] })

/-- Send the accesses of an M-form instruction on their way: at the access point, or through the window ports; `mk`
builds the access of a list of lanes. DESIGN CHOICE, log entry 107: an access through sgq and a later one through sgs or sgt
to the same byte keep their fixed cycles, so the later one may perform first. -/
def placeAccesses (s : State) (seg : BitVec 3) (l : List (SpadLane × Nat)) (mk : List SpadLane → Bool → AccKind) :
    State :=
  if seg = sgq then
    (coresOf l).foldl (fun s c =>
      let mine := l.filter (fun x => x.1.core == c)
      let k := wordCount mine
      addWindow s c k ((List.range k).map (fun j =>
        (j, mk ((mine.filter (fun x => x.2 == j)).map (·.1)) false)))) s
  else addAccess s 2 (mk (l.map (·.1)) true)

/-- LD of sgs, sgq, sgt (R164). -/
def runLdM (t : LdTy) (o : MOps) (s0 s : State) : Run :=
  let m := activeMask s0 o.p
  match spadLanes s0 m o.seg o.adr o.ofs.toInt t.bytes 0 with
  | .error tr => .error tr
  | .ok ls =>
    let l := wordRanks ls []
    let k := wordCount l
    if sigmaFault s0 k then .error (.timing 11)
    else
      let lat := if o.seg = sgq then 18 else 6
      let wr := Write.vec (match o.dat with | .v n => some (target s n) | _ => none) m .zero s.cur.slot.latch none
      let (id, s) := s.fresh
      if l.isEmpty then .ok (pendReply s lat id 0 wr)
      else
        let n := if o.seg = sgq then (coresOf l).length else 1
        let s := placeAccesses s o.seg l (fun x now => .load id t (x.map (fun y => (y.lane, y.off))) now)
        .ok (noteSigma (pendReply s lat id n wr) k)

/-- ST to sgs, sgq, sgt (R164). -/
def runStM (t : StTy) (o : MOps) (s0 s : State) : Run :=
  let m := activeMask s0 o.p
  let v := srcVal s0 immInt o.dat
  match spadLanes s0 m o.seg o.adr o.ofs.toInt t.bytes 1 with
  | .error tr => .error tr
  | .ok ls =>
    let l := wordRanks ls []
    let k := wordCount l
    if v.poison &&& m != 0 then .error (poisonTrap (v.poison &&& m) 1)
    else if sigmaFault s0 k then .error (.timing 11)
    else if l.isEmpty then .ok s
    else .ok (noteSigma (placeAccesses s o.seg l
      (fun x _ => .store t.bytes (x.map (fun y => (y.off, v.lane y.lane))))) k)

/-! ## Performing (R301, R320) -/

/-- Whether a scratchpad word is poisoned. -/
def wordPoison (k : Core) (off : Nat) : Bool := k.spoison.contains (off / 4)

/-- Write bytes into a scratchpad; a whole word written is no longer poisoned, or takes the poison given. What the increments of a
semaphore word stood for goes with the word that they had made (R318, R327). -/
def spadWrite (k : Core) (off : Nat) (bs : List Byte) (poison : Bool) : Core :=
  let ws := (List.range (bs.length)).map (fun i => (off + i) / 4)
  let whole := ws.filter (fun w => decide (off ≤ 4 * w) && decide (4 * w + 4 ≤ off + bs.length))
  { k with
    scratch := memWrite k.scratch off bs
    semRel := k.semRel.filter (fun x => decide (x.1 + 4 ≤ off) || decide (off + bs.length ≤ x.1))
    spoison := if poison then k.spoison ++ (ws.eraseDups.filter (fun w => !k.spoison.contains w))
      else k.spoison.filter (fun w => !whole.contains w) }

/-- The values a load reads from a scratchpad. -/
def spadLoad (k : Core) (t : LdTy) (cells : List (Nat × Nat)) : List LaneReq :=
  cells.map (fun x =>
    if wordPoison k x.2 then { laneReq x.1 0 0 with bad := true }
    else { laneReq x.1 0 0 with val := (t.extend (memRead k.scratch x.2 t.bytes)).setWidth 64 })

/-- Fill lanes of a pending write without counting a part of its reply. -/
def fillOnly (id : Nat) (ls : List LaneReq) (p : Pending) : Pending :=
  { fillPending id ls p with left := p.left }

/-- Bring one part of a fixed-latency reply (R291). -/
def bringPart (id : Nat) (p : Pending) : Pending := if p.id = some id then { p with left := p.left - 1 } else p

/-- A word of a scratchpad. -/
def spadWord (k : Core) (off : Nat) : Word := BitVec.ofNat 32 (memRead k.scratch off 4)

/-- The increment of a semaphore word, which saturates (R186). -/
def semAdd (k : Core) (off : Nat) (n : Word) : Core :=
  { spadWrite k off (bytesOf 4 (min ((spadWord k off).toNat + n.toNat) 0xFFFFFFFF)) false with semRel := k.semRel }

/-- An access performs on core `c`. -/
def performAccess (s : State) (c : Nat) (a : Access) : State :=
  match a.kind with
  | .load id t cells now =>
    let ls := spadLoad (s.core c) t cells
    s.updCore a.src (fun k => { k with pw := k.pw.map (fun p =>
      if now then fillPending id ls p else fillOnly id ls p) })
  | .deliver id => s.updCore a.src (fun k => { k with pw := k.pw.map (bringPart id) })
  | .store n cells => s.updCore c (fun k => cells.foldl (fun k x => spadWrite k x.1 (bytesOf n x.2.toNat) false) k)
  | .ext addr data poison => s.updCore c (fun k => spadWrite k addr data poison)
  | .semp addr n rel =>
    s.updCore c (fun k =>
      { semAdd k addr n with semRel := k.semRel ++ [(addr, rel, .co, n.toNat)] })
  | .stcmt addr w dst word n sc rel =>
    let s := s.updCore c (fun k => spadWrite k addr (bytesOf 4 w.toNat) false)
    { s with sched := { s.sched with incrs := s.sched.incrs ++
        [⟨s.gcc, dst, word, n, gridOf (s.warp c a.warp).handle, sc, rel, c, (s.warp c a.warp).handle⟩] } }

  | .guide addr w recs rel =>
    let s := s.updCore c (fun k => spadWrite k addr (bytesOf 4 w.toNat) false)
    let h := (s.warp c a.warp).handle
    let l : List Send := recs.map (fun o => ⟨c, h, o - (s.group h.toNat).region, rel⟩)
    let q := tget [] s.fr.sends c ++ l
    { s with fr := { s.fr with sends := tset s.fr.sends c q } }

/-- The order of accesses within a cycle (R301). -/
def accessOrder (l : List Access) : List Access :=
  l.filter (fun a => decide (a.slot < 7)) ++ l.filter (fun a => a.slot == 7) ++ l.filter (fun a => a.slot == 8) ++
    l.filter (fun a => decide (a.slot > 8))

/-- Perform what is due on a core in this cycle, in the order of R301. -/
def performDue (s : State) (c : Nat) : State :=
  let due := (s.core c).accs.filter (fun a => a.rem == 0)
  let s := s.updCore c (fun k => { k with accs := k.accs.filter (fun a => a.rem != 0) })
  (accessOrder due).foldl (fun s a => performAccess s c a) s

/-! ## Semaphores (R186) -/

/-- The address of SEMP and SEMW, an sgs offset. -/
def semAddress (s : State) (adr : ImmOrS) (ofs : BitVec 12) : Except Trap Nat :=
  let sp : Spec := match adr with | .imm b => .imm b | .s n => .s n
  match spadLanes s 1 sgs sp ofs.toInt 4 2 with
  | .error tr => .error { tr with lanes := 0 }
  | .ok (x :: _) => .ok x.off
  | .ok [] => .ok 0

/-- SEMP: an increment at t+2 that releases the warp's earlier accesses at .co. -/
def runSemp (n adr : ImmOrS) (ofs : BitVec 12) (s0 s : State) : Run :=
  match semAddress s0 adr ofs with
  | .error tr => .error tr
  | .ok a =>
    let (rel, s) := releasePoint s s.cur.core s.cur.warp (here s) .co
    .ok (addAccess s 2 (.semp a (n.val s0.me) (some rel)))

/-- SEMW: the warp waits until the word reaches the amount. -/
def runSemw (n adr : ImmOrS) (ofs : BitVec 12) (s0 s : State) : Run :=
  notInRegion s0 <|
    match semAddress s0 adr ofs with
    | .error tr => .error tr
    | .ok a =>
      let s := suspend s0 s (.semw a (n.val s0.me))
      .ok (s.updMyCore (fun k => { k with semWait := k.semWait ++ [(s.cur.warp, a)] }))

/-! ## Timed transfers (R192, R193, R289, R290) -/

/-- The distance of two local cores on the mesh of their die (R289). -/
def meshHops (a b : Nat) : Nat :=
  let d (x y : Nat) : Nat := if x < y then y - x else x - y
  d (a % 4) (b % 4) + d (a / 4 % 4) (b / 4 % 4)

/-- The route latency between two cores (R289). -/
def routeLat (a b : Nat) : Nat :=
  let x := dieOf a
  let y := dieOf b
  if x = y then 20 + 2 * meshHops (a % 16) (b % 16)
  else if x = 8 ∨ y = 8 then 96
  else if x = y + 4 ∨ y = x + 4 then 110
  else 160

/-- Put a packet on its way to a core. -/
def sendPacket (s : State) (dst : Nat) (p : Packet) : State :=
  s.updCore dst (fun k => { k with packets := k.packets ++ [p] })

/-- Whether a core is there to receive. -/
def coreThere (s : State) (c : Nat) : Bool :=
  decide (c < Config.cores) && (s.core c).enabled && (tget Die.reset s.pt.dies (dieOf c)).present

/-- The stamp of a packet sent now: GCC less the scheduled start of the region (R192). -/
def stampNow (s : State) (r : Region) : Nat := s.gcc - r.s

/-- TSEND and TSEND.M: one packet for each destination, all landing with the slowest (R192, R290). -/
def runSends (val : Spec) (dsts : List Nat) (slot : BitVec 5) (s0 s : State) : Run :=
  match s0.me.region with
  | none => .error (.timing 12)
  | some r =>
    if dsts.isEmpty || dsts.any (fun d => !coreThere s0 d) then .error (.timing 12)
    else
      let lat := dsts.foldl (fun l d => max l (routeLat s0.cur.core d)) 0
      let v := srcVal s0 immInt val
      .ok (dsts.foldl (fun s d => sendPacket s d ⟨s0.gcc + lat, slot.toNat, stampNow s0 r, v, s0.me.handle⟩) s)

def runTsend (val : Spec) (core : ImmOrS) (slot : BitVec 5) (s0 s : State) : Run :=
  runSends val [(core.val s0.me).toNat] slot s0 s

/-- The cores that a mask operand of TSEND.M names; none where another bit is set (R192). -/
def maskCores (w : Word) : List Nat :=
  if w.extractLsb' 20 12 != 0 then []
  else (((List.range 16).filter (fun i => w.getLsbD i)).map (fun i => 16 * (w.extractLsb' 16 4).toNat + i))

def runTsendM (val : Spec) (mask : ImmOrS) (slot : BitVec 5) (s0 s : State) : Run :=
  runSends val (maskCores (mask.val s0.me)) slot s0 s

/-- TRECV: the slot's packet, which must be there, unspoiled, and carry the stamp (R193, R290, R294). -/
def runTrecv (p : Guard) (d : Spec) (slot : BitVec 5) (stamp : BitVec 12) (s0 s : State) : Run :=
  match s0.me.region with
  | none => .error (.timing 12)
  | some _ =>
    match tget? s.myCore.inbox slot.toNat with
    | none => .error (.timing 5)
    | some x =>
      if x.overrun then .error (.timing 5)
      else if x.stamp % 4096 != stamp.toNat then .error (.timing 4)
      else
        let s := s.updMyCore (fun k => { k with inbox := tdel k.inbox slot.toNat })
        .ok (writeVec s 6 d false 0 (activeMask s0 p) x.val)

/-! ## The meanings -/

def execLdM (t : LdTy) (o : MOps) (s : State) : Out := slotExec (.ldM t o) (runLdM t o) s
def execStM (t : StTy) (o : MOps) (s : State) : Out := slotExec (.stM t o) (runStM t o) s
def execSemp (p : Guard) (n adr : ImmOrS) (ofs : BitVec 12) (s : State) : Out :=
  slotExec (.semp p n adr ofs) (runSemp n adr ofs) s
def execSemw (p : Guard) (n adr : ImmOrS) (ofs : BitVec 12) (s : State) : Out :=
  slotExec (.semw p n adr ofs) (runSemw n adr ofs) s
def execTsend (p : Guard) (val : Spec) (core : ImmOrS) (slot : BitVec 5) (s : State) : Out :=
  slotExec (.tsend p val core slot) (runTsend val core slot) s
def execTsendM (p : Guard) (val : Spec) (mask : ImmOrS) (slot : BitVec 5) (s : State) : Out :=
  slotExec (.tsendM p val mask slot) (runTsendM val mask slot) s
def execTrecv (p : Guard) (d : Spec) (slot : BitVec 5) (stamp : BitVec 12) (s : State) : Out :=
  slotExec (.trecv p d slot stamp) (runTrecv p d slot stamp) s

end Sys2Proof.Machine
end

