-- ==== Sys2Proof/Machine/Global.lean ====
section
/-!
DEFINITION. The variable-latency accesses: loads, stores, atomics, LDT and PREF, the reduction buffer and its flushes,
fences and watches (R165 to R180, R184).
-/
namespace Sys2Proof.Machine

/-! ## Loads and stores (R165 to R171) -/

/-- The writes of a load's result. -/
def loadTodo (s : State) (d : Spec) (m : Mask) : List Write :=
  match d with
  | .v n => [.vec (some (target s n)) m .zero none none]
  | _ => []

/-- The path of a segment's plain accesses (R298, R299). -/
def pathOf (seg : BitVec 3) : Path := if seg = sgf then .fabric else .cached

/-- What is particular to one load or store form. -/
structure Style where
  path : Path
  acq : Option Scope
  rel : Option Scope
  sc : Bool
  poll : Bool
  deriving DecidableEq, Repr

def Style.plain (seg : BitVec 3) : Style := ⟨pathOf seg, none, none, false, false⟩

/-- LD.POLL reads at the home (R167). -/
def Style.ofPoll (seg : BitVec 3) : Style := ⟨if seg = sgf then .fabric else .home, none, none, false, true⟩

def Style.acquire (seg : BitVec 3) (sc : Scope) : Style := ⟨pathOf seg, some sc, none, false, false⟩

/-- A release at .qd or wider has its store perform at the home (R168, R315). -/
def Style.release (seg : BitVec 3) (sc : Scope) : Style :=
  ⟨if seg = sgf then .fabric else if sc.num ≥ 2 then .home else .cached, none, some sc, false, false⟩

/-- An SC access bypasses the core cache and is a full fence at .sy (R169, R299, R321). -/
def Style.seq : Style := ⟨.home, some .sy, some .sy, true, false⟩

/-- The way of a style past the caches: an acquire reads at the home (R168, R308). -/
def Style.port (st : Style) : Path := if st.acq.isSome && st.path == .cached then .home else st.path

/-- The request of a style. -/
def Style.ask (st : Style) (rid : Nat) (kind : ReqKind) (chain : Nat) (ls : List LaneReq) : Ask :=
  { rid := some rid, kind := kind, path := st.path, lanes := ls, chain := chain, orders := st.acq.isSome || st.sc,
    acq := st.acq, rel := st.rel, sc := st.sc }

/-- Issue requests, put an SC instruction into its core's queue, and settle a result without requests. -/
def sendAsk (s : State) (rid : Nat) (a : Ask) : State :=
  let s := if a.sc && !a.lanes.isEmpty then s.updMyCore (fun k => { k with scq := k.scq ++ [rid] }) else s
  settleResult (ask s a) rid

/-- Check, translate and hold for an MW-form access, then go on with its lanes. -/
def withLanes (s0 : State) (m : Mask) (seg : BitVec 3) (adr : Spec) (ofs : Int) (size ak : Nat) (n : Need)
    (path : Path) (k : List LaneReq → Run) : Run :=
  mwForm s0 <|
    match memLanes s0 m seg adr ofs size ak n with
    | .error tr => .error tr
    | .ok (.hold vas) => holdWalk s0 vas
    | .ok (.ok ls) => if portFull s0 path ls then holdPort s0 else k ls

/-- A load of the MW-form. -/
def runLoad (t : LdTy) (o : MWOps) (ofs : Int) (st : Style) (s0 s : State) : Run :=
  let m := activeMask s0 o.p
  withLanes s0 m o.seg o.adr ofs t.bytes 0 .read st.port fun ls =>
    register s o.ac fun rid s =>
      let r := { Result.new rid o.ac (loadTodo s o.dat m) m with poll := st.poll }
      .ok (sendAsk (addResult s r) rid (st.ask rid (.load t) (if st.sc then 2 else 0) ls))

/-- A store of the MW-form. -/
def runStore (t : StTy) (o : MWOps) (ofs : Int) (st : Style) (s0 s : State) : Run :=
  let m := activeMask s0 o.p
  let v := srcVal s0 immInt o.dat
  withLanes s0 m o.seg o.adr ofs t.bytes 1 .write st.path fun ls =>
    if v.poison &&& m != 0 then .error (poisonTrap (v.poison &&& m) 1)
    else
      register s o.ac fun rid s =>
        let ls := ls.map (fun x => { x with x := (v.lane x.lane).setWidth 64 })
        .ok (sendAsk (addResult s (Result.new rid o.ac [] m)) rid (st.ask rid (.store t) (if st.sc then 2 else 0) ls))

/-- The scope and offset fields of LD.ACQ and ST.REL (R168). -/
def acqScope (o : MWOps) : Scope := (scopeOf (o.ofs.extractLsb' 6 3)).getD .sy

def acqOfs (o : MWOps) : Int := (o.ofs.extractLsb' 0 6).toInt

def runLdMw (t : LdTy) (o : MWOps) : State → State → Run := runLoad t o o.ofs.toInt (.plain o.seg)
def runStMw (t : StTy) (o : MWOps) : State → State → Run := runStore t o o.ofs.toInt (.plain o.seg)
def runLdPoll (o : MWOps) : State → State → Run := runLoad .b32 o o.ofs.toInt (.ofPoll o.seg)
def runLdAcq (o : MWOps) : State → State → Run := runLoad .b32 o (acqOfs o) (.acquire o.seg (acqScope o))
def runStRel (o : MWOps) : State → State → Run := runStore .b32 o (acqOfs o) (.release o.seg (acqScope o))
def runLdSc (o : MWOps) : State → State → Run := runLoad .b32 o o.ofs.toInt .seq
def runStSc (o : MWOps) : State → State → Run := runStore .b32 o o.ofs.toInt .seq

/-- LD.S: a lane that fails its checks, or has a poisoned address, returns 0 with poison (R166). -/
def runLdS (o : MWOps) (s0 s : State) : Run :=
  mwForm s0 <|
    let m := activeMask s0 o.p
    let base := tget 0 s0.me.segBase o.seg.toNat
    let ls := softLanes s0 m base (some (tget 0 s0.me.segLimit o.seg.toNat)) true o.adr o.ofs.toInt 4
    let ok := ls.filter (fun x => !x.bad)
    if portFull s0 .cached ok then holdPort s0
    else
      register s o.ac fun rid s =>
        let r := Result.new rid o.ac (fillWrites (ls.filter (·.bad)) false (loadTodo s o.dat m)) m
        .ok (sendAsk (addResult s r) rid ((Style.plain o.seg).ask rid (.load .b32) 0 ok))

/-- LDT: a fixed-latency load of the home L2 that lands at t+48 unless its answer is late (R170). -/
def runLdt (o : MOps) (s0 s : State) : Run :=
  let m := activeMask s0 o.p
  match memLanes s0 m o.seg o.adr o.ofs.toInt 4 0 .read with
  | .error tr => .error tr
  | .ok (.hold vas) => holdWalk s0 vas
  | .ok (.ok ls) =>
    let wr := Write.vec (match o.dat with | .v n => some (target s n) | _ => none) m .zero s.cur.slot.latch none
    let (id, s) := s.fresh
    if ls.isEmpty then .ok (pend s 48 wr)
    else
      let a : Ask := { rid := some id, kind := .load .b32, path := .home, lanes := ls, chain := 0, orders := false,
                       acq := none, rel := none, sc := false }
      .ok (ask (pendReply s 48 id (splitLines 0 ls).length wr) a)

/-- PREF: a lane that fails does nothing (R171); a full port holds it (R308). -/
def runPref (p : Guard) (core : Bool) (adr : PairSpec) (ofs : BitVec 9) (s0 s : State) : Run :=
  mwForm s0 <|
    let ls := (softLanes s0 (activeMask s0 p) 0 none true (PairSpec.toSpec adr) ofs.toInt 1).filter (fun x => !x.bad)
    let path : Path := if core then .cached else .home
    if portFull s0 path ls then holdPort s0
    else .ok (ask s { rid := none, kind := .fill core, path := path, lanes := ls, chain := 0, orders := false, acq := none,
                      rel := none, sc := false })

/-! ## Atomics (R172, R173) -/

/-- How an atomic reads an 8-bit immediate (R39, R172). -/
def atomImm (op : AtomOp) (b : Byte) : Word :=
  match op with
  | .addF32 => immF32 b
  | .addBf16 => immHalf .bf16 b
  | _ => immInt b

/-- A pair of registers, or of s-registers, as 64-bit values. -/
def pairVal (s : State) (sp : Spec) : List DWord × Mask := addrOperand s true sp

/-- The operands of an atomic lane by lane: the value, or the compare value and the new one, with their poison. -/
def atomOperands (s : State) (op : AtomOp) (d : Spec) : List DWord × List DWord × Mask :=
  let one (sp : Spec) : List DWord × Mask :=
    let v := srcVal s (atomImm op) sp
    (v.lanes.map (fun x => x.setWidth 64), v.poison)
  match op.isCas, op.wide, d with
  | true, true, .v n =>
    let (x, p) := pairVal s (.v n)
    let (y, q) := pairVal s (.v (n + 2))
    (x, y, p ||| q)
  | true, false, .v n =>
    let (x, p) := one (.v n)
    let (y, q) := one (.v (n + 1))
    (x, y, p ||| q)
  | _, true, sp =>
    let (x, p) := pairVal s sp
    (x, [], p)
  | _, false, sp =>
    let (x, p) := one sp
    (x, [], p)

/-- Where the old value goes (R172). -/
def atomTodo (s : State) (op : AtomOp) (d : Spec) (m : Mask) : List Write :=
  match d with
  | .v n =>
    let w (n : BitVec 9) : Write := .vec (some (target s n)) m .zero none none
    if op.wide then [w n, w (n + 1)] else [w n]
  | _ => []

def runAtom (op : AtomOp) (sc : Bool) (o : MWOps) (s0 s : State) : Run :=
  let m := activeMask s0 o.p
  let st : Style := if sc then .seq else ⟨if o.seg = sgf then .fabric else .home, none, none, false, false⟩
  let (xs, ys, po) := atomOperands s0 op o.dat
  withLanes s0 m o.seg o.adr o.ofs.toInt op.bytes 2 .write st.path fun ls =>
    if po &&& m != 0 then .error (poisonTrap (po &&& m) 2)
    else
      register s o.ac fun rid s =>
        let ls := ls.map (fun l => { l with x := xs.getD l.lane 0, y := ys.getD l.lane 0 })
        let r := { Result.new rid o.ac (atomTodo s op o.dat m) m with cas := op.isCas, futile := op.isCas }
        .ok (sendAsk (addResult s r) rid (st.ask rid (.atom op) (if sc then 2 else if o.seg = sgf then 0 else 1) ls))

def runAtomAdd (o : MWOps) (w : Bool) : State → State → Run := runAtom (.add w) false o
def runAtomMin (o : MWOps) (w u : Bool) : State → State → Run := runAtom (.min w u) false o
def runAtomMax (o : MWOps) (w u : Bool) : State → State → Run := runAtom (.max w u) false o
def runAtomAnd (o : MWOps) (w : Bool) : State → State → Run := runAtom (.and w) false o
def runAtomOr (o : MWOps) (w : Bool) : State → State → Run := runAtom (.or w) false o
def runAtomXor (o : MWOps) (w : Bool) : State → State → Run := runAtom (.xor w) false o
def runAtomExch (o : MWOps) (w : Bool) : State → State → Run := runAtom (.exch w) false o
def runAtomCas (o : MWOps) (w : Bool) : State → State → Run := runAtom (.cas w) false o
def runAtomAddF32 (o : MWOps) : State → State → Run := runAtom .addF32 false o
def runAtomAddBf16 (o : MWOps) : State → State → Run := runAtom .addBf16 false o
def runAtomSc (o : MWOps) (op : AtomOp) : State → State → Run := runAtom op true o

/-! ## The reduction buffer (R174 to R177) -/

/-- The lanes that an entry's valid elements make at their home. -/
def entryLanes (e : RedEntry) : List LaneReq :=
  e.elems.map (fun x =>
    let a := e.block * 64 + 4 * x.1
    { laneReq x.1 (BitVec.ofNat 64 a) (if e.fabric then a / 2 ^ 48 % 256 * 128 else a) with x := x.2.setWidth 64 })

/-- Drain one entry to its home, as a request of the issuing warp (R176). -/
def drainEntry (rid : Option Nat) (s : State) (e : RedEntry) : State :=
  ask s { rid := rid, kind := .red e.op, path := if e.fabric then .fabric else .home, lanes := entryLanes e,
          chain := if e.fabric then 0 else 1, orders := false, acq := none, rel := none, sc := false }

/-- Whether an entry holds a block for a warp and an opcode. -/
def RedEntry.is (e : RedEntry) (w : Nat) (fabric : Bool) (block : Nat) (op : RedOp) : Bool :=
  e.warp == w && e.fabric == fabric && e.block == block && e.op == op

/-- Put a value into an element: the first exactly, any other combined (R94, R174). -/
def RedEntry.put (e : RedEntry) (i : Nat) (x : Word) : RedEntry :=
  { e with elems := tset e.elems i (match tget? e.elems i with | some y => e.op.apply y x | none => x) }

/-- Evict the entry allocated earliest, as FLUSHR drains one, and mark its warp (R175). -/
def evictFirst (s : State) : State :=
  match s.myCore.red with
  | [] => s
  | e :: r =>
    let s := drainEntry none s e
    s.updMyCore (fun k => { k.updWarp e.warp (fun w => { w with evicted := true }) with red := r })

/-- One lane of a RED. -/
def redPut (fabric : Bool) (op : RedOp) (s : State) (x : LaneReq) : State :=
  let a := if fabric then x.addr.toNat else x.pa
  let w := s.cur.warp
  let s := if s.myCore.red.any (fun e => e.is w fabric (a / 64) op) then s
    else
      let s := if s.myCore.red.length < 1024 then s else evictFirst s
      s.updMyCore (fun k => { k with red := k.red ++ [⟨w, s.me.handle, fabric, a / 64, op, []⟩] })
  s.updMyCore (fun k => { k with red := k.red.map (fun e =>
    if e.is w fabric (a / 64) op then e.put (a % 64 / 4) (x.x.setWidth 32) else e) })

/-- How a reduction reads an 8-bit immediate (R39). -/
def redImm (op : RedOp) (b : Byte) : Word :=
  match op with
  | .addF32 | .minF32 | .maxF32 => immF32 b
  | .addBf16 => immHalf .bf16 b
  | .addN32 => immInt b

/-- RED: the lanes in ascending order; the counter counts acceptance (R174). An entry it evicts needs its port (R308). -/
def runRedBuf (op : RedOp) (o : MWOps) (s0 s : State) : Run :=
  let m := activeMask s0 o.p
  let v := srcVal s0 (redImm op) o.dat
  withLanes s0 m o.seg o.adr o.ofs.toInt 4 2 .write .fabric fun ls =>
    if v.poison &&& m != 0 then .error (poisonTrap (v.poison &&& m) 2)
    else
      register s o.ac fun rid s =>
        let t := (ls.map (fun x => { x with x := (v.lane x.lane).setWidth 64 })).foldl (redPut (o.seg == sgf) op) s
        if drainsFull s t then holdPort s0 else .ok (settleResult (addResult t (Result.new rid o.ac [] m)) rid)

def runRedAddF32 (o : MWOps) : State → State → Run := runRedBuf .addF32 o
def runRedAddN32 (o : MWOps) : State → State → Run := runRedBuf .addN32 o
def runRedMinF32 (o : MWOps) : State → State → Run := runRedBuf .minF32 o
def runRedMaxF32 (o : MWOps) : State → State → Run := runRedBuf .maxF32 o
def runRedAddBf16 (o : MWOps) : State → State → Run := runRedBuf .addBf16 o

/-- Put an entry behind those whose warps have no greater number. -/
def insertDrain (s : State) (c : Nat) (e : RedEntry) : List RedEntry → List RedEntry
  | [] => [e]
  | x :: r => if (s.warp c x.warp).wnum ≤ (s.warp c e.warp).wnum then x :: insertDrain s c e r else e :: x :: r

/-- The entries of a group on a core in the order in which FLUSHR drains them: by warp number, then by allocation (R176). -/
def flushOrder (s : State) (c : Nat) (h : Word) : List RedEntry :=
  ((s.core c).red.filter (fun e => e.handle == h)).foldl (fun l e => insertDrain s c e l) []

/-- FLUSHR: every entry of the group, by warp number and then by allocation; the counter counts completion (R176). -/
def runFlushr (ac : BitVec 3) (s0 s : State) : Run :=
  mwForm s0 <|
    register s ac fun rid s =>
      let es := flushOrder s s.cur.core s.me.handle
      let s := s.updMyCore (fun k => { k with red := k.red.filter (fun e => e.handle != s.me.handle) })
      let s := addResult s (Result.new rid ac [] 0)
      let t := es.foldl (drainEntry (some rid)) s
      if drainsFull s t then holdPort s0 else .ok (settleResult (t.updMe (fun w => { w with evicted := false })) rid)

/-- The descriptor of an ordered session (R177). -/
structure SessDesc where
  sid : Nat
  ncon : Nat
  homes : List (Nat × Nat)
  done : Nat
  ok : Bool
  deriving DecidableEq, Repr

def SessDesc.parse (b : List Byte) : SessDesc :=
  let nh := field b 8 1
  let hs := (List.range (min nh 8)).map (fun i => field b (16 + 2 * i) 2)
  { sid := field b 0 4, ncon := field b 4 4, homes := hs.map (fun h => (h % 256, h / 256 % 16)),
    done := field b 32 8,
    ok := field b 0 4 != 0 && decide (1 ≤ field b 4 4) && decide (field b 4 4 ≤ 65536) && decide (1 ≤ nh) &&
      decide (nh ≤ 8) && field b 9 7 == 0 && field b 40 24 == 0 && hs.all (fun h => h / 4096 == 0) }

/-- The homes that hold an entry, as this part knows them: its own line's die, or any home of the fabric part named. -/
def entryAt (s : State) (e : RedEntry) (h : Nat × Nat) : Bool :=
  if e.fabric then e.block / 2 ^ 42 % 256 == h.1
  else h.1 == s.hd.control.self.toNat && homeDie (e.block * 64) == some h.2

/-- Whether an entry lies at a part to which there is no route. -/
def unrouted (s : State) (e : RedEntry) : Bool :=
  let p := e.block / 2 ^ 42 % 256
  e.fabric && s.hd.control.route.getD p 0xFF == 0xFF && p != s.hd.control.self.toNat

/-- An entry that has no listed home: it is dropped and marks the session in error at the first (R177). -/
def entryLost (s : State) (hs : List (Nat × Nat)) (e : RedEntry) : Bool :=
  !hs.any (entryAt s e) || unrouted s e

/-- Whether a port carries flits (R409). -/
def portUp (s : State) (p : Nat) : Bool := decide (p < 12) && (tget Port.reset s.hd.ports p).up

/-- The flush records of one contributor, one for each listed home; one whose port is down is lost (R177, R426). -/
def flushRecords (s : State) (d : SessDesc) (rid : Nat) (es : List RedEntry) : State :=
  let lost := es.any (entryLost s d.homes)
  let rec go (first : Bool) : List (Nat × Nat) → State → State
    | [], s => s
    | h :: r, s =>
      let (id, s) := s.fresh
      let me := s.hd.control.self.toNat
      let port := (s.hd.control.route.getD h.1 0xFF).toNat
      let f : FlushRec :=
        { id := id, die := h.2, part := me, dest := h.1, port := port, core := s.cur.core, warp := s.cur.warp, rid := rid, sid := d.sid,
          ncon := d.ncon, evicted := s.me.evicted, err := first && lost, first := first, home1 := d.homes.headD (0, 0),
          listed := (d.homes.filter (fun x => x.1 == h.1)).map (·.2),
          ents := es.filter (fun e => !entryLost s d.homes e && entryAt s e h), doneAddr := BitVec.ofNat 64 d.done }
      let s := if h.1 = me ∨ !portUp s port then s
        else { s with hd := { s.hd with outbox := s.hd.outbox ++ [(port, .flush h.1 f)] } }
      go false r { s with ms := { s.ms with flushes := s.ms.flushes ++ [f] } }
  go true d.homes s

/-- A record for each fabric entry whose part has no route (R177, R392). -/
def lostRecords (s : State) (es : List RedEntry) : State :=
  (es.filter (unrouted s)).foldl (fun s e =>
    postPlain s (plainRecord s .translationFault 0 5 2 s.me.handle (BitVec.ofNat 64 (e.block * 64)))) s

/-- FLUSHR.ordered: the issuing warp's own entries, one record to every listed home; a descriptor that is refused
sends none, and the covering WAITA traps (R177). -/
def runFlushrOrdered (p : Guard) (a : PairSpec) (ofs : BitVec 9) (ac : BitVec 3) (s0 s : State) : Run :=
  mwForm s0 <|
    match oneAddress s0 (activeMask s0 p) a ofs.toInt 64 0 .read with
    | .error tr => .error tr
    | .ok (.hold vas) => holdWalk s0 vas
    | .ok (.ok ls) =>
      register s ac fun rid s =>
        let (s, b) := warpRead s ((ls.head?.map (·.pa)).getD 0) 64
        let d := SessDesc.parse (b.map (·.1))
        if !d.ok then .ok (addResult s { Result.new rid ac [] 0 with arrived := true, bad := true })
        else
          let es := s.myCore.red.filter (fun e => e.warp == s.cur.warp)
          let s := flushRecords (addResult s (Result.new rid ac [] 0)) d rid es
          let s := lostRecords s es
          let s := s.updMyCore (fun k => { k with red := k.red.filter (fun e => e.warp != s.cur.warp) })
          .ok (s.updMe (fun w => { w with evicted := false }))

/-! ## Fences and watches (R179, R180, R184) -/

/-- The loads of a warp whose values have not arrived. -/
def openLoads (s : State) : List Nat :=
  (s.ms.reqs.filter (fun r => r.core == s.cur.core && r.warp == s.cur.warp &&
    (match r.kind with | .load _ | .atom _ => true | _ => false))).map (·.id)

/-- FENCE.acq: later accesses wait for the values of earlier loads, those of the quad window included, and the caches are
invalidated (R179). -/
def runFenceAcq (sc : Scope) (_ s : State) : Run :=
  .ok (acquirePoint s s.cur.core s.cur.warp sc (openLoads s) (here s))

/-- FENCE.rel: later accesses wait for earlier ones to perform at the scope. -/
def runFenceRel (sc : Scope) (_ s : State) : Run :=
  .ok (orderPoint s s.cur.core s.cur.warp (.release sc) (openIds s s.cur.core s.cur.warp) (here s) true).2

def runFenceAr (sc : Scope) (_ s : State) : Run :=
  let deps := openIds s s.cur.core s.cur.warp
  let (id, s) := orderPoint s s.cur.core s.cur.warp (.release sc) deps (here s) true
  .ok (acquirePoint s s.cur.core s.cur.warp sc (deps ++ [id]) none)

/-- XFENCE: an ordering point behind the upstream paths that gates the downstream ones: later lane accesses, and
engine commands of a path, which wait in their queues (R180, R310). -/
def runXfence (up down : BitVec 7) (sc : Scope) (_ s : State) : Run :=
  let deps := if up.getLsbD 0 then openIds s s.cur.core s.cur.warp else []
  let paths := (List.range 7).filter (fun i => i != 0 && down.getLsbD i)
  -- for an engine path a store performs only at the home (R315)
  let at_ : Scope := if !paths.isEmpty && decide (sc.num < 2) then .qd else sc
  let (id, s) := orderPoint s s.cur.core s.cur.warp (.release at_) deps (if up.getLsbD 0 then here s else none) (down.getLsbD 0)
  let s := if down.getLsbD 0 then acquirePoint s s.cur.core s.cur.warp sc [id] none else s
  -- the texture cache is invalidated before a later command runs (R248)
  let s := if down.getLsbD 4 then s.updMyCore (fun k => { k with texCache := [] }) else s
  .ok (s.updMe (fun w => { w with xgate := paths.foldl (fun t i => tset t i (id :: (tget [] t i))) w.xgate }))

/-- The ordering points that gate an engine path of the issuing warp (R180). -/
def gateIds (s : State) (path : Nat) : List Nat := (tget [] s.me.xgate path).filter (fun i => (getReq s i).isSome)

def runWatch (arm : Bool) (p : Guard) (a : PairSpec) (ofs : BitVec 12) (s0 s : State) : Run :=
  match oneAddress s0 (activeMask s0 p) a ofs.toInt 1 0 .read with
  | .error tr => .error tr
  | .ok (.hold vas) => holdWalk s0 vas
  | .ok (.ok ls) =>
    .ok (s.updMe (fun w =>
      { w with watch := if arm then ls.head?.map (fun x => lineOf x.pa) else none, watchHit := false }))

/-! ## The meanings -/

def execLdt (o : MOps) (s : State) : Out := slotExec (.ldt o) (runLdt o) s
def execLdMw (t : LdTy) (o : MWOps) (s : State) : Out := slotExec (.ldMw t o) (runLdMw t o) s
def execStMw (t : StTy) (o : MWOps) (s : State) : Out := slotExec (.stMw t o) (runStMw t o) s
def execLdS (o : MWOps) (s : State) : Out := slotExec (.ldS o) (runLdS o) s
def execLdPoll (o : MWOps) (s : State) : Out := slotExec (.ldPoll o) (runLdPoll o) s
def execLdAcq (o : MWOps) (s : State) : Out := slotExec (.ldAcq o) (runLdAcq o) s
def execStRel (o : MWOps) (s : State) : Out := slotExec (.stRel o) (runStRel o) s
def execLdSc (o : MWOps) (s : State) : Out := slotExec (.ldSc o) (runLdSc o) s
def execStSc (o : MWOps) (s : State) : Out := slotExec (.stSc o) (runStSc o) s
def execPref (p : Guard) (core : Bool) (adr : PairSpec) (ofs : BitVec 9) (ad : Bool) (s : State) : Out :=
  slotExec (.pref p core adr ofs ad) (runPref p core adr ofs) s
def execAtomAdd (o : MWOps) (w : Bool) (s : State) : Out := slotExec (.atomAdd o w) (runAtomAdd o w) s
def execAtomMin (o : MWOps) (w u : Bool) (s : State) : Out := slotExec (.atomMin o w u) (runAtomMin o w u) s
def execAtomMax (o : MWOps) (w u : Bool) (s : State) : Out := slotExec (.atomMax o w u) (runAtomMax o w u) s
def execAtomAnd (o : MWOps) (w : Bool) (s : State) : Out := slotExec (.atomAnd o w) (runAtomAnd o w) s
def execAtomOr (o : MWOps) (w : Bool) (s : State) : Out := slotExec (.atomOr o w) (runAtomOr o w) s
def execAtomXor (o : MWOps) (w : Bool) (s : State) : Out := slotExec (.atomXor o w) (runAtomXor o w) s
def execAtomExch (o : MWOps) (w : Bool) (s : State) : Out := slotExec (.atomExch o w) (runAtomExch o w) s
def execAtomCas (o : MWOps) (w : Bool) (s : State) : Out := slotExec (.atomCas o w) (runAtomCas o w) s
def execAtomAddF32 (o : MWOps) (s : State) : Out := slotExec (.atomAddF32 o) (runAtomAddF32 o) s
def execAtomAddBf16 (o : MWOps) (s : State) : Out := slotExec (.atomAddBf16 o) (runAtomAddBf16 o) s
def execAtomSc (o : MWOps) (op : AtomOp) (s : State) : Out := slotExec (.atomSc o op) (runAtomSc o op) s
def execRedAddF32 (o : MWOps) (s : State) : Out := slotExec (.redAddF32 o) (runRedAddF32 o) s
def execRedAddN32 (o : MWOps) (s : State) : Out := slotExec (.redAddN32 o) (runRedAddN32 o) s
def execRedMinF32 (o : MWOps) (s : State) : Out := slotExec (.redMinF32 o) (runRedMinF32 o) s
def execRedMaxF32 (o : MWOps) (s : State) : Out := slotExec (.redMaxF32 o) (runRedMaxF32 o) s
def execRedAddBf16 (o : MWOps) (s : State) : Out := slotExec (.redAddBf16 o) (runRedAddBf16 o) s
def execFlushr (p : Guard) (ac : BitVec 3) (s : State) : Out := slotExec (.flushr p ac) (runFlushr ac) s
def execFlushrOrdered (p : Guard) (a : PairSpec) (ofs : BitVec 9) (ac : BitVec 3) (ad : Bool) (s : State) : Out :=
  slotExec (.flushrOrdered p a ofs ac ad) (runFlushrOrdered p a ofs ac) s
def execFenceAcq (p : Guard) (sc : Scope) (s : State) : Out := slotExec (.fenceAcq p sc) (runFenceAcq sc) s
def execFenceRel (p : Guard) (sc : Scope) (s : State) : Out := slotExec (.fenceRel p sc) (runFenceRel sc) s
def execFenceAr (p : Guard) (sc : Scope) (s : State) : Out := slotExec (.fenceAr p sc) (runFenceAr sc) s
def execXfence (p : Guard) (up down : BitVec 7) (sc : Scope) (s : State) : Out :=
  slotExec (.xfence p up down sc) (runXfence up down sc) s
def execWatchArm (p : Guard) (adr : PairSpec) (ofs : BitVec 12) (ad : Bool) (s : State) : Out :=
  slotExec (.watchArm p adr ofs ad) (runWatch true p adr ofs) s
def execWatchDisarm (p : Guard) (adr : PairSpec) (ofs : BitVec 12) (ad : Bool) (s : State) : Out :=
  slotExec (.watchDisarm p adr ofs ad) (runWatch false p adr ofs) s

end Sys2Proof.Machine
end

