-- ==== Sys2Proof/Machine/Frontier.lean ====
section
/-!
DEFINITION. The frontier of a warp: the order of its entries, merging, spilling and the frontier reserve (R269 to R275).
-/
namespace Sys2Proof.Machine

/-- Whether the mode of a kernel is AGE; a trap-handler warp has neither mode (R274, R275). -/
def ageMode (s : State) (w : Warp) : Bool := (s.group w.handle.toNat).age && w.handlerOf.isNone

/-- The order of entries (R271, R275). -/
def entryBefore (age : Bool) (a b : Entry) : Bool :=
  let oa := age && decide (a.age ≥ 512)
  let ob := age && decide (b.age ≥ 512)
  if a.d != b.d then b.d
  else if oa != ob then oa
  else if oa && a.age != b.age then decide (b.age < a.age)
  else if a.prio != b.prio then b.prio.ult a.prio
  else a.pc.ult b.pc

/-- The first entry in order. -/
def firstEntry (age : Bool) : List Entry → Option Entry
  | [] => none
  | e :: r =>
    match firstEntry age r with
    | none => some e
    | some f => if entryBefore age f e then some f else some e

/-- The issuing entry: within three delay bundles the one of the control instruction (R114, R271). -/
def issuingEntry (s : State) (w : Warp) : Option Entry :=
  let free := w.entries.filter (fun e => e.wait == .none)
  if w.dl = 0 then firstEntry (ageMode s w) free else free.find? (fun e => some e.mask == w.issuer)

/-- Put an entry into a list in order. -/
def insertEntry (age : Bool) (e : Entry) : List Entry → List Entry
  | [] => [e]
  | x :: r => if entryBefore age e x then e :: x :: r else x :: insertEntry age e r

def sortEntries (age : Bool) (l : List Entry) : List Entry := l.foldl (fun r e => insertEntry age e r) []

/-- Two entries at one address (R272). -/
def joinEntry (a b : Entry) : Entry :=
  { a with mask := a.mask ||| b.mask, prio := if a.prio.ult b.prio then b.prio else a.prio, d := a.d && b.d
           age := max a.age b.age }

/-- Merge the entry of a mask with every other resident entry at its address, where neither waits (R272). -/
def mergeAt (m : Mask) (w : Warp) : Warp :=
  match w.entries.find? (fun e => e.mask == m) with
  | none => w
  | some e =>
    let same := w.entries.filter (fun x => x.mask != m && x.pc == e.pc && x.wait == .none)
    if e.wait != .none || transferPending w || same.isEmpty then w
    else
      let f := same.foldl joinEntry e
      { w with
        entries := (w.entries.filter (fun x => !same.contains x)).map (fun x => if x.mask = m then f else x)
        issuer := if w.issuer = some m then some f.mask else w.issuer }

/-- The first 16 in order are resident and the rest are spilled; the number of entries moved (R273). DESIGN CHOICE, log entry 116:
the entry that issues delay bundles stays resident, whatever its place. -/
def rebalance (age : Bool) (w : Warp) : Warp × Nat :=
  if w.spilled.isEmpty ∧ w.entries.length ≤ 16 then (w, 0)
  else
    let stays (e : Entry) : Bool := decide (w.dl > 0) && some e.mask == w.issuer && w.entries.contains e
    let order := sortEntries age (w.entries ++ w.spilled)
    let order := order.filter stays ++ order.filter (fun e => !stays e)
    let keep := order.take 16
    let filled := w.spilled.filter (fun e => keep.contains e)
    let out := w.entries.filter (fun e => !keep.contains e)
    let w := { w with entries := w.entries.filter (fun e => keep.contains e) ++ filled, spilled := order.drop 16 }
    (filled.foldl (fun w e => mergeAt e.mask w) w, filled.length + out.length)

/-- Whether a kernel runs under DEMOTE (R274). -/
def demoteMode (s : State) (w : Warp) : Bool := !(s.group w.handle.toNat).age && w.handlerOf.isNone

/-- A futile result demotes the entries that hold an active lane of it (R274). -/
def demote (ms : List Mask) (w : Warp) : Warp :=
  { w with entries := w.entries.map (fun e => if ms.any (fun m => m &&& e.mask != 0) then { e with d := true } else e),
           spilled := w.spilled.map (fun e => if ms.any (fun m => m &&& e.mask != 0) then { e with d := true } else e) }

/-! ## The frontier reserve (R273, R300) -/

def align4k (n : Nat) : Nat := (n + 4095) / 4096 * 4096

/-- The bytes of a scratchpad region: the allotment and the frontier reserve (R300). -/
def regionBytes (allot warps : Nat) : Nat := align4k allot + align4k (3584 * warps)

def Wait.code : Wait → Nat
  | .none => 0
  | .barrier => 1
  | .launch => 2

def Wait.ofCode : Nat → Wait
  | 1 => .barrier
  | 2 => .launch
  | _ => .none

/-- A frontier entry as a record (R273). -/
def Entry.bytes (e : Entry) : List Byte :=
  bytesOf 8 e.pc.toNat ++ bytesOf 2 e.prio.toNat ++ bytesOf 1 ((if e.d then 1 else 0) + 2 * e.wait.code) ++ [0] ++
    bytesOf 2 e.age ++ [0, 0] ++ bytesOf 16 e.mask.toNat

def Entry.ofBytes (b : List Byte) : Entry :=
  { pc := BitVec.ofNat 64 (field b 0 8), prio := BitVec.ofNat 16 (field b 8 2), mask := BitVec.ofNat 128 (field b 16 16)
    d := field b 10 1 % 2 == 1, age := field b 12 2 % 2048, wait := .ofCode (field b 10 1 / 2 % 4), back := none }

/-- The scratchpad bytes of a group's warp that hold its spilled entries (R273). -/
def reserveAt (g : Group) (wnum : Nat) : Nat := g.region + align4k g.allot + 3584 * wnum

/-- The spilled entries of a warp stand in its part of the frontier reserve. -/
def syncReserve (s : State) (c wi : Nat) : State :=
  let w := s.warp c wi
  if w.spilled.isEmpty || w.handlerOf.isSome || decide (w.wnum ≥ 16) || w.handle == noGroup then s
  else
    s.updCore c (fun k =>
      spadWrite k (reserveAt (s.group w.handle.toNat) w.wnum) (w.spilled.map Entry.bytes).flatten false)

/-- A warp's frontier has changed: entries are moved between the core and the reserve, and each one moved holds the core for
4 cycles, which are a delay of the current warp's next bundle (R65, R273). -/
def refill (s : State) (c wi : Nat) : State :=
  let (w, n) := rebalance (ageMode s (s.warp c wi)) (s.warp c wi)
  if n = 0 then s
  else syncReserve (s.updCore c (fun k =>
    let late (w : Warp) : Warp := match w.delay with
      | some d => { w with delay := some (if d.on ∨ s.gcc ≤ d.c then { d with on := true } else ⟨s.gcc, true, []⟩) }
      | none => w
    { k.updWarp wi (fun _ => if k.current = some wi then late w else w) with free := max k.free s.gcc + 4 * n })) c wi

end Sys2Proof.Machine
end

