-- ==== Sys2Proof/Machine/Waits.lean ====
section
/-!
DEFINITION. Waiting: WAITA and TWAIT with the landing of covered results (R67, R181, R182), barriers (R185), semaphore
waits being served (R186), phases (R187), and what wakes a core (R183).
-/
namespace Sys2Proof.Machine

/-! ## Waking (R183) -/

/-- Note why a warp of a core became ready, for ctl.wakewhy. -/
def addWhy (s : State) (c bit : Nat) : State := s.updCore c (fun k => { k with why := k.why ||| (1#8 <<< bit) })

/-- End the suspension of a warp. -/
def wakeWarp (s : State) (c w bit : Nat) : State := addWhy (s.updWarp c w endSusp) c bit

/-! ## WAITA and TWAIT -/

/-- The results of a counter that a WAITA covers: all but the youngest n (R181). -/
def coverOf (w : Warp) (ctr n : Nat) : List Nat :=
  let l := (w.results.filter (fun r => r.ctr.toNat == ctr)).map (·.rid)
  l.take (l.length - n)

/-- The results that a mask of counters covers, in issue order. -/
def coverMask (w : Warp) (mask : Byte) (n : Nat) : List Nat :=
  let ids := (List.range 8).foldl (fun l c => if mask.getLsbD c then l ++ coverOf w c n else l) []
  (w.results.map (·.rid)).filter (fun i => ids.contains i)

/-- The traps of a WAITA: a covered descriptor that was refused (R177), or covered remote faults not yet reported
(R162, R374). -/
def waitaTrap (w : Warp) (cover : List Nat) : Option Trap :=
  let l := w.results.filter (fun r => cover.contains r.rid)
  if l.any (fun r => r.bad) then some (.of .illegalOperand)
  else
    match l.filter (fun r => r.fault.isSome) with
    | [] => none
    | r :: t =>
      match r.fault with
      | some (a, m) => some ⟨.remoteStoreFault, 0, a, m, 0xFF, (r :: t).map (·.rid)⟩
      | none => none

/-- Whether the issuing warp is to take the fault of the engine at an MCALL, MSTAT or MPSW (R223). -/
def owesFault (s : State) : Bool :=
  let e := s.myCore.eng
  !e.fltSeen && e.fltWarp == s.cur.warp

/-- Whether it is to take it at a WAITA that covers results. -/
def owesWait (s : State) (cover : List Nat) : Bool := owesFault s && cover.any (fun i => s.myCore.eng.fltRids.contains i)

def runWaita (mask : Byte) (n : BitVec 6) (s0 s : State) : Run :=
  notInRegion s0 <|
    let cover := coverMask s0.me mask n.toNat
    if owesWait s0 cover then .error (.of .matrixFault)
    else match waitaTrap s0.me cover with
      | some tr => .error tr
      | none => .ok (suspend s0 s (.waita cover))

/-- The old value in the lanes of a poll against the new one (R167). -/
def pollFutile (k : Core) (w : Warp) (r : Result) : Bool :=
  r.poll && (match r.todo with
    | [.vec (some (n, tok)) m v _ _] =>
      (match tget? w.map n.toNat with
        | some b => b.tok == tok && (lanesOf m).all (fun l => (vGet k w n).lane l == v.lane l)
        | none => false)
    | _ => false)

/-- Land the writes of one arrived result into the banks that are free in this cycle (R67). -/
def landTodo (wi : Nat) : List Write → Core → List Write × Core
  | [], k => ([], k)
  | x :: r, k =>
    let free := match x.bank with | some b => !k.ports.getLsbD b | none => true
    if free then
      let k := landWrite k wi x
      let k := match x.bank with | some b => { k with ports := k.ports ||| (1#8 <<< b) } | none => k
      landTodo wi r k
    else
      let (t, k) := landTodo wi r k
      (x :: t, k)

/-- Land what has arrived of a warp's covered results, in issue order (R67, R181). -/
def landCovered (wi : Nat) (cover : List Nat) : List Result → Core → List Result × Core
  | [], k => ([], k)
  | r :: rs, k =>
    if cover.contains r.rid && r.arrived then
      let fut := pollFutile k (k.warp wi) r
      let (t, k) := landTodo wi r.todo k
      let r' := { r with todo := t, poll := r.poll && !fut, futile := r.futile || fut }
      let k := if t.isEmpty && r'.futile then
        k.updWarp wi (fun w => { w with futiles := w.futiles ++ [r.mask] }) else k
      let (l, k) := landCovered wi cover rs k
      (if t.isEmpty then (l, k) else (r' :: l, k))
    else
      let (l, k) := landCovered wi cover rs k
      (r :: l, k)

/-- The landing of covered results of every waiting warp of a core in one cycle. -/
def landWaits (k : Core) : Core :=
  (k.warps.map (·.1)).foldl (fun k wi =>
    match (k.warp wi).susp, (k.warp wi).status with
    | .waita cover, .run =>
      let (l, k) := landCovered wi cover (k.warp wi).results k
      k.updWarp wi (fun w => { w with results := l })
    | _, _ => k) k

/-- The landing of a MARKW (R325): a fence at .pk of what its markers and acknowledgements stand for, and a release of it. -/
def landMarkw (s : State) (c wi : Nat) (cover : List Nat) : State :=
  if (s.warp c wi).mwaits.any (fun i => cover.contains i) then
    let s := s.updWarp c wi (fun w => { w with mwaits := w.mwaits.filter (fun i => !cover.contains i) })
    let (id, s) := orderPoint s c wi (.release .pk) (openIds s c wi) none true
    acquirePoint s c wi .pk [id] none
  else s

/-- The warp whose covered results have all landed becomes ready (R181, R274); `arr` says that results were covered, so
that an arrival let it go (R183). -/
def retireWaita (s : State) (c wi : Nat) (arr : Bool) : State :=
  let dem := demoteMode s (s.warp c wi)
  let s := refill (s.updWarp c wi (fun w => { (if dem then demote w.futiles w else w) with futiles := [] })) c wi
  if arr then wakeWarp s c wi 0 else s.updWarp c wi endSusp

/-- The condition of TWAIT (R182). -/
def twaitMet (w : Warp) (mask : Byte) (watch : Bool) : Bool :=
  (mask != 0 && w.results.all (fun r => !mask.getLsbD r.ctr.toNat || r.arrived)) || (watch && w.watchHit)

/-- Put the result of TWAIT into its flag or into all lanes of its predicate. -/
def twaitResult (pred : Bool) (num : BitVec 3) (b : Bool) (w : Warp) : Warp :=
  if pred then pSet w num (BitVec.allOnes 128) (if b then BitVec.allOnes 128 else 0) else fSet w num b

/-- TWAIT whose condition holds: the result is 1, the watch-hit bit clears, and the results of M land as for WAITA. -/
def meetTwait (s : State) (c wi : Nat) (mask : Byte) (pred : Bool) (num : BitVec 3) : State :=
  s.updWarp c wi (fun w =>
    let w := twaitResult pred num true w
    { w with watchHit := false, susp := .waita (coverMask w mask 0) })

def runTwait (pred : Bool) (num : BitVec 3) (h : BitVec 7) (mask : Byte) (watch : Bool) (s0 s : State) : Run :=
  notInRegion s0 <|
    let cover := coverMask s0.me mask 0
    let hint := (sGet s0.me h).toNat
    if twaitMet s0.me mask watch && owesWait s0 cover then .error (.of .matrixFault)
    else match (if twaitMet s0.me mask watch then waitaTrap s0.me cover else none) with
    | some tr => .error tr
    | none =>
      let s := markSwitch s0 s
      if twaitMet s0.me mask watch then
        .ok (switchPoint (meetTwait s s.cur.core s.cur.warp mask pred num))
      else if hint = 0 then .ok (switchPoint (s.updMe (twaitResult pred num false)))
      else .ok (suspend s0 s (.twait (s0.gcc + hint) mask watch pred num cover))

/-- The hint of TWAIT expires with its condition not met: the result is 0 and nothing lands (R182). -/
def expireTwait (s : State) (c wi : Nat) (pred : Bool) (num : BitVec 3) : State :=
  wakeWarp (s.updWarp c wi (twaitResult pred num false)) c wi 1

/-! ## Barriers (R185) -/

/-- Whether a resident slot's warp has exited. -/
def hasEnded (s : State) (c w : Nat) : Bool := (s.warp c w).status == .ended

/-- The warps that a barrier may expect: those of the group, or of the quad group, as (core, resident slot). -/
def barMembers (s : State) (quad : Bool) (h : Nat) : List (Nat × Nat) :=
  let gs := if quad then quadGroup s h else [h]
  (gs.map (fun x => (s.group x).slots.map (fun w => ((s.group x).core, w)))).foldl (· ++ ·) []

/-- Whether a warp has trapped and not resumed yet (R375). -/
def isTrapped (w : Warp) : Bool := match w.status with | .captured _ | .saved _ | .resuming _ => true | _ => false

/-- The number of warps that have arrived in a generation, those that have exited among them; a trapped warp does not count as
arrived until it has resumed (R375, R386). -/
def barCount (s : State) (quad : Bool) (h : Nat) (b : Bar) : Nat :=
  (b.arrived.filter (fun x => !isTrapped (s.warp x.1 x.2)) ++ (barMembers s quad h).filter (fun x => hasEnded s x.1 x.2 && !b.arrived.contains x)).length

def barExpect (s : State) (quad : Bool) (h : Nat) (b : Bar) : Option Nat :=
  b.expect.map (fun e => if e = 0 then (barMembers s quad h).length else e.toNat)

/-- The key of a quad group's barrier. -/
def quadKey (s : State) (h num : Nat) : Nat :=
  let g := s.group h
  (g.grid * 64 + quadOf g.core) * 4 + num

def barGet (s : State) (quad : Bool) (h num : Nat) : Bar :=
  if quad then tget .reset s.sched.qbars (quadKey s h num) else tget .reset (s.group h).bars num

def barPut (s : State) (quad : Bool) (h num : Nat) (b : Bar) : State :=
  if quad then { s with sched := { s.sched with qbars := tset s.sched.qbars (quadKey s h num) b } }
  else s.updGroup h (fun g => { g with bars := tset g.bars num b })

/-- An entry that waits, or each part of one that a division has left (R117), goes on. -/
def freeEntry (x : Wait) (m : Mask) (w : Warp) : Warp :=
  let free (e : Entry) : Entry := if e.mask &&& ~~~m = 0 ∧ e.wait = x then { e with wait := .none, back := none } else e
  { w with entries := w.entries.map free, spilled := w.spilled.map free }

/-- One waiting entry is released and acquires at the barrier's scope. -/
def releaseEntry (sc : Scope) (rels : List Nat) (s : State) (x : Nat × Nat × Mask) : State :=
  let s := syncReserve (s.updWarp x.1 x.2.1 (freeEntry .barrier x.2.2)) x.1 x.2.1
  addWhy (syncPoint s x.1 x.2.1 sc rels) x.1 4

/-- End a barrier generation whose count has been reached (R185). -/
def tryRelease (s : State) (quad : Bool) (h num : Nat) : State :=
  let b := barGet s quad h num
  match barExpect s quad h b with
  | none => s
  | some e =>
    if barCount s quad h b < e then s
    else
      let s := barPut s quad h num .reset
      b.waits.foldl (releaseEntry (if quad then .qd else .co) b.rels) s

/-- BAR and BARQ. -/
def runBarrier (quad : Bool) (b : SSrc) (num : BitVec 4) (arrive : Bool) (s0 s : State) : Run :=
  notInRegion s0 <|
    let h := s0.me.handle.toNat
    let v := b.val s0.me
    let g := barGet s0 quad h num.toNat
    if s0.me.handlerOf.isSome || decide (s0.me.wnum ≥ 16) || (quad && decide (num.toNat > 3)) || (g.expect.isSome && g.expect != some v) then
      .error (.of .barrierFault)
    else
      let me := (s.cur.core, s.cur.warp)
      let (rel, s) := releasePoint s s.cur.core s.cur.warp (here s) (if quad then .qd else .co)
      let g := { g with
        expect := some v
        arrived := if g.arrived.contains me then g.arrived else g.arrived ++ [me]
        rels := g.rels ++ [rel]
        waits := if arrive then g.waits
          else g.waits.filter (fun x => x != (s.cur.core, s.cur.warp, s.cur.mask)) ++ [(s.cur.core, s.cur.warp, s.cur.mask)] }
      let s := if arrive then switchPoint s else waitEntry s0 s .barrier
      .ok (tryRelease (barPut s quad h num.toNat g) quad h num.toNat)

def runBar (b : SSrc) (num : BitVec 4) (arrive : Bool) : State → State → Run := runBarrier false b num arrive
def runBarq (b : SSrc) (num : BitVec 4) (arrive : Bool) : State → State → Run := runBarrier true b num arrive

/-- A warp that has exited counts as arrived at every barrier of its group (R185). -/
def barriersAfterExit (s : State) (h : Nat) : State :=
  let s := (List.range 16).foldl (fun s n => tryRelease s false h n) s
  (List.range 4).foldl (fun s n => tryRelease s true h n) s

/-! ## Semaphores (R186, R327) -/

/-- What a SEMW of `n` consumes of a word's increments, the oldest first: the releases of those it takes, and what is left of
them. DESIGN CHOICE, log entry 108: which increments a SEMW consumes is open. -/
def consume (a : Nat) : Nat → List (Nat × Option Nat × Scope × Nat) →
    List (Option Nat × Scope) × List (Nat × Option Nat × Scope × Nat)
  | _, [] => ([], [])
  | n, x :: r =>
    if x.1 ≠ a ∨ n = 0 then
      let (got, l) := consume a n r
      (got, x :: l)
    else
      let (got, l) := consume a (n - x.2.2.2) r
      ((x.2.1, x.2.2.1) :: got, if n < x.2.2.2 then (x.1, x.2.1, x.2.2.1, x.2.2.2 - n) :: l else l)

/-- Serve the waiters of a core's semaphore words in the order of their SEMW. -/
def serveSems (c : Nat) : List (Nat × Nat) → List Nat → State → State
  | [], _, s => s
  | (wi, a) :: r, blocked, s =>
    match (s.warp c wi).susp with
    | .semw _ n =>
      if blocked.contains a || (spadWord (s.core c) a).ult n then serveSems c r (blocked ++ [a]) s
      else
        let (got, left) := consume a n.toNat (s.core c).semRel
        let rels := got.filterMap (fun x => x.1)
        let sc := got.foldl (fun (m : Scope) x => if x.2.num > m.num then x.2 else m) .co
        let s := s.updCore c (fun k =>
          { spadWrite k a (bytesOf 4 (spadWord k a - n).toNat) false with
            semWait := k.semWait.filter (fun x => x != (wi, a)), semRel := left })
        serveSems c r blocked (wakeWarp (syncPoint s c wi sc rels) c wi 3)
    | _ => serveSems c r blocked s

def serveCore (s : State) (c : Nat) : State := serveSems c (s.core c).semWait [] s

/-! ## Phases (R187, R324) -/

def phaseOf (s : State) (c t : Nat) : Phase := tget .reset (s.core c).phases t

def setPhase (s : State) (c t : Nat) (p : Phase) : State :=
  s.updCore c (fun k => { k with phases := tset k.phases t p })

/-- The current phase of a core's tree (R187). -/
def Phase.current (p : Phase) : Nat := if p.declared.isSome && !p.raised then p.last else p.last + 1

/-- Whether a core has raised its line for a phase. -/
def Phase.hasRaised (p : Phase) (n : Nat) : Bool :=
  (decide (n < p.last) || (p.last == n && p.raised)) && !p.skipped.contains n

/-- The cores of a tree. -/
def treeCores (s : State) (t : Nat) : List Nat :=
  let m := tget 0 s.sched.treeMask t
  (List.range 144).filter (fun c => m.getLsbD c)

/-- Tree t releases phase P when every core of its mask has raised its line, and wakes those that wait for it: they acquire
what each core released before it raised its line (R324). -/
def tryPhase (s : State) (t n : Nat) : State :=
  if (treeCores s t).all (fun c => (phaseOf s c t).hasRaised n) && decide (tget 0 s.sched.released t < n) then
    let s := { s with sched := { s.sched with released := tset s.sched.released t n } }
    (s.cores.map (fun (x : Nat × Core) => x.1)).foldl (fun s c =>
      ((s.core c).warps.map (fun (x : Nat × Warp) => x.1)).foldl (fun s w =>
        match (s.warp c w).susp with
        | .phwait t' p => if t' = t ∧ p ≤ n then wakeWarp (acquirePoint s c w .pk [] none) c w 5 else s
        | _ => s) s) s
  else s

/-- Raise a core's line when its arrivals equal the declared count and what its PHASE released has performed (R187, R324); its
next phase becomes the current one. -/
def tryRaise (s : State) (c t : Nat) : State :=
  let p := phaseOf s c t
  match p.declared with
  | some n =>
    if !p.raised && decide (n ≤ p.cur.length) && p.rel.all (fun i => (getReq s i).isNone) then
      tryPhase (setPhase s c t { p with raised := true, cur := p.nxt, nxt := [], rel := none }) t p.last
    else s
  | none => s

/-- The lines of a core that wait for what their PHASE released. -/
def servePhases (s : State) (c : Nat) : State := ((s.core c).phases.map (fun (x : Nat × Phase) => x.1)).foldl (fun s t => tryRaise s c t) s

/-- A dropped arrival is written to a record (R187, R392). -/
def dropArrival (s : State) (c src : Nat) : State :=
  postPlain s { plainRecord s .barrierFault 0 src 5 0xFFFFFFFF 0 with core := c }

/-- A counted arrival for (t, P) at a core, from the agent of a source; one beyond the declared count is dropped (R187). -/
def phaseArrival (s : State) (c : Nat) (tag : Word) (src : Nat) : State :=
  let t := (tag.extractLsb' 0 3).toNat
  let n := (tag.extractLsb' 3 29).toNat
  let p := phaseOf s c t
  let full := p.declared.isSome && !p.raised && p.declared == some p.cur.length
  if n = p.current then
    if full then dropArrival s c src else tryRaise (setPhase s c t { p with cur := p.cur ++ [src] }) c t
  else if n = p.current + 1 then setPhase s c t { p with nxt := p.nxt ++ [src] }
  else dropArrival s c src

/-- PHASE declares the arrivals that its core expects for (t, P). -/
def runPhase (a : BitVec 7) (b : SSrc) (s0 s : State) : Run :=
  let v := b.val s0.me
  let t := (v.extractLsb' 0 3).toNat
  let n := (v.extractLsb' 3 29).toNat
  let cnt := (sGet s0.me a).toNat
  let c := s0.cur.core
  let p := phaseOf s0 c t
  if n != p.last + 1 || !(treeCores s0 t).contains c then .error (.of .barrierFault)
  else
    let (rel, s) := releasePoint s c s.cur.warp (here s) .pk
    -- a declaration while the line of the phase before is still down takes over that phase's place
    let down := p.current != n
    let got := if down then p.nxt else p.cur
    let p' : Phase :=
      { last := n, declared := some cnt, raised := false, cur := got.take cnt, nxt := if down then [] else p.nxt, rel := some rel,
        skipped := if down then p.skipped ++ [p.last] else p.skipped }
    .ok (tryRaise ((got.drop cnt).foldl (fun s src => dropArrival s c src) (setPhase s c t p')) c t)

def runPhwait (b : SSrc) (s0 s : State) : Run :=
  notInRegion s0 <|
    let v := b.val s0.me
    let t := (v.extractLsb' 0 3).toNat
    let n := (v.extractLsb' 3 29).toNat
    if n ≤ tget 0 s0.sched.released t then .ok (switchPoint (acquirePoint s s.cur.core s.cur.warp .pk [] none))
    else .ok (suspend s0 s (.phwait t n))

/-! ## The meanings -/

def execWaita (g : Guard) (mask : Byte) (n : BitVec 6) (s : State) : Out := slotExec (.waita g mask n) (runWaita mask n) s
def execTwait (g : Guard) (pred : Bool) (num : BitVec 3) (h : BitVec 7) (mask : Byte) (watch : Bool) (s : State) : Out :=
  slotExec (.twait g pred num h mask watch) (runTwait pred num h mask watch) s
def execBar (g : Guard) (b : SSrc) (num : BitVec 4) (arrive : Bool) (s : State) : Out :=
  slotExec (.bar g b num arrive) (runBar b num arrive) s
def execBarq (g : Guard) (b : SSrc) (num : BitVec 4) (arrive : Bool) (s : State) : Out :=
  slotExec (.barq g b num arrive) (runBarq b num arrive) s
def execPhase (g : Guard) (a : BitVec 7) (b : SSrc) (s : State) : Out := slotExec (.phase g a b) (runPhase a b) s
def execPhwait (g : Guard) (b : SSrc) (s : State) : Out := slotExec (.phwait g b) (runPhwait b) s

end Sys2Proof.Machine
end

