-- ==== Sys2Proof/Machine/Stream.lean ====
section
/-!
DEFINITION. The stream instructions STSET, STAPP and STCMT (R249 to R252), with the hand-over of guide records (R399).
-/
namespace Sys2Proof.Machine

/-- A descriptor of the issuing group. -/
def zGet (s : State) (k : Nat) : ZDesc := tget .reset s.myGroup.z k

def zSet (s : State) (k : Nat) (d : ZDesc) : State := s.updMyGroup (fun g => { g with z := tset g.z k d })

/-- The scratchpad offset of a byte of the stream view (R249, R296). -/
def streamOff (s : State) (a : Nat) : Nat := (wrapAddr (tget 0 s.me.segBase sgt.toNat) a).toNat

/-- A span of the stream view that the segment or the scratchpad itself does not hold (R160, R263). -/
def streamBeyond (s : State) (o n : Nat) : Bool :=
  decide ((tget 0 s.me.segLimit sgt.toNat).toNat < o + n) || decide (s.myCore.carve * 2 ^ 20 < streamOff s o + n)

/-- The segment-limit trap of a span of the stream view. -/
def streamTrap (s : State) (o : Nat) : Trap := ⟨.segmentLimit, 0, wrapAddr (tget 0 s.me.segBase sgt.toNat) o, 0, 1, []⟩

/-- The descriptors that a stream instruction sees: those before the STSETs of its own bundle (R250). -/
def zSeen (s : State) : Table ZDesc := s.cur.zset.foldl (fun z x => tset z x.1 x.2) s.myGroup.z

/-- Descriptors changed by a stream instruction, with those of its bundle's STSETs in force. -/
def zPut (s : State) (z : Table ZDesc) : State :=
  s.updMyGroup (fun g => { g with z := s.cur.zset.foldl (fun z x => tset z x.1 (tget .reset g.z x.1)) z })

/-- STSET: the checks, then the new descriptor, and a zero header word at the access point (R250). -/
def runStset (k : BitVec 4) (cap base : BitVec 7) (s0 s : State) : Run :=
  let b := sGet s0.me base
  let c := (sGet s0.me cap).toNat
  let o := (b.extractLsb' 0 24).toNat
  if b.extractLsb' 24 8 != 0 || c > 4194303 then .error (.of .illegalOperand)
  else if streamBeyond s0 o (4 + 4 * c) then .error (streamTrap s0 o)
  else if o % 4 != 0 || streamOff s0 o % 4 != 0 then
    .error ⟨.misalignedAccess, 0, wrapAddr (tget 0 s0.me.segBase sgt.toNat) o, 0, 1, []⟩
  else
    let s := { s with cur := { s.cur with zset := s.cur.zset ++ [(k.toNat, zGet s k.toNat)] } }
    .ok (addAccess (zSet s k.toNat ⟨o, c, 0, 0, 0⟩) 2 (.store 4 [(streamOff s0 o, 0)]))

/-- The appends of STAPP lane by lane: the group's descriptors and the words written, with their places. -/
def appendLanes (s : State) (zb nk : Nat) (key val : VReg) :
    List Nat → Table ZDesc → List (SpadLane × Word) → Table ZDesc × List (SpadLane × Word)
  | [], z, l => (z, l)
  | i :: r, z, l =>
    let k := (key.lane i).toNat
    if k ≥ nk then
      let d := tget .reset z zb
      appendLanes s zb nk key val r (tset z zb { d with drop := d.drop + 1 }) l
    else
      let d := tget .reset z (zb + k)
      if d.count < d.cap then
        appendLanes s zb nk key val r (tset z (zb + k) { d with count := d.count + 1 })
          (l ++ [(⟨i, s.cur.core, streamOff s (d.base + 4 + 4 * d.count)⟩, val.lane i)])
      else appendLanes s zb nk key val r (tset z (zb + k) { d with drop := d.drop + 1 }) l

/-- A word that STAPP appends beyond the segment or the scratchpad (R160, R263). -/
def appendBad (s : State) (x : SpadLane × Word) : Option BadLane :=
  let a := BitVec.ofNat 64 x.1.off
  if streamBeyond s (a - tget 0 s.me.segBase sgt.toNat).toNat 4 then some ⟨x.1.lane, a, .segmentLimit, 0⟩ else none

/-- STAPP: the counts change at issue and the words are written at the access point (R251). -/
def runStapp (p : Guard) (v key : Spec) (zb nk : BitVec 4) (s0 s : State) : Run :=
  let m := activeMask s0 p
  let val := srcVal s0 immInt v
  let k := srcVal s0 immNat key
  if (val.poison ||| k.poison) &&& m != 0 then .error (poisonTrap ((val.poison ||| k.poison) &&& m) 1)
  else
    let (z, l) := appendLanes s0 zb.toNat (nk.toNat + 1) k val (lanesOf m) (zSeen s) []
    let n := wordCount (wordRanks (l.map (·.1)) [])
    match badTrap 1 (l.filterMap (appendBad s0)) with
    | some tr => .error tr
    | none =>
    if sigmaFault s0 n then .error (.timing 11)
    else
      let s := zPut s z
      if l.isEmpty then .ok s
      else .ok (noteSigma (addAccess s 2 (.store 4 (l.map (fun x => (x.1.off, x.2))))) n)

/-- The header word of a descriptor (R252). -/
def headerWord (d : ZDesc) : Word := BitVec.ofNat 32 (min d.drop 1023 * 2 ^ 22 + d.count)

/-- The scratchpad offset of a semaphore word given relative to the sgs base of the grid's group on a core; none where
no such group is resident (R252, R311). -/
def groupBaseOn (s : State) (grid c : Nat) : Option (Nat × Nat × Group) :=
  (s.sched.groups.find? (fun x => x.2.core == c && x.2.grid == grid &&
    (x.2.status == .resident || x.2.status == .leaving))).map (fun x => (x.2.region, x.1, x.2))

/-- STCMT: header, release, of the header too, and increment (R252); z15 at .pk without a semaphore hands send records over on a G-core
(R399). -/
def runStcmt (k : BitVec 4) (sc : Scope) (dest : BitVec 7) (n : Byte) (s0 s : State) : Run :=
  let a := sGet s0.me dest
  let c := (a.extractLsb' 24 8).toNat
  let d := tget .reset (zSeen s) k.toNat
  let o := (a.extractLsb' 0 24).toNat
  if c = 0xFF ∧ n ≠ 0 ∨ c ≠ 0xFF ∧ n = 0 then .error (.of .illegalOperand)
  else if c ≠ 0xFF ∧ o % 4 ≠ 0 then .error ⟨.misalignedAccess, 0, BitVec.ofNat 64 o, 0, 1, []⟩
  else if streamBeyond s0 d.base 4 then .error (streamTrap s0 d.base)
  else
    let (rel, s) := releasePoint s s.cur.core s.cur.warp (some (s.gcc, s.cur.slot.num + 1)) sc
    let at_ := streamOff s0 d.base
    if c = 0xFF then
      if k = 15 ∧ sc = .pk ∧ dieOf s0.cur.core < 4 then
        let upto := d.count / 16
        let recs := (List.range (upto - d.send)).map (fun i => streamOff s0 (d.base + 4 + 64 * (d.send + i)))
        .ok (addAccess (zPut s (tset (zSeen s) 15 { d with send := max d.send upto })) 2 (.guide at_ (headerWord d) recs rel))
      else .ok (addAccess s 2 (.store 4 [(at_, headerWord d)]))
    else .ok (addAccess s 2 (.stcmt at_ (headerWord d) c o n.toNat sc (some rel)))

/-! ## The meanings -/

def execStset (p : Guard) (k : BitVec 4) (cap base : BitVec 7) (s : State) : Out :=
  slotExec (.stset p k cap base) (runStset k cap base) s
def execStapp (p : Guard) (val key : Spec) (zb nk : BitVec 4) (ad : Bool) (s : State) : Out :=
  slotExec (.stapp p val key zb nk ad) (runStapp p val key zb nk) s
def execStcmt (p : Guard) (k : BitVec 4) (sc : Scope) (dest : BitVec 7) (n : Byte) (s : State) : Out :=
  slotExec (.stcmt p k sc dest n) (runStcmt k sc dest n) s

end Sys2Proof.Machine
end

