-- ==== Sys2Proof/Machine/Plant.lean ====
section
/-!
DEFINITION. Power and clock (R16, R17, R461 to R466): the operations on a quad, its clock and rail, the wake bits and
WFW, and the CRC-32 that guards images (R203).
-/
namespace Sys2Proof.Machine

/-! ## CRC-32 (R203) -/

/-- Shift one bit through the reflected polynomial. -/
def crcBit (c : Word) : Word := if c.getLsbD 0 then (c >>> 1) ^^^ 0xEDB88320 else c >>> 1

def crcByte (c : Word) (b : Byte) : Word :=
  let c := c ^^^ b.setWidth 32
  crcBit (crcBit (crcBit (crcBit (crcBit (crcBit (crcBit (crcBit c)))))))

/-- CRC-32 of IEEE 802.3. -/
def crc32 (l : List Byte) : Word := l.foldl crcByte 0xFFFFFFFF ^^^ 0xFFFFFFFF

/-! ## Quads (R461, R464) -/

def quadState (s : State) (q : Nat) : Quad := tget .reset s.pt.quads q

def setQuad (s : State) (q : Nat) (x : Quad) : State := { s with pt := { s.pt with quads := tset s.pt.quads q x } }

/-- Set pm.qstat.ERR. -/
def quadErr (s : State) (q : Nat) : State := setQuad s q { quadState s q with err := true }

/-- The cores of a quad. -/
def quadCores (q : Nat) : List Nat := [4 * q, 4 * q + 1, 4 * q + 2, 4 * q + 3]

/-- The resident groups of a quad. -/
def quadResidents (s : State) (q : Nat) : List Nat := (quadCores q).foldl (fun l c => l ++ (s.residentOn c).map (·.1)) []

/-- The resident groups of a quad are to be swapped out (R370), as a pre-emption. -/
def expelQuad (s : State) (q : Nat) : State :=
  (quadResidents s q).foldl (fun s h => if (s.group h).status == .resident then groupLeaves s h .preemption none 16 else s) s

/-- The base of the retention area of a quad. -/
def retBase (x : Quad) : Nat := x.retbase.toNat * 4096

/-- Whether 1 MiB from an address lies in the capacity tier, aligned, outside the checkpoint region (R464). -/
def retOk (a : Nat) : Bool :=
  a % 2 ^ 20 == 0 && decide (0x10000000000 ≤ a) && decide (a + 2 ^ 20 ≤ 0x30000000000) &&
    (decide (a + 2 ^ 20 ≤ Config.ckptBase) || decide (Config.ckptBase + 1088 * 2 ^ 30 ≤ a))

/-- Whether an operation of a quad is accepted (R464); a value that is no operation is ignored. -/
def opOk (x : Quad) : Nat → Bool
  | 1 => x.st == 0
  | 2 => x.st == 2 && retOk (retBase x)
  | 3 => x.st == 4 && !x.gate && x.lvl == 0 && x.ok
  | 4 => x.st == 2
  | _ => true

/-- An accepted operation: 1 quiesce, 2 save core state, 3 restore it, 4 re-admit. -/
def opDo (s : State) (q : Nat) : Nat → State
  | 1 => expelQuad (setQuad s q { quadState s q with st := 1 }) q
  | 2 => setQuad s q { quadState s q with st := 3 }
  | 3 => setQuad s q { quadState s q with st := 5 }
  | 4 => setQuad s q { quadState s q with st := 0 }
  | _ => s

/-- An operation of a quad; one that is not accepted sets ERR. -/
def opQuad (n : Nat) (s : State) (q : Nat) : State := if opOk (quadState s q) n then opDo s q n else quadErr s q

/-- A write of pm.qctl: the quad, then the operation (R461). A refused quad, or an operation that is not accepted, sets ERR of the
quad named so far and changes nothing else. -/
def writeQctl (s : State) (v : Word) : State :=
  let q := (v.extractLsb' 8 6).toNat
  let n := (v.extractLsb' 0 3).toNat
  if q = 32 ∨ q > 35 ∨ !opOk (quadState s q) n then quadErr s s.pt.qsel
  else opDo { s with pt := { s.pt with qsel := q } } q n

/-- pm.qstat. -/
def readQstat (s : State) : Word :=
  let x := quadState s s.pt.qsel
  BitVec.ofNat 32 (x.st + (if x.err then 8 else 0))

/-- A write of pm.clk.GATE for a quad (R465). -/
def writeGate (s : State) (q : Nat) (on : Bool) : State :=
  let x := quadState s q
  if on then (if x.st = 4 then setQuad s q { x with gate := true } else quadErr s q)
  else if x.lvl = 0 ∧ x.ok then setQuad s q { x with gate := false }
  else quadErr s q

/-- The bound on the settling of a rail (R465). -/
def railBound (old new : Nat) : Nat :=
  match old, new with
  | 0, _ => 4500
  | 1, 2 => 4500
  | 1, _ => 9000
  | _, _ => 45000

/-- The commands of a group's warps that wait at markers. -/
def isHold (x : ECmd) : Bool := match x.op with | .hold .. => true | _ => false

/-- A core that has lost its state. What stands for the saved contexts of groups that wait for it is kept. -/
def Core.lost (k : Core) : Core :=
  { Core.reset with
    enabled := k.enabled, warps := k.warps.filter (fun w => decide (32 ≤ w.1)), pw := k.pw.filter (fun p => decide (32 ≤ p.warp))
    ecmds := k.ecmds.filter isHold }

/-- Whether every quad of a die is off: the die is in Die off (R461). -/
def railsOff (s : State) (d : Nat) : Bool := [0, 1, 2, 3].all (fun i => (quadState s (4 * d + i)).lvl == 2)

/-- The state of a die whose quads are all off is lost, and its memory is absent; it is present again once a rail
leaves LVL 2 (R456, R461). -/
def dieOff (s : State) (d : Nat) : State :=
  let off := railsOff s d
  let die := tget .reset s.pt.dies d
  if off && die.present then
    let cs := List.range 16
    let s := cs.foldl (fun s i => s.updCore (16 * d + i) Core.lost) s
    { s with pt := { s.pt with dies := tset s.pt.dies d { die with present := false } }
             ms := { s.ms with mem := s.ms.mem.filter (fun x => homeDie x.1 != some d)
                               l2 := s.ms.l2.filter (fun ln => homeDie (ln * 128) != some d)
                               rdc := tdel s.ms.rdc d
                               poisoned := s.ms.poisoned.filter (fun ln => homeDie (ln * 128) != some d) } }
  else if !off && !die.present && (List.range 16).any (fun i => (s.core (16 * d + i)).enabled) then
    { s with pt := { s.pt with dies := tset s.pt.dies d { die with present := true } } }
  else s

/-- A write of pm.rail.LVL for a quad (R465): an accepted one clears OK, which returns within the bound. -/
def writeRail (s : State) (q v : Nat) : State :=
  let x := quadState s q
  if !x.ok ∨ v = 3 ∨ (v ≠ 0 ∧ !x.gate) then quadErr s q
  else
    let (n, s) := s.draw
    let due := s.gcc + 1 + Config.freeNat n % railBound x.lvl v
    dieOff (setQuad s q { x with lvl := v, ok := false, railDue := some due }) (q / 4)

/-- pm.rail. -/
def readRail (s : State) : Word :=
  let x := quadState s s.pt.qsel
  BitVec.ofNat 32 (x.lvl + (if x.ok then 4 else 0))

/-- Sets of pm.wset (R461, R462). -/
def setWake (s : State) (v : Word) : State := { s with pt := { s.pt with pmWake := s.pt.pmWake ||| v } }

/-- Whether a checkpoint stops commands and holds what comes from outside (R445, R446). -/
def inCheckpoint (s : State) : Bool :=
  let st := (s.pt.ckptStat.extractLsb' 0 3).toNat
  st == 1 || st == 2

/-! ## WFW (R265, R462, R466) -/

/-- WFW suspends the warp; a bit set before ends its wait at once. -/
def runWfw (o : S3) (s0 s : State) : Run :=
  notInRegion s0 <|
    let h := (sGet s0.me o.a).toNat
    .ok (suspend s0 s (.wfw (if h = 0 then none else some (s0.gcc + h)) (o.b.val s0.me) o.d))

def execWfw (o : S3) (s : State) : Out := slotExec (.wfw o) (runWfw o) s

/-- A WFW whose bits are there becomes ready (R265). -/
def serveWfw (s : State) (c w : Nat) : State :=
  match (s.warp c w).susp with
  | .wfw _ m d =>
    if s.pt.pmWake &&& m = 0 then s else wakeWarp (s.updWarp c w (fun x => { x with found := some (m, d) })) c w 2
  | _ => s

/-- The read of pm.wake by a WFW that became ready, and the clear, are one step. It comes as the first cycle begins in which the core
can issue again, ahead of every set that reaches pm.wake in that cycle (R462, R466). -/
def readWfw (s : State) (c w : Nat) : State :=
  match (s.warp c w).found with
  | some (m, d) =>
    if (s.warp c w).status = .run ∧ ((s.core c).gated ∨ s.gcc + 1 < (s.core c).free) then s
    else
      { s.updWarp c w (fun x => { sSet x d (s.pt.pmWake &&& m) with found := none }) with
        pt := { s.pt with pmWake := s.pt.pmWake &&& ~~~m } }
  | none => s

/-- What a cycle's end does for the WFWs of a core. -/
def serveWfws (s : State) (c : Nat) : State :=
  ((s.core c).warps.map (·.1)).foldl (fun s w => readWfw (serveWfw s c w) c w) s

/-- The hint of a WFW expires: it returns 0 and clears nothing. -/
def expireWfw (s : State) (c w : Nat) : State :=
  match (s.warp c w).susp with
  | .wfw _ _ d => s.updWarp c w (fun x => endSusp (sSet x d 0))
  | _ => s

/-! ## Events -/

/-- A quad event acts on the quad of `ev.idx`, which is not the system quad. -/
def onQuad (s : State) (ok : Bool) (f : State → Nat → State) : Out :=
  if ok && decide (s.ev.idx < 36) && s.ev.idx != 32 then .next (f s s.ev.idx) else .refused .notEnabled

def execQuiesce (s : State) : Out := onQuad s true (opQuad 1)

/-- The groups are gone: the core caches are written back and invalidated and the handler queues are empty (R464). -/
def finishQuiesce (s : State) (q : Nat) : State :=
  let s := (quadCores q).foldl (fun s c =>
    let s := (((s.core c).cache).map (·.1)).foldl (fun s ln => writeBack s c ln true) s
    s.updCore c (fun k => { k with hqueue := [] })) s
  setQuad s q { quadState s q with st := 2 }

def execQuiesceDone (s : State) : Out :=
  onQuad s ((quadState s s.ev.idx).st == 1 && (quadResidents s s.ev.idx).isEmpty) finishQuiesce

def execSaveCoreState (s : State) : Out := onQuad s true (opQuad 2)

/-- Words with their number ahead. -/
def packList (l : List Nat) : List Nat := l.length :: l

def unpackList : List Nat → List Nat × List Nat
  | [] => ([], [])
  | n :: r => (r.take n, r.drop n)

/-- An optional number as a word. -/
def packOpt : Option Nat → Nat
  | none => 0
  | some n => n + 1

def unpackOpt (n : Nat) : Option Nat := if n = 0 then none else some (n - 1)

/-- The words of a phase tree. -/
def Phase.words (x : Nat × Phase) : List Nat :=
  let p := x.2
  [x.1, p.last, packOpt p.declared, p.raised.toNat, packOpt p.rel] ++ packList p.cur ++ packList p.nxt ++ packList p.skipped

/-- The phase trees that words hold. -/
def phasesOf : Nat → List Nat → Table Phase
  | 0, _ => []
  | n + 1, l =>
    let (cur, r) := unpackList (l.drop 5)
    let (nxt, r) := unpackList r
    let (skipped, r) := unpackList r
    (l.getD 0 0, ⟨l.getD 1 0, unpackOpt (l.getD 2 0), l.getD 3 0 != 0, cur, nxt, unpackOpt (l.getD 4 0), skipped⟩) :: phasesOf n r

/-- The logic state of a core as words: its registers and what its engine's registers hold. Its memories are no part of it (R456,
R464). -/
def Core.logic (k : Core) : List Nat :=
  [k.carve, k.gates, k.wakewhy.toNat, k.dbg.toNat, k.bpl.toNat, k.bph.toNat, k.eng.rpl, k.eng.ov.toNat, k.eng.flt.toNat, k.eng.fcode,
   k.eng.fltStep, k.eng.fltWarp, k.eng.fltSeen.toNat, k.phases.length] ++ k.phases.flatMap Phase.words

/-- A core with the logic state that words hold. -/
def Core.reload (l : List Nat) (k : Core) : Core :=
  let g (i : Nat) : Nat := l.getD i 0
  let dbg : Word := BitVec.ofNat 32 (g 3)
  { k with
    carve := g 0, gates := g 1, wakewhy := BitVec.ofNat 8 (g 2), dbg := dbg, bpl := BitVec.ofNat 32 (g 4), bph := BitVec.ofNat 32 (g 5)
    halt := if dbg.extractLsb' 5 2 = 2 then some 0 else Option.none, phases := phasesOf (min (g 13) l.length) (l.drop 14)
    eng := { k.eng with
      rpl := g 6, ov := g 7 != 0, flt := g 8 != 0, fcode := g 9, fltStep := g 10, fltWarp := g 11, fltSeen := g 12 != 0 } }

/-- Bytes under the mask of the layout. -/
def hideBytes (l : List Byte) : List Byte := l.zipIdx.map (fun x => x.1 ^^^ Config.retentionMask x.2)

/-- The image a core writes: the number of its words, the words, and its CRC at the end (R464). -/
def retImage (k : Core) : List Byte :=
  let l := hideBytes (((packList k.logic).flatMap (bytesOf 8)).take 0x3FFFC)
  l ++ bytesOf 4 (crc32 l).toNat

/-- Store bytes at a physical address, line by line, each at its home. -/
def storeSpan (s : State) (pa : Nat) (l : List Byte) : State :=
  (cutLines pa l).foldl (fun s x => homeWrite (netAccess s (lineOf x.1)) x.1 x.2) s

/-- The image of the core at a position. -/
def imageAt (x : Quad) (p : Nat) : Nat := retBase x + 0x40000 * p

/-- Write the four images of a quad. -/
def finishSave (s : State) (q : Nat) : State :=
  let s := [0, 1, 2, 3].foldl (fun (s : State) p => storeSpan s (imageAt (quadState s q) p) (retImage (s.core (4 * q + p)))) s
  setQuad s q { quadState s q with st := 4 }

def execSaveDone (s : State) : Out := onQuad s ((quadState s s.ev.idx).st == 3) finishSave

def execRestoreCoreState (s : State) : Out := onQuad s true (opQuad 3)

/-- The length of an image that starts at an address, by its first word. -/
def imageLen (s : State) (a : Nat) : Nat := min (8 + 8 * field (hideBytes (memBytes s.ms.mem a 8)) 0 8) 0x3FFFC

/-- The lines of an image that starts at an address, its CRC included. -/
def imageLines (s : State) (a : Nat) : List Nat := (List.range ((imageLen s a + 131) / 128)).map (fun i => lineOf a + i)

/-- The words of an image, when it carries its CRC and no line of it is poisoned. -/
def readImage (s : State) (a : Nat) : Option (List Nat) :=
  let n := imageLen s a
  let b := memBytes s.ms.mem a (n + 4)
  if (imageLines s a).any s.ms.poisoned.contains || (crc32 (b.take n)).toNat != field b n 4 then none
  else some ((List.range ((n - 8) / 8)).map (fun i => field (hideBytes b) (8 * i + 8) 8))

/-- The images of a quad are read, checked and reloaded; one that does not match its CRC leaves the quad in ST 4 (R464). -/
def finishRestore (s : State) (q : Nat) : State :=
  let x := quadState s q
  let s := netAll s ([0, 1, 2, 3].flatMap (fun p => imageLines s (imageAt x p)))
  let l := [0, 1, 2, 3].map (fun p => readImage s (imageAt x p))
  if l.all Option.isSome then
    let s := ((quadCores q).zip l).foldl (fun (s : State) y => s.updCore y.1 (Core.reload (y.2.getD []))) s
    setQuad s q { x with st := 2 }
  else setQuad s q { x with st := 4, err := true }

def execRestoreDone (s : State) : Out := onQuad s ((quadState s s.ev.idx).st == 5) finishRestore

def execReadmit (s : State) : Out := onQuad s true (opQuad 4)

def execPmClkGate (s : State) : Out := onQuad s true (fun s q => writeGate s q s.ev.write)

def execPmRailLevel (s : State) : Out := onQuad s true (fun s q => writeRail s q (s.ev.val.toNat % 4))

def execRailSettled (s : State) : Out :=
  let due := match (quadState s s.ev.idx).railDue with | some d => decide (d ≤ s.gcc) | none => false
  onQuad s due (fun s q => setQuad s q { quadState s q with ok := true, railDue := none })

def execPmWset (s : State) : Out := .next (setWake s (s.ev.val.extractLsb' 0 32))

def execWfwTimeout (s : State) : Out :=
  match (s.warp s.ev.core s.ev.warp).susp with
  | .wfw (some d) m _ =>
    if d ≤ s.gcc ∧ s.pt.pmWake &&& m = 0 then .next (expireWfw s s.ev.core s.ev.warp) else .refused .notEnabled
  | _ => .refused .notEnabled

/-- Whether a static region is open or a timed transfer is in flight anywhere (R16). -/
def phaseOpen (s : State) : Bool :=
  s.cores.any (fun x => !x.2.packets.isEmpty || x.2.warps.any (fun y => y.2.region.isSome))

/-- Markhor lowers the voltages and throttles issue, or ends it (R17). -/
def execPowerThrottle (s : State) : Out := .next { s with pt := { s.pt with throttle := s.ev.write } }

end Sys2Proof.Machine
end

