-- ==== Sys2Proof/Machine/Matrix.lean ====
section
/-!
DEFINITION. The matrix engine: the arithmetic of a block (R92), formats and layouts (R197 to R201), the queue and the
start of routines (R207, R218, R219), the steps (R208 to R217), their faults (R223) and the cycles in which rows enter,
land and drain (R214, R215, R218, R229).
-/
namespace Sys2Proof.Machine

/-! ## Formats (R197, R198) -/

/-- The class field of mfmt. -/
def fmtClass (f : Byte) : Nat := (f.extractLsb' 5 3).toNat

/-- Whether a value of mfmt is legal (R197): its reserved bit is ignored (R6). -/
def fmtOk (f : Byte) : Bool :=
  match fmtClass f with
  | 0 => true
  | 1 => f.extractLsb' 1 4 == 0b1100#4
  | 2 => f.extractLsb' 3 2 == 0#2
  | 3 | 4 => f.extractLsb' 1 4 == 0#4
  | _ => false

/-- Bytes of a block of 32 elements. -/
def fmtEB (f : Byte) : Nat :=
  match fmtClass f with
  | 1 => 16
  | 3 | 4 => 64
  | _ => 32

/-- The largest KB of the class. -/
def fmtKM (f : Byte) : Nat :=
  match fmtClass f with
  | 1 => 16
  | 3 | 4 => 2
  | _ => 8

/-- Rows of A, or columns of B, per register. -/
def fmtPer (f : Byte) : Nat :=
  match fmtClass f with
  | 3 | 4 => 4
  | _ => 2

/-- Rows per register of scales (R200). -/
def fmtSr (f : Byte) : Nat := 512 / fmtKM f

def fmtAs (f : Byte) : Bool := f.getLsbD 4
def fmtBs (f : Byte) : Bool := f.getLsbD 3

/-- The element format of A (`b = false`) or B under a class of floating-point elements. -/
def fmtElem (f : Byte) (b : Bool) : Fmt :=
  match fmtClass f with
  | 1 => .e2m1
  | 3 => .h16
  | 4 => .bf16
  | _ => if f.getLsbD (if b then 1 else 2) then .e5m2 else .e4m3

/-- What a stationary must share with a routine: the class, and the type and scaling of B (R212). That its scaling counts is a DESIGN
CHOICE, log entry 129. -/
def fmtKeyB (f : Byte) : Byte := f &&& 0b11101010

/-! ## The arithmetic of R92 -/

/-- Element `k` of a block's bytes. -/
def blockElem (bits : Nat) (l : List Byte) (k : Nat) : Nat :=
  match bits with
  | 4 => (l.getD (k / 2) 0).toNat / (if k % 2 = 0 then 1 else 16) % 16
  | 16 => (l.getD (2 * k) 0).toNat + 256 * (l.getD (2 * k + 1) 0).toNat
  | _ => (l.getD k 0).toNat

/-- An exact sum of products, or a NaN, or an infinity. -/
def blockSum (ps : List (FVal × FVal)) : FVal :=
  let ts := ps.map (fun x => prodTerm x.1 x.2)
  let vs := (ts.map (·.2)).flatten
  if ps.any (fun x => x.1.isNan || x.2.isNan) || ts.any (·.1) ||
      (vs.contains (.inf false) && vs.contains (.inf true)) then .nan false 0 false
  else if vs.contains (.inf false) then .inf false
  else if vs.contains (.inf true) then .inf true
  else
    let x := vs.foldl (fun (a : Exact) t => match t with
      | .num s m e => Exact.add a ⟨if s then -(m : Int) else (m : Int), e⟩
      | _ => a) ⟨0, 0⟩
    if x.n = 0 then .num (vs.all (fun t => match t with | .num s _ _ => s | _ => false)) 0 0
    else .num (decide (x.n < 0)) x.n.natAbs x.e

/-- The value of a block: the sum times its scales; a scale of 0xFF makes it a NaN. -/
def scaleBlock (v : FVal) (sa sb : Option Byte) : FVal :=
  let sc (o : Option Byte) : Option Int := match o with | some b => scaleExp b | none => some 0
  match sc sa, sc sb with
  | some a, some b =>
    (match v with
      | .num s m e => .num s m (e + a + b)
      | v => v)
  | _, _ => .nan false 0 false

/-- The accumulator plus the value of a block, rounded once. -/
def accAdd (acc : Word) (v : FVal) : Word :=
  let a := decodeF .f32 acc.toNat
  BitVec.ofNat 32 (sumTerms .f32 .plain .rne false [a, v] false [a, v]).1

/-- The element of an INT8 operand. -/
def intElem (uns : Bool) (x : Nat) : Int := if uns then x else (BitVec.ofNat 8 x).toInt

/-- One block of A on one block of B, added to an accumulator. -/
def accBlock (f : Byte) (acc : Word) (a b : List Byte) (sa sb : Option Byte) : Word :=
  if fmtClass f = 2 then
    acc + BitVec.ofInt 32 ((List.range 32).foldl (fun s k =>
      s + intElem (f.getLsbD 2) (blockElem 8 a k) * intElem (f.getLsbD 1) (blockElem 8 b k)) 0)
  else
    let fa := fmtElem f false
    let fb := fmtElem f true
    accAdd acc (scaleBlock (blockSum ((List.range 32).map (fun k =>
      (decodeF fa (blockElem fa.width a k), decodeF fb (blockElem fb.width b k))))) sa sb)

/-! ## Fragments in registers (R199, R200) -/

/-- The bytes of a register, lane 0 first. -/
def regBytes (v : VReg) : List Byte := (v.lanes.map (fun w => bytesOf 4 w.toNat)).flatten

/-- Row or column `x` of a register: its elements, and whether a lane of the first KB blocks is poisoned. -/
def fragOf (f : Byte) (v : VReg) (x kb : Nat) : List Byte × Bool :=
  let bytes := 512 / fmtPer f
  let o := bytes * (x % fmtPer f)
  let n := kb * fmtEB f
  (((regBytes v).drop o).take n, (List.range (n / 4)).any (fun i => v.poison.getLsbD (o / 4 + i)))

/-- The scales of row or column `x`, and whether one of their lanes is poisoned. -/
def scalesOf (f : Byte) (v : VReg) (x kb : Nat) : List Byte × Bool :=
  let z := x % fmtSr f * fmtKM f
  (((regBytes v).drop z).take kb, (List.range kb).any (fun b => v.poison.getLsbD ((z + b) / 4)))

/-! ## The engine of a core -/

def engOf (s : State) (c : Nat) : Engine := (s.core c).eng

def updEng (s : State) (c : Nat) (f : Engine → Engine) : State := s.updCore c (fun k => { k with eng := f k.eng })

def Engine.wbuf (e : Engine) (b : Bool) : WBuf := if b then e.wb1 else e.wb0

def Engine.setWbuf (e : Engine) (b : Bool) (x : WBuf) : Engine := if b then { e with wb1 := x } else { e with wb0 := x }

/-- The number of a row of a bank. -/
def rowKey (bk : Bool) (r : Nat) : Nat := (if bk then 256 else 0) + r

def accGet (e : Engine) (key n : Nat) : Word := tget 0 e.acc (key * 256 + n)

def accSet (t : Table Word) (key n : Nat) (w : Word) : Table Word :=
  if w = 0 then tdel t (key * 256 + n) else tset t (key * 256 + n) w

/-- A whole row becomes zero and its poison clears (R213, R215). -/
def zeroRow (e : Engine) (key : Nat) : Engine :=
  { e with
    acc := e.acc.filter (fun x => x.1 / 256 != key)
    rowPoison := e.rowPoison.filter (· != key) }

def setRowPoison (e : Engine) (key : Nat) (b : Bool) : Engine :=
  { e with rowPoison := if b then (if e.rowPoison.contains key then e.rowPoison else e.rowPoison ++ [key])
      else e.rowPoison.filter (· != key) }

/-- Whether the issuing warp's group holds the lease of its core (R194). -/
def holdsLease (s : State) : Bool := (engOf s s.cur.core).holder == some s.me.handle && s.me.handlerOf.isNone

/-! ## Faults (R223) -/

/-- A suspended warp as it stood before its switch-point bundle. -/
def backToSwitch (w : Warp) : Warp :=
  let w := { w with susp := .none, also := [] }
  match w.sw with
  | some b => { w with entries := b.entries, spilled := b.spilled, loops := b.loops, dl := b.dl, xfer := b.xfer,
                       falls := b.falls, issuer := b.issuer, latches := b.latches, caches := b.caches, lv := b.lv, kv := b.kv }
  | none => w

/-- A warp suspended at a switch point takes a trap at that bundle (R162, R223, R374). -/
def trapSuspended (s : State) (c w : Nat) (tr : Trap) : State :=
  let cur := s.cur
  let s := { s with cur := { Cur.reset with core := c, warp := w } }
  let s := (s.updMyCore (endDrain w)).updMe backToSwitch
  let s := { s with cur := { s.cur with mask := (s.me.sw.map (·.mask)).getD 0 } }
  let s := takeTrapAt s tr ((s.me.sw.map (·.slot)).getD 0) ((s.me.sw.map (·.pc)).getD 0)
  { s with cur := cur }

/-- Mark that the fault of the engine has been reported. -/
def seenFault (s : State) (c : Nat) : State := updEng s c (fun e => { e with fltSeen := true })

/-- Results arrive at once. -/
def arriveRids (s : State) (c : Nat) (rids : List Nat) : State :=
  s.updCore c (fun k => { k with warps := k.warps.map (fun x => (x.1, { x.2 with
    results := x.2.results.map (fun r => if rids.contains r.rid then { r with arrived := true } else r) })) })

/-- The owner of a faulted routine that already waits at a WAITA covering one of its results traps there. -/
def reportFault (s : State) (c w : Nat) (rids : List Nat) : State :=
  match (s.warp c w).susp, (s.warp c w).status with
  | .waita cover, .run =>
    if cover.any (fun i => rids.contains i) then trapSuspended (seenFault s c) c w (.of .matrixFault) else s
  | _, _ => s

/-- The engine of core `c` faults with a code for a warp: the routine and every MCALL behind it are discarded, and their
results arrive. A DRN before the faulting step goes on (R218). -/
def engFault (s : State) (c code w step : Nat) : State :=
  let e := engOf s c
  let own := match e.run with | some r => r.rids | none => []
  let late := (e.queue.map (fun x => match x with | .mcall m => m.rids | .mpsw .. => [])).flatten
  let s := updEng s c (fun e =>
    { e with
      run := e.run.bind (fun r => if r.drain.isSome then some { r with block := .left, rids := [] } else none)
      ldJob := none, arrJob := none, rowJob := none, rows := [], undo := []
      flt := true, fcode := code, fltSeen := false, fltRids := own ++ late, fltWarp := w, fltStep := step % 8192
      queue := e.queue.filter (fun x => match x with | .mcall _ => false | .mpsw .. => true) })
  reportFault (arriveRids s c (own ++ late)) c w (own ++ late)

/-- A row of a bank as it stands. -/
def rowNow (e : Engine) (key : Nat) : EngChange :=
  .row key (e.acc.filter (fun x => x.1 / 256 == key)) (e.rowPoison.contains key)

/-- Whether a step that reads registers and issued before step `rank` still runs. -/
def runsBefore (e : Engine) (rank : Nat) : Bool :=
  e.ldJob.any (fun j => decide (j.rank < rank)) || e.arrJob.any (fun j => decide (j.rank < rank)) ||
    e.rowJob.any (fun j => decide (j.rank < rank))

/-- Remember what step `rank` is about to change, while a step before it may still fault (R218). -/
def noteChange (rank : Nat) (x : EngChange) (e : Engine) : Engine :=
  if runsBefore e rank then { e with undo := e.undo ++ [(rank, x)] } else e

/-- Rows that a step is about to change. -/
def noteRows (rank : Nat) (keys : List Nat) (e : Engine) : Engine :=
  keys.foldl (fun e k => noteChange rank (rowNow e k) e) e

/-- A remembered change is taken back. -/
def takeBack (x : EngChange) (e : Engine) : Engine :=
  match x with
  | .row key cells po => setRowPoison { e with
      acc := cells.foldl (fun t y => tset t y.1 y.2) (e.acc.filter (fun y => y.1 / 256 != key))
      release := e.release.filter (· != key) } key po
  | .tiles a b => { e with active := a, shadow := b }

/-- Step `rank` has faulted: what the steps behind it have done is taken back, and they run no more (R218, R223). -/
def undoAfter (rank : Nat) (e : Engine) : Engine :=
  let e := (e.undo.filter (fun x => decide (rank < x.1))).foldr (fun x e => takeBack x.2 e) e
  { e with
    undo := e.undo.filter (fun x => decide (x.1 ≤ rank))
    ldJob := e.ldJob.filter (fun j => decide (j.rank < rank)), arrJob := e.arrJob.filter (fun j => decide (j.rank < rank))
    rowJob := e.rowJob.filter (fun j => decide (j.rank < rank)) }

/-- A fault found in a step of the running routine: the routine stops at that step, and the engine faults once the steps before
it have finished (R218, R223). -/
def foundFault (s : State) (c code rank step : Nat) : State :=
  updEng s c (fun e =>
    let e := undoAfter rank e
    { e with run := e.run.map (fun r =>
      { r with block := .fault code step, drain := r.drain.filter (fun d => decide (d.rank < rank)) }) })

/-- A fault of the step that the running routine has come to. -/
def runFault (s : State) (c code : Nat) : State :=
  match (engOf s c).run with
  | some r => foundFault s c code r.rank (r.base + r.pos)
  | none => s

/-- FCLR clears the fault and empties the queue (R224). -/
def clearFault (s : State) (c : Nat) : State :=
  let e := engOf s c
  let late := (e.queue.map (fun x => match x with | .mcall m => m.rids | .mpsw .. => [])).flatten
  arriveRids (updEng s c (fun e => { e with flt := false, fcode := 0, queue := [] })) c late

def execFclr (s : State) : Out := .next (clearFault s s.ev.core)

/-! ## Commands of the queue (R207, R218 to R222) -/

/-- The cycle at which a command of a static region starts (R228, R232), or the trap of one that issues too late. -/
def regionStart (s : State) (sco : BitVec 12) : Except Trap (Option Nat) :=
  match s.me.region with
  | none => .ok none
  | some r =>
    let start := r.s + r.z + sco.toNat
    if s.gcc + 4 > start then .error (.timing 6) else .ok (some start)

/-- An operand given as a specifier of 8 or more low bits whose upper bits must be zero. -/
def lowBits (s : State) (n : Nat) (v : ImmOrS) : Option Nat :=
  let x := (v.val s.me).toNat
  if x < 2 ^ n then some x else none

/-- The directory entry that an MCALL issued now sees: that of the last MPSW still queued before it, else the one that stands
(R207). -/
def dirSeen (e : Engine) (k : Nat) : Word :=
  e.queue.foldl (fun d x => match x with
    | .mpsw _ _ v t _ => if t = BitVec.ofNat 32 (2 ^ 31 + k) ∧ v.extractLsb' 32 32 = 0 then v.extractLsb' 0 32 else d
    | .mcall _ => d) (tget 0 e.dir k)

/-- The mfmt that an MCALL captures: an MFMT within the last three bundles is not yet seen (R221). -/
def capturedFmt (w : Warp) : Byte := w.mfmt

def runMcall (x : XCtl) (k o : ImmOrS) (s0 s : State) : Run :=
  let c := s0.cur.core
  let e := engOf s0 c
  if !holdsLease s0 || e.flt || owesFault s0 then .error (.of .matrixFault)
  else
    match lowBits s0 8 k, lowBits s0 13 o with
    | some kn, some on =>
      if inRegion s0 && e.ov then .error (.timing 12)
      else match regionStart s0 x.sco with
        | .error tr => .error tr
        | .ok start =>
          if e.queue.length ≥ 4 then holdQueue s0
          else
            let ns := ((dirSeen e kn).extractLsb' 27 4).toNat
            let n := if x.ae then ns + 1 else 0
            if x.ae && (decide ((s0.me.results.filter (fun r => r.ctr == x.ac)).length + n > 63) ||
                decide (s0.me.results.length + n > 128)) then .error (.of .arrivalOverflow)
            else
              let rids := (List.range n).map (fun i => s.nextId + i)
              let s := { s with nextId := s.nextId + n }
              let s := rids.foldl (fun s i => addResult s (Result.new i x.ac [] 0)) s
              let m : MCall :=
                { id := s.nextId, warp := s.cur.warp, alive := true, k := kn, o := on, q := (List.range 8).map (fun i => tget 0 s0.me.q i)
                  fmt := capturedFmt s0.me, ov := e.ov, ae := x.ae, ns := ns, rids := rids, start := start
                  at_ := if e.queue.isEmpty && e.run.isNone then s0.gcc + 4 else 0, deps := gateIds s0 3 }
              .ok (updEng { s with nextId := s.nextId + 1 } c (fun e => { e with queue := e.queue ++ [.mcall m] }))
    | _, _ => .error (.of .illegalOperand)

def runMpar (q : BitVec 3) (v : ImmOrS) (s0 s : State) : Run :=
  let x : DWord := match v with | .imm b => b.setWidth 64 | .s n => sPairGet s0.me n
  .ok (s.updMe (fun w => { w with q := tset w.q q.toNat x }))

/-- MFMT: the fourth bundle after it is the first that captures the new value (R221). -/
def runMfmt (v : ImmOrS) (s0 s : State) : Run :=
  match lowBits s0 8 v with
  | some x =>
    if fmtOk (BitVec.ofNat 8 x) then
      .ok (s.updMe (fun w => { w with mfmtNext := w.mfmtNext ++ [(4, BitVec.ofNat 8 x &&& 0xFE#8)] }))
    else .error (.of .illegalOperand)
  | none => .error (.of .illegalOperand)

/-- Whether a command is one of the sampler. -/
def EngOp.isTex : EngOp → Bool
  | .tex .. => true
  | _ => false

/-- Register an engine command with its completion (R163, R231); `start` is the cycle that a region has fixed. The first command of
the sampler behind an XFENCE of its path invalidates the texture cache (R248). -/
def addCommand (x : XCtl) (path : Nat) (m : Mask) (todo : List Write) (start : Option Nat) (delay : Nat) (op : EngOp)
    (s0 s : State) : Run :=
  let add (rid : Option Nat) (s : State) : Run :=
    let (id, s) := s.fresh
    let cmd : ECmd :=
      { id := id, warp := s.cur.warp, handle := s.me.handle, rid := rid, level := s.me.level, mask := m, path := path
        due := start.getD (s0.gcc + delay), region := start.isSome, deps := gateIds s0 path
        inval := op.isTex && !(tget [] s0.me.xgate path).isEmpty, op := op }
    let s := if path = 4 ∧ !op.isTex then s else s.updMe (fun w => { w with xgate := tset w.xgate path (gateIds s0 path) })
    .ok (s.updMyCore (fun k => { k with ecmds := k.ecmds ++ [cmd] }))
  if x.ae then register s x.ac fun rid s => add (some rid) (addResult s (Result.new rid x.ac todo m))
  else add none s

/-- A command whose engine starts at once, or at the cycle that its region fixes (R232). -/
def engCommand (x : XCtl) (path : Nat) (m : Mask) (todo : List Write) (delay : Nat) (op : EngOp) (s0 s : State) : Run :=
  match regionStart s0 x.sco with
  | .error tr => .error tr
  | .ok start => addCommand x path m todo start delay op s0 s

/-- MSTAT: sampled two cycles after issue, in a static region too (R222). -/
def runMstat (x : XCtl) (d : BitVec 7) (s0 s : State) : Run :=
  if !holdsLease s0 || owesFault s0 then .error (.of .matrixFault)
  else addCommand x 3 0 [.sreg d 0, .sreg (d + 1) 0] none 2 (.mstat d) s0 s

def runMpsw (v t : BitVec 7) (s0 s : State) : Run :=
  let e := engOf s0 s0.cur.core
  if !holdsLease s0 || e.flt || owesFault s0 then .error (.of .matrixFault)
  else if e.queue.length ≥ 4 then holdQueue s0
  else
    let q := MxCmd.mpsw s.nextId s0.cur.warp (sPairGet s0.me v) (sGet s0.me t) (gateIds s0 3)
    .ok (updEng { s with nextId := s.nextId + 1 } s0.cur.core (fun e => { e with queue := e.queue ++ [q] }))

/-- WST: the buffer becomes FILLING and the fill joins the weight-stream queue (R201, R202). In a static region it takes SCO. DESIGN
CHOICE, log entry 133. -/
def runWst (x : XCtl) (a : BitVec 7) (wb : Bool) (s0 s : State) : Run :=
  let c := s0.cur.core
  let desc := sPairGet s0.me a
  if !holdsLease s0 then .error (.of .matrixFault)
  else if desc.toNat % 64 ≠ 0 then .error ⟨.misalignedAccess, 0, desc, 0, 4, []⟩
  else match regionStart s0 x.sco with
    | .error tr => .error tr
    | .ok start =>
      if (engOf s0 c).fills.length ≥ 8 then holdQueue s0
      else
        let go (rid : Option Nat) (s : State) : Run :=
          let (n, s) := s.draw
          let (id, s) := s.fresh
          let f : Fill :=
            { id := id, wb := wb, desc := desc, warp := s.cur.warp, rid := rid, handle := s.me.handle, level := s.me.level
              due := start.getD s0.gcc + 1 + Config.freeNat n, region := start.isSome, deps := gateIds s0 2 }
          .ok (updEng s c (fun e =>
            let b := e.wbuf wb
            let b := if b.state = .filling then b else { b with state := .filling, err := 0, anyErr := false }
            { e.setWbuf wb b with fills := e.fills ++ [f] }))
        if x.ae then register s x.ac fun rid s => go (some rid) (addResult s (Result.new rid x.ac [] 0))
        else go none s

/-- WSTAT: sampled two cycles after issue, in a static region too (R205). -/
def runWstat (x : XCtl) (d : BitVec 7) (s0 s : State) : Run :=
  if !holdsLease s0 then .error (.of .matrixFault)
  else addCommand x 3 0 [.sreg d 0, .sreg (d + 1) 0] none 2 (.wstat d) s0 s

/-- The word of MSTAT (R222). DROW while the last row stands, and ST with a WAITF and a DRN in progress, are a DESIGN CHOICE, log
entry 130. -/
def mstatWord (e : Engine) : DWord :=
  let d := match e.run with | some r => r.drain | none => none
  let st : Nat :=
    if e.flt then 4
    else match e.run with
      | none => 0
      | some r => match r.block, r.drain with
        | .waitf _, _ => 2
        | _, some _ => 3
        | _, none => 1
  let step := if e.flt then e.fltStep else match e.run with | some r => (r.base + r.pos) % 8192 | none => 0
  let rtn := match e.run with | some r => r.k | none => e.lastK
  let ov := match e.run with | some r => r.ov | none => false
  BitVec.ofNat 64 (st + (match d with | some d => (if d.standing then d.j + 1 else d.j) % 256 | none => 0) * 2 ^ 3 + (if ov then 2 ^ 11 else 0) +
    e.queue.length * 2 ^ 12 + rtn * 2 ^ 15 + step * 2 ^ 23 + (if e.flt then e.fcode else 0) * 2 ^ 40 + e.rplRun * 2 ^ 48)

def FillState.code : FillState → Nat
  | .filled => 0
  | .filling => 1
  | .error => 2

/-- The word of WSTAT (R205). -/
def wstatWord (e : Engine) : DWord :=
  BitVec.ofNat 64 (e.wb0.state.code + e.wb1.state.code * 4 + e.wb0.err.toNat * 2 ^ 16 + e.wb1.err.toNat * 2 ^ 24)

/-! ## The start of routines -/

/-- The start cycle of an entry and whether its gates are open. -/
def mcallReady (s : State) (c : Nat) (m : MCall) : Bool :=
  let e := engOf s c
  e.run.isNone && !e.flt && !e.halting && decide (m.at_ ≤ s.gcc) && decide (e.lastEnd < s.gcc) &&
    (match m.start with | some t => decide (t ≤ s.gcc) | none => true) && m.deps.all (fun d => (getReq s d).isNone)

/-- The MCALL at the head of the queue starts its routine (R218, R219). -/
def startRoutine (s : State) (c : Nat) (m : MCall) : State :=
  let e := engOf s c
  let d := tget 0 e.dir m.k
  let len := (d.extractLsb' 13 14).toNat
  let st := (d.extractLsb' 0 13).toNat
  let r : Routine :=
    { id := m.id, warp := m.warp, alive := m.alive && (s.warp c m.warp).status != .ended && (s.warp c m.warp).status != .free
      k := m.k, base := st, len := len, ns := m.ns, pos := m.o, rank := 0
      q := m.q, fmt := m.fmt, ov := m.ov, ae := m.ae, rids := m.rids, syncs := 0, syncRid := none, loops := []
      drain := none, block := .none, next := s.gcc, done := s.gcc - 1, region := m.start.isSome, stopped := false }
  let s := updEng s c (fun e => { e with queue := e.queue.tail, run := some r, rplRun := 0, lastK := m.k,
                                         syncAt := none, entered := 0, loadFree := 0, arrayFree := 0, rowFree := 0 })
  if !d.getLsbD 31 || st + len > 8192 || m.o ≥ len then engFault s c 8 m.warp (st + m.o) else s

def execRoutineStart (s : State) : Out :=
  match (engOf s s.ev.core).queue with
  | .mcall m :: _ => if mcallReady s s.ev.core m then .next (startRoutine s s.ev.core m) else .refused .notEnabled
  | _ => .refused .notEnabled

/-- An MPSW at the head of the queue writes (R207). -/
def applyMpsw (s : State) (c w : Nat) (v : DWord) (t : Word) : State :=
  let s := updEng s c (fun e => { e with queue := e.queue.tail })
  if t.getLsbD 31 then
    if t.extractLsb' 8 23 = 0 ∧ v.extractLsb' 32 32 = 0 then
      updEng s c (fun e => { e with dir := tset e.dir (t.extractLsb' 0 8).toNat (v.extractLsb' 0 32) })
    else engFault s c 1 w 0
  else if t.extractLsb' 13 18 = 0 then
    updEng s c (fun e => { e with store := tset e.store (t.extractLsb' 0 13).toNat v })
  else engFault s c 1 w 0

def mpswReady (s : State) (c : Nat) (deps : List Nat) : Bool :=
  (engOf s c).run.isNone && !(engOf s c).flt && !(engOf s c).halting && deps.all (fun d => (getReq s d).isNone)

def execMpswApply (s : State) : Out :=
  match (engOf s s.ev.core).queue with
  | .mpsw _ w v t deps :: _ =>
    if mpswReady s s.ev.core deps then .next (applyMpsw s s.ev.core w v t) else .refused .notEnabled
  | _ => .refused .notEnabled

/-! ## Steps (R208 to R217) -/

/-- Add one 16-bit field of a q copy to another (R216). -/
def bumpQ (a b : DWord) : DWord :=
  (a.extractLsb' 48 16 + b.extractLsb' 48 16) ++ ((a.extractLsb' 32 16 + b.extractLsb' 32 16) ++
    ((a.extractLsb' 16 16 + b.extractLsb' 16 16) ++ (a.extractLsb' 0 16 + b.extractLsb' 0 16)))

/-- Close the iterations that end at position `pos` (R216). -/
def closeLoops (r : Routine) : Nat → Routine
  | 0 => r
  | n + 1 =>
    match r.loops.getLast? with
    | none => r
    | some l =>
      if r.pos = l.last + 1 then
        let q := if l.be then r.q.set l.qd.toNat (bumpQ (r.q.getD l.qd.toNat 0) (r.q.getD l.qs.toNat 0)) else r.q
        if l.left > 1 then
          { r with q := q, pos := l.first, loops := r.loops.dropLast ++ [{ l with left := l.left - 1 }] }
        else closeLoops { r with q := q, loops := r.loops.dropLast } n
      else r

/-- Go on to a position, closing loops, with the next step no earlier than the next cycle. -/
def goTo (r : Routine) (pos gcc : Nat) : Routine := closeLoops { r with pos := pos, next := gcc + 1 } 2

/-- Whether the engine of a core can issue a step of its routine in this cycle (R218, condition 1). One that halts issues none
(R225). -/
def stepTurn (s : State) (c : Nat) : Option Routine :=
  match (engOf s c).run with
  | some r => if !r.stopped && !(engOf s c).halting && r.block == .none && decide (r.next ≤ s.gcc) && decide (r.pos < r.len) then some r else none
  | none => none

/-- Rows that every earlier step has finished with (R218, condition 4). -/
def rowsReady (e : Engine) (r : Routine) (gcc : Nat) (bk : Bool) (row m : Nat) : Bool :=
  (List.range m).all (fun j => decide (tget 0 e.rows (rowKey bk (row + j)) ≤ gcc)) &&
  (match r.drain with
    | some d => !(d.bk == bk && decide (row < d.row + d.m) && decide (d.row + d.j < row + m))
    | none => true)

/-- The row unit is free. -/
def rowUnitFree (e : Engine) (r : Routine) (gcc : Nat) : Bool :=
  r.drain.isNone && e.rowJob.isNone && decide (e.rowFree ≤ gcc)

/-- A q offset of a step. -/
def qField (r : Routine) (q : StepQ) (i : Nat) : Nat :=
  if q.qe then ((r.q.getD q.qn.toNat 0).toNat / 2 ^ (16 * i)) % 65536 else 0

/-- Issue a step: it waits for its unit, then faults or takes effect and the routine goes on. -/
def issueStep (s : State) (free : Engine → Routine → Bool) (act : Routine → State → Except Nat State) : Out :=
  match stepTurn s s.ev.core with
  | none => .refused .notEnabled
  | some r =>
    if !free (engOf s s.ev.core) r then .refused .notEnabled
    else match act r s with
      | .error code => .next (runFault s s.ev.core code)
      | .ok s => .next s

/-- The routine goes on to its next step. -/
def stepOn (s : State) (f : Engine → Engine) (g : Routine → Routine) : State :=
  updEng s s.ev.core (fun e => { f e with run := e.run.map (fun r => goTo { g r with rank := r.rank + 1 } (r.pos + 1) s.gcc) })

/-- A routine of a static region that would break its schedule stops for the handler (R228). -/
def stopRegion (s : State) (r : Routine) : State :=
  let s := s.updWarp s.ev.core r.warp (fun w => { w with engLate := true })
  updEng s s.ev.core (fun e => { e with run := e.run.map (fun r => { r with stopped := true }) })

/-- Bytes of a buffer. -/
def wbufBytes (b : WBuf) (a n : Nat) : List Byte := memBytes b.bytes a n

/-- LDSB (R201, R210): the shadow is there when the load unit is free again. Of several faults the first one tested is recorded, in
this step as in the others. DESIGN CHOICE, log entry 128. -/
def execLdsb (q : StepQ) (wb : Bool) (ofs : BitVec 15) (kb : BitVec 4) (n : Byte) (sofs : BitVec 15) (s : State) : Out :=
  issueStep s (fun e _ => decide (e.loadFree ≤ s.gcc) && e.ldJob.isNone) fun r s =>
    let b := (engOf s s.ev.core).wbuf wb
    let bs := fmtBs r.fmt
    let kb := kb.toNat + 1
    let n := n.toNat + 1
    let eb := fmtEB r.fmt
    let ea := 64 * (ofs.toNat + qField r q 1)
    let sa := 64 * (sofs.toNat + qField r q 1)
    if !bs && sofs != 0 then .error 1
    else if b.state != .filled then (if r.region then .ok (stopRegion s r) else .error 4)
    else if kb > fmtKM r.fmt then .error 5
    else if ea + n * kb * eb > 2 ^ 21 || (bs && decide (sa + n * kb > 2 ^ 21)) then .error 2
    else
      let po := b.poison.any (fun a => decide (ea ≤ a) && decide (a < ea + n * kb * eb) ||
        bs && decide (sa ≤ a) && decide (a < sa + n * kb))
      let t : Tile := ⟨kb, n, fmtKeyB r.fmt, wbufBytes b ea (n * kb * eb), if bs then wbufBytes b sa (n * kb) else [], po⟩
      let occ := 8 + (n * kb * eb + (if bs then n * kb else 0) + 511) / 512
      .ok (stepOn s (fun e => { noteChange r.rank (.tiles e.active e.shadow) e with shadow := some t, loadFree := s.gcc + occ })
        (fun r => { r with done := max r.done (s.gcc + occ - 1) }))

/-- LDSV (R210): the registers are read one per cycle. -/
def execLdsv (q : StepQ) (vb vs : BitVec 9) (kb : BitVec 4) (n : Byte) (s : State) : Out :=
  issueStep s (fun e _ => decide (e.loadFree ≤ s.gcc) && e.ldJob.isNone) fun r s =>
    let bs := fmtBs r.fmt
    let kb := kb.toNat + 1
    let n := n.toNat + 1
    let rg := qField r q 0
    let elems := (List.range ((n + fmtPer r.fmt - 1) / fmtPer r.fmt)).map (fun i => vb.toNat + rg + i)
    let scs := if bs then (List.range ((n + fmtSr r.fmt - 1) / fmtSr r.fmt)).map (fun i => vs.toNat + rg + i) else []
    let regs := elems ++ scs
    if !bs && vs != 0 then .error 1
    else if kb > fmtKM r.fmt then .error 5
    else if regs.any (fun x => decide (x > 511)) then .error 2
    else
      .ok (stepOn s (fun e => { e with ldJob := some ⟨r.rank, r.base + r.pos, regs, [], kb, n⟩, loadFree := s.gcc + 4 + regs.length })
        (fun r => { r with done := max r.done (s.gcc + 3 + regs.length) }))

/-- SWAP (R211, R218). -/
def execSwap (s : State) : Out :=
  issueStep s (fun e _ => decide (e.loadFree ≤ s.gcc) && e.ldJob.isNone && e.arrJob.isNone && decide (e.entered < s.gcc))
    fun r s => .ok (stepOn s (fun e =>
      { noteChange r.rank (.tiles e.active e.shadow) e with active := e.shadow, shadow := e.active }) id)

/-- STRM and ACC (R212): the rows enter from the issue cycle on. -/
def stream (clear : Bool) (q : StepQ) (va vs : BitVec 9) (bk : Bool) (row m : Byte) (s : State) : Out :=
  let rowOf (r : Routine) : Nat := row.toNat + qField r q 2
  let n := m.toNat + 1
  issueStep s (fun e r => e.arrJob.isNone && decide (e.arrayFree ≤ s.gcc) &&
      (decide (rowOf r + n > 256) || rowsReady e r s.gcc bk (rowOf r) n)) fun r s =>
    let e := engOf s s.ev.core
    let as_ := fmtAs r.fmt
    let rg := qField r q 0
    let regs := (n + fmtPer r.fmt - 1) / fmtPer r.fmt
    let scs := (n + fmtSr r.fmt - 1) / fmtSr r.fmt
    if !as_ && vs != 0 then .error 1
    else if rowOf r + n > 256 then .error 2
    else if (match e.active with | some t => t.fmt != fmtKeyB r.fmt | none => true) then .error 5
    else if va.toNat + rg + regs > 512 || (as_ && decide (vs.toNat + rg + scs > 512)) then .error 2
    else
      let job : RowJob :=
        { rank := r.rank, step := r.base + r.pos, scal := false, clear := clear, bk := bk, row := rowOf r, m := n, j := 0, next := s.gcc, va := va.toNat + rg
          vs := vs.toNat + rg, a := .zero, sc := .zero }
      .ok (stepOn s (fun e => { e with
        arrJob := some job, arrayFree := s.gcc + n, entered := s.gcc + n - 1
        rows := (List.range n).foldl (fun t j => tset t (rowKey bk (rowOf r + j)) (s.gcc + j + 20)) e.rows })
        (fun r => { r with done := max r.done (s.gcc + n - 1 + 20) }))

def execStrm (q : StepQ) (va vs : BitVec 9) (bk : Bool) (row m : Byte) (s : State) : Out := stream true q va vs bk row m s

def execAcc (q : StepQ) (va vs : BitVec 9) (bk : Bool) (row m : Byte) (s : State) : Out := stream false q va vs bk row m s

/-- SCAL (R213). -/
def execScal (q : StepQ) (vf : BitVec 9) (bk : Bool) (row m : Byte) (s : State) : Out :=
  let rowOf (r : Routine) : Nat := row.toNat + qField r q 2
  let n := m.toNat + 1
  issueStep s (fun e r => rowUnitFree e r s.gcc &&
      (decide (rowOf r + n > 256) || rowsReady e r s.gcc bk (rowOf r) n)) fun r s =>
    let rg := qField r q 0
    if fmtClass r.fmt = 2 then .error 5
    else if rowOf r + n > 256 || vf.toNat + rg + (n + 127) / 128 > 512 then .error 2
    else
      let job : RowJob :=
        { rank := r.rank, step := r.base + r.pos, scal := true, clear := false, bk := bk, row := rowOf r, m := n, j := 0, next := s.gcc, va := vf.toNat + rg
          vs := 0, a := .zero, sc := .zero }
      .ok (stepOn s (fun e => { e with
        rowJob := some job, rowFree := s.gcc + n
        rows := (List.range n).foldl (fun t j => tset t (rowKey bk (rowOf r + j)) (s.gcc + j + 6)) e.rows })
        (fun r => { r with done := max r.done (s.gcc + n - 1 + 6) }))

/-- ZERO (R213). -/
def execZero (q : StepQ) (bk : Bool) (row m : Byte) (s : State) : Out :=
  let rowOf (r : Routine) : Nat := row.toNat + qField r q 2
  let n := m.toNat + 1
  issueStep s (fun e r => rowUnitFree e r s.gcc &&
      (decide (rowOf r + n > 256) || rowsReady e r s.gcc bk (rowOf r) n)) fun r s =>
    if rowOf r + n > 256 then .error 2
    else
      .ok (stepOn s (fun e =>
        let keys := (List.range n).map (fun j => rowKey bk (rowOf r + j))
        let e := keys.foldl zeroRow (noteRows r.rank keys e)
        { e with
          rowFree := s.gcc + (n + 3) / 4
          rows := (List.range n).foldl (fun t j => tset t (rowKey bk (rowOf r + j)) (s.gcc + j / 4 + 1)) e.rows })
        (fun r => { r with done := max r.done (s.gcc + (n - 1) / 4 + 1) }))

/-- DRN (R214): its start cycle, at once or after the WAITA of the latest SYNC result. -/
def execDrn (q : StepQ) (bk : Bool) (row m : Byte) (p : BitVec 2) (sync rel : Bool) (s : State) : Out :=
  let rowOf (r : Routine) : Nat := row.toNat + qField r q 2
  let n := m.toNat + 1
  issueStep s (fun e r => rowUnitFree e r s.gcc &&
      (decide (rowOf r + n > 256) || rowsReady e r s.gcc bk (rowOf r) n)) fun r s =>
    if rowOf r + n > 256 then .error 2
    else if sync && r.region then .ok (stopRegion s r)
    else if sync && r.syncs == 0 then .error 6
    else
      let start := if !sync || !r.alive then some (s.gcc + 4)
        else (engOf s s.ev.core).syncAt.map (fun w => max (s.gcc + 4) (w + 1))
      let d : Drain :=
        { rank := r.rank, bk := bk, row := rowOf r, m := n, p := p.toNat + 1, rel := rel, issued := s.gcc, start := start, j := 0
          cnt := 0, standing := false }
      .ok (stepOn s id (fun r => { r with drain := some d }))

/-- LOOP (R216). -/
def execStepLoop (q : StepQ) (cnt : BitVec 12) (body : BitVec 5) (be : Bool) (qd qs : BitVec 3) (s : State) : Out :=
  issueStep s (fun _ _ => true) fun r s =>
    let count := if cnt = 0 then qField r q 3 else cnt.toNat
    let last := r.pos + body.toNat + 1
    let crosses := match r.loops.getLast? with | some l => decide (l.last < last) | none => false
    if (cnt == 0 && !q.qe) || decide (last ≥ r.len) || crosses || (count != 0 && decide (r.loops.length ≥ 2)) then .error 7
    else
      .ok (updEng s s.ev.core (fun e => { e with run := e.run.map (fun r =>
        if count = 0 then goTo r (last + 1) s.gcc
        else { r with pos := r.pos + 1, next := s.gcc + 1, loops := r.loops ++ [⟨r.pos + 1, last, count, be, qd, qs⟩] }) }))

/-- WAITF: complete at once where the buffer is FILLED; in a static region any other state stops the routine (R217, R228). -/
def execWaitf (wb : Bool) (s : State) : Out :=
  issueStep s (fun _ _ => true) fun r s =>
    match ((engOf s s.ev.core).wbuf wb).state, r.region with
    | .filled, _ => .ok (stepOn s id id)
    | _, true => .ok (stopRegion s r)
    | .error, false => .error 4
    | .filling, false => .ok (updEng s s.ev.core (fun e => { e with run := e.run.map (fun r => { r with block := .waitf wb }) }))

/-- SYNC: it must be one of the NS steps of an MCALL that takes results (R217). -/
def execSync (s : State) : Out :=
  issueStep s (fun _ _ => true) fun r s =>
    if !r.ae || r.syncs ≥ r.ns then .error 6
    else .ok (updEng s s.ev.core (fun e => { e with run := e.run.map (fun r => { r with block := .sync }) }))

/-- END: every SYNC step has been executed (R217). -/
def execEndStep (s : State) : Out :=
  issueStep s (fun _ _ => true) fun r s =>
    if r.syncs < r.ns then .error 6
    else .ok (updEng s s.ev.core (fun e => { e with run := e.run.map (fun r => { r with block := .fin }) }))

/-! ## Cycle by cycle -/

/-- A register of the owner as it stands, or none where its name is unbound (R210). -/
def ownerReg (s : State) (c w n : Nat) : Option VReg :=
  let x := s.warp c w
  match tget? x.map n with
  | some _ => some (vGet (s.core c) x (BitVec.ofNat 9 n))
  | none => none

/-- The tile that an LDSV has read. -/
def ldsvTile (f : Byte) (j : LdJob) (got : List VReg) : Tile :=
  let na := (j.n + fmtPer f - 1) / fmtPer f
  let cols := (List.range j.n).map (fun x => fragOf f (got.getD (x / fmtPer f) .zero) x j.kb)
  let scs := if fmtBs f then (List.range j.n).map (fun x => scalesOf f (got.getD (na + x / fmtSr f) .zero) x j.kb) else []
  ⟨j.kb, j.n, fmtKeyB f, (cols.map (·.1)).flatten, (scs.map (·.1)).flatten, cols.any (·.2) || scs.any (·.2)⟩

/-- One cycle of an LDSV. -/
def tickLoad (s : State) (c : Nat) : State :=
  match (engOf s c).run, (engOf s c).ldJob with
  | some r, some j =>
    (match j.regs with
      | [] => updEng s c (fun e => { e with ldJob := none })
      | n :: rest =>
        match ownerReg s c r.warp n with
        | none => foundFault s c 3 j.rank j.step
        | some v =>
          let got := j.got ++ [v]
          if rest.isEmpty then updEng s c (fun e =>
            { noteChange j.rank (.tiles e.active e.shadow) e with ldJob := none, shadow := some (ldsvTile r.fmt j got) })
          else updEng s c (fun e => { e with ldJob := some { j with regs := rest, got := got } }))
  | _, _ => s

/-- The blocks of one row on one column of the active stationary, accumulated (R92, R212). -/
def rowColumn (f : Byte) (t : Tile) (row scs : List Byte) (n : Nat) (acc : Word) : Word :=
  let eb := fmtEB f
  (List.range t.kb).foldl (fun acc b =>
    let i := n * t.kb + b
    accBlock f acc ((row.drop (b * eb)).take eb) ((t.elems.drop (i * eb)).take eb)
      (if fmtAs f then scs[b]? else none) (if fmtBs f then t.scales[i]? else none)) acc

/-- One row of an STRM or ACC enters (R212). -/
def enterRow (f : Byte) (t : Tile) (j : RowJob) (e : Engine) : Engine :=
  let key := rowKey j.bk (j.row + j.j)
  let e := noteChange j.rank (rowNow e key) e
  let (row, po) := fragOf f j.a j.j t.kb
  let (scs, sp) := if fmtAs f then scalesOf f j.sc j.j t.kb else ([], false)
  let acc := (List.range t.n).foldl (fun a n =>
    accSet a key n (rowColumn f t row scs n (if j.clear then 0 else accGet e key n))) e.acc
  setRowPoison { e with acc := acc } key ((!j.clear && e.rowPoison.contains key) || po || sp || t.poison)

/-- Replays of over-scaled operation (R229): the extra cycles of this row, counted. -/
def replayOf (s : State) (c : Nat) (ov : Bool) : Nat × State :=
  if ov then
    let (n, s) := s.draw
    if Config.timingError n then
      (2 * Config.replays, updEng s c (fun e => { e with rpl := min (e.rpl + 1) 0xFFFF, rplRun := min (e.rplRun + 1) 0xFFFF }))
    else (0, s)
  else (0, s)

/-- The registers that row `j` of a job reads when it is the first of them. -/
def jobRegs (s : State) (c : Nat) (r : Routine) (j : RowJob) : Option RowJob :=
  let per := if j.scal then 128 else fmtPer r.fmt
  let a := if j.j % per = 0 then ownerReg s c r.warp (j.va + j.j / per) else some j.a
  let needs := !j.scal && fmtAs r.fmt && j.j % fmtSr r.fmt == 0
  let sc := if needs then ownerReg s c r.warp (j.vs + j.j / fmtSr r.fmt) else some j.sc
  match a, sc with
  | some a, some sc => some { j with a := a, sc := sc }
  | _, _ => none

/-- A delay of a job from row `i` on: its rows land later, and it occupies its unit for longer. -/
def delayRows (e : Engine) (j : RowJob) (i d : Nat) : Engine :=
  let rows := (List.range (j.m - i)).foldl (fun t i' =>
    let k := rowKey j.bk (j.row + i + i')
    tset t k (tget 0 t k + d)) e.rows
  { e with
    arrayFree := if j.scal then e.arrayFree else e.arrayFree + d
    rowFree := if j.scal then e.rowFree + d else e.rowFree
    entered := if !j.scal && decide (i < j.m) then e.entered + d else e.entered
    rows := rows
    run := e.run.map (fun r => { r with done := max r.done (tget 0 rows (rowKey j.bk (j.row + j.m - 1))) }) }

/-- Whether a job stands at a boundary: after every 128 rows, or 64 in over-scaled operation (R225). -/
def atRows (r : Routine) (j : RowJob) : Bool := j.j % (if r.ov then 64 else 128) == 0

/-- Whether the engine stands at a boundary at which it can halt (R225). -/
def engBoundary (e : Engine) (gcc : Nat) : Bool :=
  match e.run with
  | none => true
  | some r => e.ldJob.isNone && decide (e.loadFree ≤ gcc) && e.arrJob.all (atRows r) && e.rowJob.all (atRows r)

/-- Whether a job of rows stands at a boundary of an engine that halts; each such cycle delays the rows still to come. -/
def rowHolds (s : State) (c : Nat) (r : Routine) (j : RowJob) : Bool := (engOf s c).halting && atRows r j

/-- One cycle of an STRM or ACC. A replay of a row delays each later row of its step (R229). -/
def tickArray (s : State) (c : Nat) : State :=
  match (engOf s c).run, (engOf s c).arrJob, (engOf s c).active with
  | some r, some j, some t =>
    if s.gcc < j.next then s
    else if rowHolds s c r j then updEng s c (fun e => delayRows e j j.j 1)
    else match jobRegs s c r j with
      | none => foundFault s c 3 j.rank j.step
      | some j =>
        let s := updEng s c (enterRow r.fmt t j)
        let (d, s) := replayOf s c r.ov
        let s := if d = 0 then s else updEng s c (fun e => delayRows e j (j.j + 1) d)
        let job := if j.j + 1 < j.m then some { j with j := j.j + 1, next := s.gcc + 1 + d } else none
        updEng s c (fun e => { e with arrJob := job })
  | _, _, _ => s

/-- One row of an SCAL (R213). -/
def scaleRow (j : RowJob) (e : Engine) : Engine :=
  let key := rowKey j.bk (j.row + j.j)
  let e := noteChange j.rank (rowNow e key) e
  let f := j.a.lane (j.j % 128)
  let acc := (List.range 256).foldl (fun a n =>
    accSet a key n (BitVec.ofNat 32 (fMul .f32 .plain (accGet e key n).toNat f.toNat).1)) e.acc
  setRowPoison { e with acc := acc } key (e.rowPoison.contains key || j.a.poison.getLsbD (j.j % 128))

/-- One cycle of an SCAL. -/
def tickRow (s : State) (c : Nat) : State :=
  match (engOf s c).run, (engOf s c).rowJob with
  | some r, some j =>
    if s.gcc < j.next then s
    else if rowHolds s c r j then updEng s c (fun e => delayRows e j j.j 1)
    else match jobRegs s c r j with
      | none => foundFault s c 3 j.rank j.step
      | some j =>
        let job := if j.j + 1 < j.m then some { j with j := j.j + 1, next := s.gcc + 1 } else none
        updEng s c (fun e => { scaleRow j e with rowJob := job })
  | _, _ => s

/-- The row of a drain is drained: it is released in the next cycle under REL, and the drain finishes with its last
row (R215). -/
def rowDrained (e : Engine) (r : Routine) (d : Drain) (gcc : Nat) : Engine :=
  { noteRows d.rank (if d.rel then [rowKey d.bk (d.row + d.j)] else []) e with
    release := if d.rel then e.release ++ [rowKey d.bk (d.row + d.j)] else e.release
    run := some { r with
      drain := if d.j + 1 < d.m then some { d with j := d.j + 1, cnt := 0, standing := false } else none
      done := if d.j + 1 < d.m then r.done else max r.done gcc } }

/-- The rows of a routine whose owner has retired are drained one per cycle and written nowhere (R227). -/
def tickDrain (s : State) (c : Nat) : State :=
  match (engOf s c).run with
  | some r =>
    (match r.alive, r.drain with
      | false, some d => if d.start.getD (d.issued + 4) ≤ s.gcc then updEng s c (fun e => rowDrained e r d s.gcc) else s
      | _, _ => s)
  | none => s

/-- A row of a drain lands in the owner's lo latches at a bundle that begins to issue at or after its start; a bundle that is
delayed before issue began when it was first presented (R71, R214). -/
def landDrain (s : State) : State :=
  let c := s.cur.core
  match (engOf s c).run with
  | some r =>
    (match r.drain with
      | some d =>
        let began := s.me.began s.gcc
        if r.warp = s.cur.warp ∧ r.alive ∧ !d.standing ∧ d.start.isSome ∧ d.start.getD 0 ≤ began then
          let e := engOf s c
          let key := rowKey d.bk (d.row + d.j)
          let po : Mask := if e.rowPoison.contains key then BitVec.allOnes 128 else 0
          let half (h : Nat) : VReg := .build (fun l => accGet e key (128 * h + l)) po
          let s := s.updMe (fun w =>
            { w with latches := tset (tset w.latches 6 (half 0)) 7 (half 1), lv := w.lv ||| 0xC0#12 })
          updEng s c (fun e => { e with run := some { r with drain := some { d with standing := true } } })
        else s
      | none => s)
  | none => s

/-- A bundle of the owner has issued without trap: it counts towards the row that stands (R215). -/
def countDrain (s : State) : State :=
  let c := s.cur.core
  match (engOf s c).run with
  | some r =>
    (match r.drain with
      | some d =>
        if r.warp = s.cur.warp ∧ d.standing then
          if d.cnt + 1 ≥ d.p then updEng s c (fun e => rowDrained e r d s.gcc)
          else updEng s c (fun e => { e with run := some { r with drain := some { d with cnt := d.cnt + 1 } } })
        else s
      | none => s)
  | none => s

/-- The rows drained under REL in the cycle before are released (R215). -/
def releaseRows (s : State) (c : Nat) : State :=
  updEng s c (fun e => { e.release.foldl zeroRow e with release := [] })

/-- Row release, as a step of its own. -/
def execRowRelease (s : State) : Out :=
  if (engOf s s.ev.core).release.isEmpty then .refused .notEnabled else .next (releaseRows s s.ev.core)

/-- Whether every earlier step has finished and landed (R217). -/
def allDone (e : Engine) (r : Routine) (gcc : Nat) : Bool :=
  r.drain.isNone && e.ldJob.isNone && e.arrJob.isNone && e.rowJob.isNone && decide (r.done < gcc)

/-- Complete a WAITF, SYNC or END whose condition holds (R217). -/
def tickBlock (s : State) (c : Nat) : State :=
  match (engOf s c).run with
  | none => s
  | some r =>
    match r.block with
    | .none => s
    | .fault code step =>
      let e := engOf s c
      if e.ldJob.isNone && e.arrJob.isNone && e.rowJob.isNone then engFault s c code r.warp step else s
    | .left => if r.drain.isNone then updEng s c (fun e => { e with run := none, lastEnd := s.gcc }) else s
    | .waitf wb =>
      (match ((engOf s c).wbuf wb).state with
        | .filled => updEng s c (fun e => { e with run := some (goTo { r with block := .none } (r.pos + 1) s.gcc) })
        | .error => runFault s c 4
        | .filling => s)
    | .sync =>
      if allDone (engOf s c) r s.gcc then
        let rid := r.rids[r.syncs]?
        let s := updEng s c (fun e =>
          { e with
            run := some (goTo { r with block := .none, syncs := r.syncs + 1, syncRid := rid } (r.pos + 1) s.gcc)
            syncAt := none })
        arriveRids s c rid.toList
      else s
    | .fin =>
      if allDone (engOf s c) r s.gcc then
        let s := updEng s c (fun e => { e with run := none, lastEnd := s.gcc })
        arriveRids s c r.rids
      else s

/-- The WAITA that landed the latest SYNC result has retired, in the cycle before this one: a DRN with S = 1 takes its start from
it (R214). -/
def syncLanded (s : State) (c : Nat) (cover : List Nat) : State :=
  match (engOf s c).run with
  | some r =>
    if r.syncRid.isSome && cover.contains (r.syncRid.getD 0) && (engOf s c).syncAt.isNone then
      updEng s c (fun e =>
        { e with
          syncAt := some (s.gcc - 1)
          run := some { r with drain := r.drain.map (fun d =>
            if d.start.isNone then { d with start := some (max (d.issued + 4) s.gcc) } else d) } })
    else s
  | none => s

/-- A word that is no step, or the end of the routine without END, faults when it would issue (R217, R223). -/
def tickFetch (s : State) (c : Nat) : State :=
  match (engOf s c).run with
  | some r =>
    if r.stopped || r.block != .none || (engOf s c).halting || decide (s.gcc < r.next) then s
    else if r.pos ≥ r.len then runFault s c 9
    else if (decodeStep (tget 0 (engOf s c).store (r.base + r.pos))).isNone then runFault s c 1
    else s
  | none => s

/-- An MCALL of a static region whose start cycle has come and which cannot start (R228); it stays queued. DESIGN CHOICE, log entry
132. -/
def tickRegionStart (s : State) (c : Nat) : State :=
  let e := engOf s c
  let late := (e.queue.filterMap (fun x => match x with
    | .mcall m => if m.start = some s.gcc then some m.warp else none
    | .mpsw .. => none))
  late.foldl (fun s w => s.updWarp c w (fun x => { x with engLate := true })) s

/-- One cycle of a core's matrix engine, after the step of the cycle has issued. -/
def tickEngine (s : State) (c : Nat) : State :=
  let s := tickBlock (tickFetch (tickDrain (tickRow (tickArray (tickLoad s c) c) c) c) c) c
  updEng s c (fun e => { e with undo := e.undo.filter (fun x => runsBefore e x.1) })

/-- The step that the engine of a core would issue now. -/
def stepDue (s : State) (c : Nat) : Option Instr :=
  match stepTurn s c with
  | some r => decodeStep (tget 0 (engOf s c).store (r.base + r.pos))
  | none => none

/-! ## Fills (R201 to R204) -/

/-- The outcome of a fill: the bytes it wrote, and its error code. -/
structure Filled where
  wrote : List (Nat × List Byte)
  code : Nat
  deriving DecidableEq, Repr

/-- A copy of the previous block `n` times, as far as NB allows. -/
def runBlocks (b : List Byte × Byte) (nb : Nat) : Nat → List (List Byte × Byte) → Option (List (List Byte × Byte))
  | 0, l => some l
  | n + 1, l => if l.length < nb then runBlocks b nb n (l ++ [b]) else none

/-- Decode a token stream: the blocks in order, and the code of the first error (R204). -/
def decodeTokens (eb nb : Nat) : Nat → List Byte → List (List Byte × Byte) → List (List Byte × Byte) × Nat
  | 0, _, l => (l, 3)
  | _ + 1, [], l => (l, if l.length = nb then 0 else 3)
  | fuel + 1, t :: r, l =>
    if t = 0x00 then
      if l.length ≥ nb ∨ r.length < eb + 1 then (l, 3)
      else decodeTokens eb nb fuel (r.drop (eb + 1)) (l ++ [((r.drop 1).take eb, r.headD 0)])
    else if t = 0x40 then
      if l.length ≥ nb ∨ r.isEmpty then (l, 3)
      else decodeTokens eb nb fuel (r.drop 1) (l ++ [(List.replicate eb 0, r.headD 0)])
    else if t = 0x80 then
      match l.getLast? with
      | none => (l, 2)
      | some p =>
        if l.length ≥ nb ∨ r.length < eb then (l, 3)
        else decodeTokens eb nb fuel (r.drop eb) (l ++ [(r.take eb, p.2)])
    else if t.toNat ≥ 0xC0 then
      match l.getLast? with
      | none => (l, 2)
      | some p =>
        (match runBlocks p nb (t.toNat - 0xC0 + 1) l with
          | some l => decodeTokens eb nb fuel r l
          | none => (l ++ List.replicate (nb - l.length) p, 3))
    else (l, 2)

/-- The blocks at their places (R201). -/
def placeBlocks (e s eb : Nat) : Nat → List (List Byte × Byte) → List (Nat × List Byte)
  | _, [] => []
  | i, b :: r => (e + i * eb, b.1) :: (s + i, [b.2]) :: placeBlocks e s eb (i + 1) r

/-- Carry out a fill from its descriptor, its pack header and its token stream (R203, R204). A stream that cannot be read to its end
writes nothing. DESIGN CHOICE, log entry 131. -/
def fillFrom (desc hdr : List Byte) (stream : Nat → Option (List Byte)) : Filled :=
  let e := field desc 8 4
  let sc := field desc 12 4
  let ef := field hdr 2 1
  let nb := field hdr 4 4
  let clen := field hdr 8 4
  let eb := if ef = 5 then 16 else 32
  let ok := field desc 16 48 == 0 && field desc 0 8 % 64 == 0 && e % 64 == 0 && sc % 64 == 0 &&
    field hdr 0 2 == 1 && (ef == 0 || ef == 3 || ef == 4 || ef == 5) && field hdr 3 1 == 0 && field hdr 16 48 == 0 &&
    decide (1 ≤ nb) && decide (nb ≤ (if ef = 0 then 32768 else 65536)) && (ef != 0 || sc == 0)
  let n := if ef = 0 then nb * 64 else nb * eb
  let beyond := decide (e + n > 2 ^ 21) || (ef != 0 && decide (sc + nb > 2 ^ 21)) ||
    (ef != 0 && decide (sc < e + n) && decide (e < sc + nb))
  if !ok then ⟨[], 1⟩
  else if beyond then ⟨[], 5⟩
  else match stream clen with
    | none => ⟨[], 6⟩
    | some l =>
      let bad := field hdr 12 4 != (crc32 l).toNat
      if ef = 0 then
        -- units that are there stay written when the count is wrong: DEDUCED, log entry 101
        ⟨[(e, l.take (64 * min nb (clen / 64)))], if clen ≠ nb * 64 then 3 else if bad then 4 else 0⟩
      else
        let (bs, code) := decodeTokens eb nb (l.length + 1) l []
        ⟨placeBlocks e sc eb 0 bs, if code ≠ 0 then code else if bad then 4 else 0⟩

/-- Read for a fill: the bytes, or the code, subcode and address of a failure. -/
def fillRead (s : State) (die : Nat) (lv : Level) (va n : Nat) : Except (Cause × Nat) (List Byte) :=
  match readOn s die lv va n with
  | .ok b => .ok b
  | .error (0, a) => .error (.poisonedData, a)
  | .error (_, a) => .error (.translationFault, a)

/-- The result of a fill and, for a failed read, its cause and address. -/
def doFill (s : State) (die : Nat) (f : Fill) : Filled × Option (Cause × Nat) :=
  match fillRead s die f.level f.desc.toNat 64 with
  | .error e => (⟨[], 6⟩, some e)
  | .ok d =>
    if field d 0 8 % 64 ≠ 0 then (⟨[], 1⟩, none)
    else match fillRead s die f.level (field d 0 8) 64 with
      | .error e => (⟨[], 6⟩, some e)
      | .ok h =>
        let st := fun n => (match fillRead s die f.level (field d 0 8 + 64) n with | .ok b => some b | .error _ => none)
        let r := fillFrom d h st
        let why := if r.code = 6 then
          (match fillRead s die f.level (field d 0 8 + 64) (field h 8 4) with | .error e => some e | .ok _ => none) else none
        (r, why)

/-- The reads of a fill, each at its home (R202, R438). -/
def countFill (s : State) (die : Nat) (f : Fill) : State :=
  let s' := countRead s die f.level f.desc.toNat 64
  match fillRead s die f.level f.desc.toNat 64 with
  | .error _ => s'
  | .ok d =>
    let s' := countRead s' die f.level (field d 0 8) 64
    match fillRead s die f.level (field d 0 8) 64 with
    | .error _ => s'
    | .ok h => countRead s' die f.level (field d 0 8 + 64) (field h 8 4)

/-- The first fill of a buffer. -/
def firstFill (e : Engine) (wb : Bool) : Option Fill := e.fills.find? (fun f => f.wb == wb)

def fillReady (s : State) (c : Nat) (f : Fill) : Bool :=
  !anyHeld s && decide (f.due ≤ s.gcc) && f.deps.all (fun d => (getReq s d).isNone) && decide ((engOf s c).loadFree ≤ s.gcc)

/-- The first fill of a buffer ends (R201, R202). -/
def endFill (s : State) (c : Nat) (wb : Bool) (f : Fill) : State :=
  let (r, why) := doFill s (dieOf c) f
  let s := countFill s (dieOf c) f
  let s := updEng s c (fun e =>
    let fills := e.fills.filter (fun x => x != f)
    let b := e.wbuf wb
    let bytes := r.wrote.foldl (fun m x => memWrite m x.1 x.2) b.bytes
    let any := b.anyErr || r.code != 0
    let b := { b with
      bytes := bytes, anyErr := any
      poison := b.poison.filter (fun a => !r.wrote.any (fun x => decide (x.1 ≤ a) && decide (a < x.1 + x.2.length)))
      err := if b.anyErr then b.err else BitVec.ofNat 8 r.code
      state := if fills.any (fun x => x.wb == wb) then .filling else if any then .error else .filled }
    { e.setWbuf wb b with fills := fills })
  let s := match f.rid with | some i => arriveRids s c [i] | none => s
  if r.code = 0 then s
  else
    let code := match why with | some (k, _) => k | none => .illegalOperand
    let addr := match why with | some (_, a) => a | none => 0
    postPlain s { plainRecord s code r.code 2 4 f.handle (BitVec.ofNat 64 addr) with core := c }

def execFillEnd (s : State) : Out :=
  let wb := s.ev.idx == 1
  match firstFill (engOf s s.ev.core) wb with
  | some f => if fillReady s s.ev.core f then .next (endFill s s.ev.core wb f) else .refused .notEnabled
  | none => .refused .notEnabled

/-! ## The meanings -/

def execMcall (x : XCtl) (k o : ImmOrS) (s : State) : Out := slotExec (.mcall x k o) (runMcall x k o) s
def execMpar (x : XCtl) (q : BitVec 3) (v : ImmOrS) (s : State) : Out := slotExec (.mpar x q v) (runMpar q v) s
def execMfmt (x : XCtl) (v : ImmOrS) (s : State) : Out := slotExec (.mfmt x v) (runMfmt v) s
def execMstat (x : XCtl) (d : BitVec 7) (s : State) : Out := slotExec (.mstat x d) (runMstat x d) s
def execMpsw (x : XCtl) (v t : BitVec 7) (s : State) : Out := slotExec (.mpsw x v t) (runMpsw v t) s
def execWst (x : XCtl) (a : BitVec 7) (wb : Bool) (s : State) : Out := slotExec (.wst x a wb) (runWst x a wb) s
def execWstat (x : XCtl) (d : BitVec 7) (s : State) : Out := slotExec (.wstat x d) (runWstat x d) s

end Sys2Proof.Machine
end

