-- ==== Sys2Proof/Machine/System.lean ====
section
/-!
DEFINITION. The system instructions of SA (R253 to R264) and the copy, composite and marker commands (R188 to R191,
R258, R259), with the control registers of R262 and what a write of one starts.
-/
namespace Sys2Proof.Machine

/-! ## TRAP, SYS and ERET (R260, R261) -/

/-- TRAP and SYS ask for a trap at the boundary that follows their bundle. -/
def runSoft (c : Cause) (b : SSrc) (s0 s : State) : Run :=
  let v := b.val s0.me
  if v.extractLsb' 8 24 != 0 then .error (.of .illegalOperand)
  else .ok { s with cur := { s.cur with after := some (c, (v.extractLsb' 0 8).toNat) } }

def runTrap (b : SSrc) : State → State → Run := runSoft .softwareTrap b
def runSys (b : SSrc) : State → State → Run := runSoft .supervisorCall b

/-- Take the trap that TRAP or SYS asked for, with the successor of the bundle as resume address. -/
def takeAfter (s : State) (succ : DWord) : State :=
  match s.cur.after with
  | some (c, code) => takeTrapAt { s with cur := { s.cur with after := none } } { Trap.of c with sub := code } 0 succ
  | none => s

/-- One instruction by itself, with the trap that follows its bundle. -/
def withAfter (o : Out) : Out :=
  match o with
  | .next s => .next (takeAfter s s.cur.nextPc)
  | o => o

/-- ERET: the whole handler warp ends once its pending writes have landed and its accesses are released at .pk. -/
def runEret (_ s : State) : Run :=
  let (_, s) := releasePoint s s.cur.core s.cur.warp (here s) .pk
  let s := s.updMe (fun w => { w with entries := [], spilled := [], eret := true })
  .ok { s with cur := { s.cur with exited := true } }

/-! ## Control registers (R5, R262) -/

/-- The assigned numbers of control registers. -/
def ctlAssigned : List Nat :=
  List.range 8 ++ [0x10] ++ (List.range 7).map (0x40 + ·) ++ (List.range 4).map (0x48 + ·) ++
    (List.range 5).map (0x50 + ·) ++ [0x80, 0x81, 0x82] ++ (List.range 7).map (0x90 + ·)

/-- The registers reserved to level F (R379, R461). -/
def ctlForF : List Nat := [0x44, 0x45, 0x46, 0x4A, 0x4B] ++ (List.range 7).map (0x90 + ·)

/-- The registers with a field that level U may read. -/
def ctlForU : List Nat := List.range 8 ++ [0x10, 0x43]

/-- The registers that hold no P field. -/
def ctlPlain : List Nat := List.range 8

/-- Whether a level may read, or write, a register (R5). -/
def ctlAllowed (lv : Level) (write : Bool) (n : Nat) : Bool :=
  match lv with
  | .u => if write then ctlPlain.contains n else ctlForU.contains n
  | .s => !ctlForF.contains n
  | .f => true

/-- ctl.opst (R74). -/
def opstWord (s : State) : Word :=
  BitVec.ofNat 6 (s.myCore.pwOf s.cur.warp).length ++ (0#6 ++ (s.me.kv ++ s.me.lv))

/-- ctl.lpst (R125). -/
def lpstWord (w : Warp) : Word :=
  let dl := if w.dl > 0 then w.dl - 1 else 0
  let dt := if transferPending w then 1 else 0
  let fb := ((List.range 6).filter (fun i => ((w.loops[i]?).map (·.first)).getD false)).foldl (fun n i => n + 2 ^ i) 0
  BitVec.ofNat 32 (dl * 2 ^ 17 + dt * 2 ^ 16 + fb * 2 ^ 4 + w.loops.length)

/-- ctl.mxcfg (R224); level U sees OVOK and FLT. -/
def mxcfgWord (s : State) : Word :=
  let e := s.myCore.eng
  let pub := (if Config.ovok s.cur.core then 8 else 0) + (if e.flt then 2 else 0)
  BitVec.ofNat 32 (if s.me.level = .u then pub else pub + e.rpl * 2 ^ 16 + (if e.ov then 1 else 0))

/-- ctl.tcause of a record, without RING (R378). -/
def Record.tcause (r : Record) : Word := BitVec.ofNat 32 (r.src * 2 ^ 20 + r.sub % 256 * 2 ^ 8 + r.code.code)

/-- ctl.tcause: the record of a trap-handler warp, with the ring it came from; any other warp reads 0 (R378). -/
def tcauseWord (s : State) : Word :=
  match s.me.handlerOf with
  | some r => r.tcause ||| (if s.cur.core = 131 then 0x80000#32 else 0)
  | none => 0

/-- ctl.tlbinv (R391). -/
def tlbinvWord (s : State) : Word := (if s.ms.busy then 0x80000000#32 else 0) ||| (if s.ms.lost then 0x40000000#32 else 0)

/-- The value of a control register as it stands (R262). -/
def ctlRead (s : State) (n : Nat) : Word :=
  match n with
  | 0x00 => s.me.fmode
  | 0x01 => s.me.fexc
  | 0x02 => opstWord s
  | 0x03 => lpstWord s.me
  | 0x04 => BitVec.ofNat 16 s.myCore.gates ++ (0#8 ++ s.myCore.wakewhy)
  | 0x05 => s.me.stretch
  | 0x06 => s.me.lseq
  | 0x07 => BitVec.ofNat 32 s.myGroup.role
  | 0x10 => mxcfgWord s
  | 0x40 => tcauseWord s
  | 0x41 => s.rg.ringsl
  | 0x42 => s.rg.ringsh
  | 0x43 => if s.me.level = .u then s.rg.ringsc &&& 0xFFFF0000 else s.rg.ringsc
  | 0x44 => s.rg.ringfl
  | 0x45 => s.rg.ringfh
  | 0x46 => s.rg.ringfc
  | 0x48 => s.rg.tvsl
  | 0x49 => s.rg.tvsh
  | 0x4A => s.rg.tvfl
  | 0x4B => s.rg.tvfh
  | 0x50 => s.ms.ptrl
  | 0x51 => s.ms.ptrh
  | 0x52 => s.ms.tiva
  | 0x53 => s.ms.tivh
  | 0x54 => tlbinvWord s
  | 0x80 => s.myCore.dbg
  | 0x81 => s.myCore.bpl
  | 0x82 => s.myCore.bph
  | 0x90 => BitVec.ofNat 32 (s.pt.qsel * 2 ^ 8)
  | 0x91 => readQstat s
  | 0x92 => (quadState s s.pt.qsel).retbase
  | 0x93 => if (quadState s s.pt.qsel).gate then 1 else 0
  | 0x94 => readRail s
  | 0x95 => s.pt.pmWake
  | _ => 0

/-- The masks of address registers: bits 31:6 below, bits 56:32 above (R379). -/
def lowAddr (v : Word) : Word := v &&& 0xFFFFFFC0
def highAddr (v : Word) : Word := v &&& 0x01FFFFFF

/-- A write of a ring control register: DROP, EN and SZ; POST stays (R379). -/
def ringWrite (old v : Word) : Word := (old &&& 0xFFFF0000) ||| (v &&& 0x0000FF1F)

/-- Whether a leaf lies in what an invalidation drops (R391). -/
def invCovers (sz va : Nat) (l : Leaf) : Bool :=
  match sz with
  | 3 => true
  | _ =>
    let n := if sz = 0 then 16 else if sz = 1 then 21 else 30
    let base := va / 2 ^ n * 2 ^ n
    decide (l.va < base + 2 ^ n) && decide (base < l.va + 2 ^ l.shift)

/-- The address of ctl.tiva and ctl.tivh. -/
def invAddr (s : State) : Nat := s.ms.tivh.toNat * 2 ^ 32 + s.ms.tiva.toNat

/-- Drop the matching entries of one core's TLB. -/
def invCore (sz va : Nat) (k : Core) : Core := { k with tlb := k.tlb.filter (fun l => !invCovers sz va l) }

/-- Each core's TLB drops its matching entries at once or only by the end, as a free choice says (R391). -/
def invSome (sz va : Nat) : List Nat → State → State
  | [], s => s
  | c :: r, s =>
    let (n, s) := s.draw
    invSome sz va r (if Config.freeBool n then s.updCore c (invCore sz va) else s)

/-- An invalidation of the page named now starts, or is ignored and noted while one is in progress (R391). -/
def startInvalidation (s : State) (v : Word) : State :=
  if s.ms.busy then { s with ms := { s.ms with lost := true } }
  else
    let sz := (v.extractLsb' 0 2).toNat
    let s := { s with ms := { s.ms with busy := true, sz := sz, invva := invAddr s, lost := s.ms.lost && !v.getLsbD 30 } }
    invSome sz s.ms.invva (s.cores.map (·.1)) s

/-- Whether a core admits a debug state: the life cycle does, and its die is not in Die off (R456). -/
def debugAllowed (s : State) (c m : Nat) : Bool :=
  m == 0 || !railsOff s (dieOf c) && match m, s.pt.start.lifecycle with
  | 3, _ => false
  | _, 0 => true
  | _, 1 => s.pt.start.unlocked == some m
  | 1, 2 => true
  | _, 2 => false
  | _, _ => true

/-- A warp that stood halted for debug goes on, with its pending writes replayed (R72, R457). -/
def unhalt (k : Core) (wi : Nat) : Core :=
  if (k.warp wi).status = .halted then replayLater wi (k.updWarp wi (fun w => { w with status := .run })) else k

/-- A write of dbg.ctl on a core (R456, R457): a refused mode stays as it was and sets ERR. -/
def writeDebug (s : State) (c : Nat) (v : Word) : State :=
  let m := (v.extractLsb' 5 2).toNat
  let k := s.core c
  let err := k.dbg &&& 0x80 &&& ~~~v
  let low := v &&& 3
  if !debugAllowed s c m then s.updCore c (fun k => { k with dbg := 0x80#32 ||| (k.dbg &&& 0x60) ||| low })
  else
    let (n, s) := s.draw
    let halt := if m ≠ 2 then none else match k.halt with
      | some h => some h
      | none => some (s.gcc + 1 + Config.freeNat n % 216)
    s.updCore c (fun k =>
      let k := { k with dbg := err ||| (v &&& 0x60) ||| low, halt := halt }
      if m = 2 then k else (k.warps.map (·.1)).foldl unhalt k)

/-- A write of ctl.mxcfg on a core (R224). -/
def writeMxcfg (s : State) (c : Nat) (v : Word) : State :=
  let s := updEng s c (fun e =>
    { e with rpl := (v.extractLsb' 16 16).toNat, ov := v.getLsbD 0 && Config.ovok c })
  if v.getLsbD 2 then clearFault s c else s

/-- A write of a control register (R5, R262): fields that are RO stay. -/
def ctlWrite (s : State) (n : Nat) (v : Word) : State :=
  match n with
  | 0x00 => s.updMe (fun w => { w with fmode := v &&& 0xF7 })
  | 0x01 => s.updMe (fun w => { w with fexc := w.fexc &&& ~~~(v &&& 0x1F) })
  | 0x04 => s.updMyCore (fun k => { k with wakewhy := k.wakewhy &&& ~~~(v.extractLsb' 0 8) })
  | 0x05 => s.updMe (fun w => { w with stretch := v })
  | 0x10 => writeMxcfg s s.cur.core v
  | 0x41 => { s with rg := { s.rg with ringsl := lowAddr v } }
  | 0x42 => { s with rg := { s.rg with ringsh := highAddr v } }
  | 0x43 => { s with rg := { s.rg with ringsc := ringWrite s.rg.ringsc v } }
  | 0x44 => { s with rg := { s.rg with ringfl := lowAddr v } }
  | 0x45 => { s with rg := { s.rg with ringfh := highAddr v } }
  | 0x46 => { s with rg := { s.rg with ringfc := ringWrite s.rg.ringfc v } }
  | 0x48 => { s with rg := { s.rg with tvsl := lowAddr v } }
  | 0x49 => { s with rg := { s.rg with tvsh := highAddr v } }
  | 0x4A => { s with rg := { s.rg with tvfl := lowAddr v } }
  | 0x4B => { s with rg := { s.rg with tvfh := highAddr v } }
  | 0x50 => { s with ms := { s.ms with ptrl := lowAddr v } }
  | 0x51 => { s with ms := { s.ms with ptrh := highAddr v } }
  | 0x52 => { s with ms := { s.ms with tiva := v &&& 0xFFFF0000 } }
  | 0x53 => { s with ms := { s.ms with tivh := highAddr v } }
  | 0x54 => startInvalidation s v
  | 0x80 => writeDebug s s.cur.core v
  | 0x81 => s.updMyCore (fun k => { k with bpl := lowAddr v })
  | 0x82 => s.updMyCore (fun k => { k with bph := highAddr v })
  | 0x90 => writeQctl s v
  | 0x91 => if v.getLsbD 3 then setQuad s s.pt.qsel { quadState s s.pt.qsel with err := false } else s
  | 0x92 => setQuad s s.pt.qsel { quadState s s.pt.qsel with retbase := v }
  | 0x93 => writeGate s s.pt.qsel (v.getLsbD 0)
  | 0x94 => writeRail s s.pt.qsel (v.extractLsb' 0 2).toNat
  | 0x95 => { s with pt := { s.pt with pmWake := s.pt.pmWake &&& ~~~v } }
  | 0x96 => setWake s v
  | _ => s

/-- The number of a control register: bits 11:0, the others zero in a register (R262). -/
def ctlNumber (s : State) : SSrc → Option Nat
  | .imm i => some (i.extractLsb' 0 12).toNat
  | .reg n => if (sGet s.me n).extractLsb' 12 20 = 0 then some ((sGet s.me n).extractLsb' 0 12).toNat else none

/-- The checks of an access to a control register: its number, or the trap. -/
def ctlCheck (s : State) (b : SSrc) (write : Bool) (k : Nat → Run) : Run :=
  match ctlNumber s b with
  | none => .error (.of .illegalOperand)
  | some n =>
    if !ctlAssigned.contains n then .error (.of .illegalOperand)
    else if !ctlAllowed s.me.level write n then .error (.of .privilegeViolation)
    else k n

/-- The state that a CTLR reads: that at issue, with the three delay bundles and the transfer of a control instruction in SA
of the same bundle (R114, R125). -/
def besideControl (s0 s : State) : State :=
  if s.cur.control then s0.updMe (fun w => { w with dl := 4, xfer := s.me.xfer }) else s0

/-- CTLR. PWQ counts no result of the CTLR's own bundle (R74). DESIGN CHOICE, log entry 125. -/
def runCtlr (d : BitVec 7) (b : SSrc) (s0 s : State) : Run :=
  ctlCheck s0 b false fun n => .ok (pendS s 1 d (ctlRead (besideControl s0 s) n))

def runCtlw (a : BitVec 7) (b : SSrc) (s0 s : State) : Run :=
  ctlCheck s0 b true fun n =>
    let v := sGet s0.me a
    if n = 0 ∧ (v.extractLsb' 0 3).toNat > 4 then .error (.of .illegalOperand)
    else .ok (ctlWrite s n v)

/-! ## SEGW, PRMT (R263, R264) -/

def runSegw (a : BitVec 7) (seg : BitVec 3) (limit : Bool) (s0 s : State) : Run :=
  let v := sPairGet s0.me a
  .ok (s.updMe (fun w =>
    if limit then { w with segLimit := tset w.segLimit seg.toNat v }
    else { w with segBase := tset w.segBase seg.toNat v }))

/-- The status of a pre-emption request: 0 accepted, 1 no such group, 2 the group is already leaving (R264). -/
def prmtStatus (s : State) (h : Nat) : Nat :=
  match tget? s.sched.groups h with
  | none => 1
  | some g =>
    match g.status with
    | .resident | .waiting => 0
    | .leaving | .held => 2
    | .done | .killed => 1

/-- An accepted request: a resident group leaves with its quad group, which a kill discards; a waiting one is only
discarded (R264, R370, R371). -/
def acceptPrmt (s : State) (h : Nat) (kill : Bool) : State :=
  let s := if (s.group h).status = .resident then groupLeaves s h .preemption none 16 else s
  if kill then s.updGroup h (fun g => { g with kill := true }) else s

def runPrmt (d a : BitVec 7) (kill : Bool) (s0 s : State) : Run :=
  let h := (sGet s0.me a).toNat
  let st := prmtStatus s0 h
  let s := if st = 0 then acceptPrmt s h kill else s
  .ok (pendS s 8 d (BitVec.ofNat 32 st))

/-! ## LAUNCH (R253, R254) -/

/-- Children that a child queue holds (R372). -/
def childCap : Nat := 128

/-- The children of one LAUNCH in ascending lane order, with their packets and their tags. -/
def childrenOf (s : State) (c w : Nat) (mask : Mask) (base : DWord) (pkts : List (Option (List Byte))) : List Child :=
  ((lanesOf mask).zip pkts).map (fun (l, b) =>
    { packet := base + BitVec.ofNat 64 (64 * l), pkt := b, parent := (s.warp c w).handle, warp := (s.warp c w).wnum
      seq := (s.warp c w).lseq, lane := l, stream := (s.grid (gridOf (s.warp c w).handle)).stream
      l := (s.grid (gridOf (s.warp c w).handle)).l })

/-- Whether a queue can take the children of a mask. -/
def childRoom (k : Core) (q : Nat) (mask : Mask) : Bool := decide ((tget [] k.childq q).length + popcount128 mask ≤ childCap)

/-- Enqueue the children of a LAUNCH; ctl.lseq goes on. -/
def enqueueChildren (s : State) (c w q : Nat) (mask : Mask) (base : DWord) (pkts : List (Option (List Byte))) : State :=
  let l := childrenOf s c w mask base pkts
  (s.updCore c (fun k => { k with childq := tset k.childq q (tget [] k.childq q ++ l) })).updWarp c w
    (fun x => { x with lseq := x.lseq + 1 })

/-- The first LAUNCH that waits for room in a queue. That of a warp which is captured waits until the warp is back. -/
def launchAhead (k : Core) (q : Nat) : Option LaunchWait :=
  k.launchq.find? (fun x => x.q == q && (k.warp x.warp).status == .run)

/-- The packets of a LAUNCH, read as loads of the warp; one that is poisoned launches nothing (R253, R322). -/
def childPackets : List Nat → State → State × List (Option (List Byte))
  | [], s => (s, [])
  | pa :: r, s =>
    let (s, b) := warpRead s pa 64
    let (s, l) := childPackets r s
    (s, (if b.any (·.2) then none else some (b.map (·.1))) :: l)

def runLaunch (d a : BitVec 7) (q : BitVec 2) (s0 s : State) : Run :=
  notInRegion s0 <|
    let base := sPairGet s0.me a
    let m := s0.cur.mask
    let at_ (l : Nat) : DWord := base + BitVec.ofNat 64 (64 * l)
    if base.toNat % 64 ≠ 0 then .error ⟨.misalignedAccess, 0, base, 0, 0, []⟩
    else
      match badTrap 0 ((lanesOf m).filterMap (fun l => checkAddr 64 none false l 0 (at_ l))) with
      | some tr => .error tr
      | none =>
        match translateLanes s0 .read 0 ((lanesOf m).map (fun l => (l, at_ l))) with
        | .error tr => .error tr
        | .ok (.hold vas) => holdWalk s0 vas
        | .ok (.ok ls) =>
          let (s, pkts) := childPackets (ls.map (·.pa)) s
          if childRoom s0.myCore q.toNat m && (launchAhead s0.myCore q.toNat).isNone then
            .ok (pendS (enqueueChildren s s.cur.core s.cur.warp q.toNat m base pkts) 1 d (BitVec.ofNat 32 (popcount128 m)))
          else
            let s := waitEntry s0 s .launch
            .ok (s.updMyCore (fun k => { k with launchq := k.launchq ++ [⟨s.cur.warp, m, d, base, q.toNat, pkts⟩] }))

/-- The first waiting LAUNCH of a queue that has room for it. -/
def launchReady (s : State) (c q : Nat) : Option LaunchWait :=
  match launchAhead (s.core c) q with
  | some x => if childRoom (s.core c) q x.mask then some x else none
  | none => none

/-- LAUNCH_ENQUEUE on queue `ev.idx` of core `ev.core`: SD lands and S is taken now (R254). -/
def execLaunchEnqueue (s : State) : Out :=
  match launchReady s s.ev.core s.ev.idx with
  | none => .refused .notEnabled
  | some x =>
    let s := enqueueChildren s s.ev.core x.warp x.q x.mask x.base x.pkts
    .next (syncReserve (s.updCore s.ev.core (fun k =>
      { k.updWarp x.warp (fun w => sSet (freeEntry .launch x.mask w) x.d (BitVec.ofNat 32 (popcount128 x.mask))) with
        launchq := k.launchq.filter (fun y => y != x) })) s.ev.core x.warp)

/-! ## ROLE (R255) -/

/-- A warp resumes at the role's entry address with the lanes of its ROLE entry. -/
def enterRole (r : Role) (w : Warp) : Warp :=
  match w.entries with
  | [] => w
  | e :: _ =>
    { w with entries := [⟨r.entry, 0, e.mask, false, 0, .none, none⟩], spilled := [], susp := .none, also := [], prio := r.cls,
             issuer := none, dl := 0, xfer := .none, falls := [] }

/-- The group switches when every warp of it has arrived or exited. -/
def tryRole (s : State) (h : Nat) : State :=
  let g := s.group h
  let here (w : Nat) : Bool := (tget? g.arrivedRole (s.warp g.core w).wnum).isSome
  match g.slots.filterMap (fun w => tget? g.arrivedRole (s.warp g.core w).wnum) with
  | [] => s
  | idx :: _ =>
    if g.slots.all (fun w => here w || hasEnded s g.core w) then
      let r := g.roles.getD idx ⟨0, 0, []⟩
      let s := s.updGroup h (fun g => { g with role := idx, pools := r.pools, arrivedRole := [] })
      g.slots.foldl (fun s w => if hasEnded s g.core w then s else s.updWarp g.core w (enterRole r)) s
    else s

def runRole (b : SSrc) (s0 s : State) : Run :=
  notInRegion s0 <|
    let g := s0.myGroup
    let idx := (b.val s0.me).toNat
    if s0.me.handlerOf.isSome ∨ s0.me.wnum ≥ 16 then .error (.of .barrierFault)
    else if idx ≥ g.roles.length then .error (.of .illegalOperand)
    else if !s0.me.loops.isEmpty || transferPending s0.me then .error (.of .loopFault)
    else if decide (s0.me.entries.length + s0.me.spilled.length > 1) ||
        g.arrivedRole.any (fun x => x.1 != s0.me.wnum && x.2 != idx) then .error (.of .barrierFault)
    else
      let s := suspend s0 s (.role idx)
      let s := s.updMyGroup (fun g => { g with arrivedRole := tset g.arrivedRole s0.me.wnum idx })
      .ok s

/-- The switch that a bundle's ROLE brings about, once the bundle has issued. -/
def roleAfter (s : State) : State :=
  match s.me.susp with
  | .role _ => tryRole s s.me.handle.toNat
  | _ => s

def withRole (o : Out) : Out :=
  match o with
  | .next s => .next (roleAfter s)
  | o => o

/-! ## WDOG, GOVR (R256, R257) -/

/-- The budget that counts for the issuing warp: its group's, or its own (R256, R376). -/
def budgetOf (s : State) : DWord :=
  if s.me.handlerOf.isSome || s.me.handle == noGroup then s.me.budget else s.myGroup.budget

def setBudget (s : State) (v : DWord) : State :=
  if s.me.handlerOf.isSome || s.me.handle == noGroup then s.updMe (fun w => { w with budget := v })
  else s.updMyGroup (fun g => { g with budget := v })

def runWdogRd (d : BitVec 7) (_ s : State) : Run := .ok (pendPair s 1 d (budgetOf s))

def runWdogLower (a : BitVec 7) (s0 s : State) : Run :=
  let v := sPairGet s0.me a
  .ok (setBudget s (if v.ult (budgetOf s) then v else budgetOf s))

def runWdogSet (a : BitVec 7) (s0 s : State) : Run :=
  if s0.me.level = .u then .error (.of .privilegeViolation) else .ok (setBudget s (sPairGet s0.me a))

/-- The index of a governor entry, even for a pair (R257). -/
def govIndex (s : State) (b : SSrc) (pair : Bool) (k : Nat → Run) : Run :=
  let i := (b.val s.me).toNat
  if i > 63 ∨ (pair ∧ i % 2 ≠ 0) then .error (.of .illegalOperand) else k i

def govEntry (s : State) (i : Nat) : Word := tget 0 s.fr.gov i

/-- Set an entry of the governor table; entries 8 to 15 are reserved and read as zero (R404). -/
def govSet (t : Table Word) (i : Nat) (v : Word) : Table Word := if 8 ≤ i ∧ i < 16 then t else tset t i v

def runGovr (d : BitVec 7) (b : SSrc) (s0 s : State) : Run :=
  govIndex s0 b false fun i => .ok (pendS s 2 d (govEntry s0 i))

def runGovrP (d : BitVec 7) (b : SSrc) (s0 s : State) : Run :=
  govIndex s0 b true fun i => .ok (pendPair s 2 d (govEntry s0 (i + 1) ++ govEntry s0 i))

/-- A write of the governor table on its way to all nine copies. -/
def govSend (s : State) (i : Nat) (l : List Word) : State :=
  { s with fr := { s.fr with govWrites := s.fr.govWrites ++ [(s.gcc + 160, i, l)] } }

def runGovrW (a : BitVec 7) (b : SSrc) (s0 s : State) : Run :=
  govIndex s0 b false fun i =>
    if s0.me.level = .u then .error (.of .privilegeViolation) else .ok (govSend s i [sGet s0.me a])

def runGovrWp (a : BitVec 7) (b : SSrc) (s0 s : State) : Run :=
  govIndex s0 b true fun i =>
    if s0.me.level = .u then .error (.of .privilegeViolation)
    else .ok (govSend s i [sGet s0.me a, sGet s0.me (a + 1)])

/-- GOVERNOR_TABLE_UPDATE: the first write in flight whose cycle has come. -/
def execGovernorTableUpdate (s : State) : Out :=
  match s.fr.govWrites with
  | (due, i, l) :: r =>
    if due ≤ s.gcc then
      .next { s with fr := { s.fr with govWrites := r
                                       gov := (l.zipIdx).foldl (fun t x => govSet t (i + x.2) x.1) s.fr.gov } }
    else .refused .notEnabled
  | [] => .refused .notEnabled

/-! ## COPY, CMPT, CMPQ (R189, R258, R259) -/

/-- COPY: the record is read at issue and joins its queue. -/
def runCopy (x : XCtl) (a : BitVec 7) (q : BitVec 2) (s0 s : State) : Run :=
  descriptor s0 s (sPairGet s0.me a) 64 64 fun s b =>
    match regionStart s0 x.sco with
    | .error tr => .error tr
    | .ok start =>
      if (tget [] s0.myCore.copyq q.toNat).length ≥ 16 then holdQueue s0
      else
        let add (rid : Option Nat) (s : State) : Run :=
          let (id, s) := s.fresh
          let r : CopyRec :=
            { bytes := b, handle := s.me.handle, core := s.cur.core, warp := s.cur.warp, rid := rid, stream := none
              row := 0, halted := false, started := false, level := s.me.level, leaves := [], id := id, due := start.getD (s0.gcc + 1), region := start.isSome
              deps := gateIds s0 1 }
          .ok (s.updMyCore (fun k => { k with copyq := tset k.copyq q.toNat (tget [] k.copyq q.toNat ++ [r]) }))
        if x.ae then register s x.ac fun rid s => add (some rid) (addResult s (Result.new rid x.ac [] 0))
        else add none s

/-- Whether a tile submit record is well formed (R258, R259). -/
def cmptOk (b : List Byte) : Bool :=
  let k := field b 14 1
  field b 15 1 == 0 && field b 24 8 == 0 && decide (k ≤ 2) && field b 16 8 % 64 == 0 && (k != 2 || field b 16 8 == 0)

def runCmpt (x : XCtl) (a : BitVec 7) (s0 s : State) : Run :=
  descriptor s0 s (sPairGet s0.me a) 32 32 fun s b =>
    if !cmptOk b then .error (.of .illegalOperand) else engCommand x 5 0 [] 1 (.cmpt b) s0 s

/-- CMPQ samples the session two cycles after issue. -/
def runCmpq (x : XCtl) (d sn : BitVec 7) (s0 s : State) : Run :=
  engCommand x 5 0 [.sreg d 0, .sreg (d + 1) 0] 2 (.cmpq d (sGet s0.me sn)) s0 s

/-! ## MARK, MARKW (R188) -/

/-- The numbers of the commands that stand in one of a core's queues of R188. -/
def queueIds (s : State) (c q : Nat) : List Nat :=
  let k := s.core c
  let e := k.eng
  let cmds (f : EngOp → Bool) : List Nat := (k.ecmds.filter (fun x => f x.op)).map (·.id)
  if q < 4 then (tget [] k.copyq q).map (·.id)
  else match q with
    | 4 => e.fills.map (·.id)
    | 5 => e.run.toList.map (·.id) ++ e.queue.map (fun x => match x with | .mcall m => m.id | .mpsw id .. => id)
    | 6 => cmds (fun o => match o with | .ray .. => true | _ => false) ++ (s.sched.builds.filter (fun b => b.core == c)).map (·.id)
    | 7 => cmds (fun o => match o with | .tex .. => true | _ => false)
    | _ => cmds (fun o => match o with | .cmpt .. => true | _ => false)

/-- Whether a command is still in a queue of a core. -/
def inQueues (s : State) (c id : Nat) : Bool := (List.range 9).any (fun q => (queueIds s c q).contains id)

/-- MARK: the marker stands behind every command of the queues it names (R188, R325). -/
def runMark (mask : BitVec 9) (m : BitVec 3) (s0 s : State) : Run :=
  let ids := ((List.range 9).filter (fun q => mask.getLsbD q)).foldl (fun l q => l ++ queueIds s0 s0.cur.core q) []
  .ok (s.updMe (fun w => { w with markers := tset w.markers m.toNat ids }))

/-- The stores and atomics of a warp that have not been acknowledged. -/
def openStores (s : State) : List Nat :=
  (s.ms.reqs.filter (fun r => r.core == s.cur.core && r.warp == s.cur.warp &&
    (match r.kind with | .store _ | .atom _ => true | _ => false))).map (·.id)

/-- What a MARKW waits for: the commands ahead of its marker and the stores before it, and nothing where the marker was never
placed (R188). -/
def markWait (s : State) (m : BitVec 3) : List Nat × List Nat :=
  match tget? s.me.markers m.toNat with
  | some ids => (ids, openStores s)
  | none => ([], [])

/-- The result that the issuing warp registered last is that of a MARKW. -/
def noteMarkw (s : State) : State := s.updMe (fun w => { w with mwaits := w.mwaits ++ (w.results.getLast?.map (·.rid)).toList })

/-- MARKW completes when the warp's markers have retired and its stores have been acknowledged; MARK has no reply. -/
def runMarkw (x : XCtl) (m : BitVec 3) (s0 s : State) : Run :=
  let (marks, reqs) := markWait s0 m
  match engCommand x 0 0 [] 1 (.hold marks reqs) s0 s with
  | .error tr => .error tr
  | .ok t => .ok (if x.ae then noteMarkw t else t)

/-! ## The meanings -/

def execTrap (g : Guard) (b : SSrc) (s : State) : Out := withAfter (slotExec (.trap g b) (runTrap b) s)
def execSys (g : Guard) (b : SSrc) (s : State) : Out := withAfter (slotExec (.sys g b) (runSys b) s)
def execEret (g : Guard) (s : State) : Out := slotExec (.eret g) runEret s
def execCtlr (g : Guard) (d : BitVec 7) (b : SSrc) (s : State) : Out := slotExec (.ctlr g d b) (runCtlr d b) s
def execCtlw (g : Guard) (a : BitVec 7) (b : SSrc) (s : State) : Out := slotExec (.ctlw g a b) (runCtlw a b) s
def execSegw (g : Guard) (a : BitVec 7) (seg : BitVec 3) (limit : Bool) (s : State) : Out :=
  slotExec (.segw g a seg limit) (runSegw a seg limit) s
def execPrmt (g : Guard) (d a : BitVec 7) (kill : Bool) (s : State) : Out :=
  slotExec (.prmt g d a kill) (runPrmt d a kill) s
def execLaunch (g : Guard) (d a : BitVec 7) (q : BitVec 2) (s : State) : Out :=
  slotExec (.launch g d a q) (runLaunch d a q) s
def execRole (g : Guard) (b : SSrc) (s : State) : Out := withRole (slotExec (.role g b) (runRole b) s)
def execWdogRd (g : Guard) (d : BitVec 7) (s : State) : Out := slotExec (.wdogRd g d) (runWdogRd d) s
def execWdogLower (g : Guard) (a : BitVec 7) (s : State) : Out := slotExec (.wdogLower g a) (runWdogLower a) s
def execWdogSet (g : Guard) (a : BitVec 7) (s : State) : Out := slotExec (.wdogSet g a) (runWdogSet a) s
def execGovr (g : Guard) (d : BitVec 7) (b : SSrc) (s : State) : Out := slotExec (.govr g d b) (runGovr d b) s
def execGovrP (g : Guard) (d : BitVec 7) (b : SSrc) (s : State) : Out := slotExec (.govrP g d b) (runGovrP d b) s
def execGovrW (g : Guard) (a : BitVec 7) (b : SSrc) (s : State) : Out := slotExec (.govrW g a b) (runGovrW a b) s
def execGovrWp (g : Guard) (a : BitVec 7) (b : SSrc) (s : State) : Out := slotExec (.govrWp g a b) (runGovrWp a b) s
def execCopy (x : XCtl) (a : BitVec 7) (q : BitVec 2) (s : State) : Out := slotExec (.copy x a q) (runCopy x a q) s
def execCmpt (x : XCtl) (a : BitVec 7) (s : State) : Out := slotExec (.cmpt x a) (runCmpt x a) s
def execCmpq (x : XCtl) (d sn : BitVec 7) (s : State) : Out := slotExec (.cmpq x d sn) (runCmpq x d sn) s
def execMark (x : XCtl) (mask : BitVec 9) (m : BitVec 3) (s : State) : Out := slotExec (.mark x mask m) (runMark mask m) s
def execMarkw (x : XCtl) (m : BitVec 3) (s : State) : Out := slotExec (.markw x m) (runMarkw x m) s

/-- TLBINV: a write of ctl.tlbinv from `ev.val` (R391). -/
def execTlbinv (s : State) : Out := .next (startInvalidation s (s.ev.val.extractLsb' 0 32))

/-- DBG_CTL_MODE: a write of dbg.ctl of core `ev.core` (R457). -/
def execDbgCtlMode (s : State) : Out := .next (writeDebug s s.ev.core (s.ev.val.extractLsb' 0 32))

end Sys2Proof.Machine
end

