-- ==== Sys2Proof/Machine/Engines.lean ====
section
/-!
DEFINITION. What the ray, texture, status and composite commands share (R231, R232): exact quotients rounded once, reads
on the ray and texture path (R248, R310), records of failed reads (R392), and the life of a command.
-/
namespace Sys2Proof.Machine

/-! ## Rounding of quotients -/

/-- A signed quotient `num / den` in FP32 or another format, rounded once under RNE; `den > 0`. -/
def ratioF (f : Fmt) (num : Int) (den : Nat) : Nat :=
  let k := 64 + bitLen den
  let n := num.natAbs * 2 ^ k
  let q := n / den
  let m := 2 * q + (if n % den = 0 then 0 else 1)
  (encodeNum f .rne false false (decide (num < 0)) m (-(k : Int) - 1) 0).1

/-- A finite number as an exact value; none for a NaN or an infinity. -/
def finite (c : Nat) : Option Exact :=
  match decodeF .f32 c with
  | .num s m e => some ⟨if s then -(m : Int) else m, e⟩
  | _ => none

/-- An exact value in units of `2^-k`, rounded towards −∞. -/
def Exact.scaled (x : Exact) (k : Nat) : Int :=
  let e := x.e + k
  if 0 ≤ e then x.n * 2 ^ e.toNat else x.n / 2 ^ (-e).toNat

def Exact.neg (x : Exact) : Exact := ⟨-x.n, x.e⟩

def Exact.sub (x y : Exact) : Exact := x.add y.neg

def Exact.mul (x y : Exact) : Exact := ⟨x.n * y.n, x.e + y.e⟩

/-- An exact value as the signed numerator over a power of two. -/
def Exact.ratio (x : Exact) : Int × Nat :=
  if 0 ≤ x.e then (x.n * 2 ^ x.e.toNat, 1) else (x.n, 2 ^ (-x.e).toNat)

/-- The quotient of two exact values in a format, rounded once; the divisor is not zero. -/
def Exact.quot (f : Fmt) (x y : Exact) : Nat :=
  let (a, b) := x.ratio
  let (c, d) := y.ratio
  ratioF f (if c < 0 then -(a * d) else a * d) (b * c.natAbs)

/-! ## Reads of the ray and texture path -/

/-- Why an engine read failed: the subcode of a translation that failed, or a poisoned line. -/
inductive ReadFault where
  | translation (sub : Nat)
  | poison
  deriving DecidableEq, Repr

def ReadFault.cause : ReadFault → Cause
  | .translation _ => .translationFault
  | .poison => .poisonedData

def ReadFault.sub : ReadFault → Nat
  | .translation n => n
  | .poison => 0

/-- A line as the ray and texture path of a die reads it: the remote-data cache holds lines of other homes (R309). -/
def engLine (s : State) (c ln : Nat) : State × CLine :=
  match dieCopy s c ln with
  | some l => (s, l)
  | none =>
    let s := netAccess s ln
    (if remoteLine c ln then rdcPut s (dieOf c) ln (homeLine s ln) else s, homeLine s ln)

/-- A line through the texture cache: a cached copy may be read or read anew (R248). -/
def texLine (s : State) (c ln : Nat) : State × CLine :=
  let (n, s) := s.draw
  match tget? (s.core c).texCache ln with
  | some l =>
    if Config.freeBool n then (s, l)
    else
      let (s, l) := engLine s c ln
      (s.updCore c (fun k => { k with texCache := tset k.texCache ln l }), l)
  | none =>
    let (s, l) := engLine s c ln
    (s.updCore c (fun k => { k with texCache := tset k.texCache ln l }), l)

/-- `n` bytes of one line at a virtual address. -/
def engRead (s : State) (c : Nat) (lv : Level) (tex : Bool) (va n : Nat) : State × Except ReadFault (List Byte) :=
  match xlateOn s (dieOf c) lv .read va with
  | .error e => (s, .error (.translation e))
  | .ok pa =>
    let (s, l) := if tex then texLine s c (lineOf pa) else engLine s c (lineOf pa)
    if l.poison then (s, .error .poison) else (s, .ok ((l.bytes.drop (pa % 128)).take n))

/-- A write of the ray and texture path of a die goes to the home and updates a copy that the die holds (R309, R310). -/
def engWrite (s : State) (c : Nat) (lv : Level) (va : Nat) (b : List Byte) : Except (Nat × Nat) State :=
  let copy (s : State) (x : Nat × List Byte) : State :=
    match xlateOn s (dieOf c) lv .write x.1 with
    | .error _ => s
    | .ok pa =>
      let o := pa % 128
      let n := x.2.length
      rdcUpdate s (dieOf c) (lineOf pa) (List.replicate o 0 ++ x.2 ++ List.replicate (128 - o - n) 0)
        ((BitVec.ofNat 128 (2 ^ n - 1)) <<< o) (n == 128)
  match writeOn s (dieOf c) lv va b with
  | .error e => .error e
  | .ok s => .ok ((cutLines va b).foldl copy s)

/-- A record of a read that failed (R392). -/
def engRecord (s : State) (c : Nat) (h : Word) (f : ReadFault) (ak va : Nat) : State :=
  postPlain s { plainRecord s f.cause f.sub 4 ak h (BitVec.ofNat 64 va) with core := c }

/-! ## Results -/

/-- Set the values of a result's writes. -/
def fillVals (s : State) (c : Nat) (rid : Option Nat) (f : List Write → List Write) : State :=
  match rid with
  | none => s
  | some i => updResult s c i (fun r => { r with todo := f r.todo })

/-- The values of a block of registers, in the order of its writes. -/
def putRegs : List VReg → List Write → List Write
  | v :: vs, .vec d m _ l k :: r => .vec d m v l k :: putRegs vs r
  | _, l => l

/-- The values of a pair of s-registers. -/
def putPair (v : DWord) : List Write → List Write
  | [.sreg a _, .sreg b _] => [.sreg a (v.extractLsb' 0 32), .sreg b (v.extractLsb' 32 32)]
  | l => l

/-- The writes of a block of `k` registers in the query lanes. -/
def blockTodo (s : State) (n : BitVec 9) (k : Nat) (m : Mask) : List Write :=
  (blockNames n k).map (fun x => .vec (some (target s x)) m .zero none none)

/-- Any poison in the lanes of a block. -/
def blockPoison (l : List VReg) : Mask := l.foldl (fun m v => m ||| v.poison) 0

/-- A command has done its work: its completion arrives after a time of its own (R163). -/
def cmdDone (s : State) (c id : Nat) : State :=
  let (n, s) := s.draw
  s.updCore c (fun k => { k with ecmds := k.ecmds.map (fun x =>
    if x.id = id then { x with op := .done, due := s.gcc + 1 + Config.freeNat n } else x) })

/-- Whether a command's cycle has come and what it waits for has been answered. -/
def cmdOpen (s : State) (x : ECmd) : Bool := decide (x.due ≤ s.gcc) && x.deps.all (fun d => (getReq s d).isNone)

/-- The completions of a core whose time has come arrive (R163). -/
def cmdArrived (s : State) (c : Nat) : Option ECmd :=
  (s.core c).ecmds.find? (fun x => x.op == .done && decide (x.due ≤ s.gcc))

end Sys2Proof.Machine
end

