-- ==== Sys2Proof/Machine/Texture.lean ====
section
/-!
DEFINITION. The texture sampler (R241 to R248): descriptors, texel formats, taps, and TEX.S, TEX.F, TEX.L, TEXQ.
-/
namespace Sys2Proof.Machine

/-! ## Descriptors (R241) and texels (R242) -/

/-- A texture descriptor. -/
structure TexDesc where
  base : Nat
  w : Nat
  h : Nat
  layers : Nat
  vm1 : Nat
  fmt : Nat
  lin : Bool
  mipl : Bool
  ax : Nat
  ay : Nat
  ok : Bool
  deriving DecidableEq, Repr

def TexDesc.parse (b : List Byte) : TexDesc :=
  let w := field b 8 2 + 1
  let h := field b 10 2 + 1
  let z := field b 12 2 + 1
  let filt := field b 16 1
  let adr := field b 17 1
  { base := field b 0 8, w := w, h := h, layers := z, vm1 := field b 14 1, fmt := field b 15 1
    lin := filt % 2 == 1, mipl := filt / 2 % 2 == 1, ax := adr % 4, ay := adr / 4 % 4
    ok := field b 0 8 % 64 == 0 && decide (w ≤ 16384) && decide (h ≤ 16384) && decide (z ≤ 2048) &&
      decide (field b 15 1 ≤ 7) && decide (filt < 4) && decide (adr < 16) && (b.drop 18).all (· == 0) &&
      decide (field b 14 1 ≤ Nat.log2 (max w h)) }

/-- Bytes of a texel. -/
def TexDesc.bytes (t : TexDesc) : Nat :=
  match t.fmt with
  | 0 => 1
  | 4 => 8
  | 6 => 16
  | 7 => 2
  | _ => 4

/-- Width, height and pitch of a level (R243). -/
def TexDesc.wAt (t : TexDesc) (m : Nat) : Nat := max 1 (t.w / 2 ^ m)
def TexDesc.hAt (t : TexDesc) (m : Nat) : Nat := max 1 (t.h / 2 ^ m)
def TexDesc.pitch (t : TexDesc) (m : Nat) : Nat := (t.wAt m * t.bytes + 63) / 64 * 64

/-- The address of a texel (R243). -/
def TexDesc.addr (t : TexDesc) (m z x y : Nat) : Nat :=
  let before := (List.range m).foldl (fun a j => a + t.layers * t.pitch j * t.hAt j) 0
  t.base + before + z * t.pitch m * t.hAt m + y * t.pitch m + x * t.bytes

/-- The fifth root of a number, rounded down. -/
def root5From (n : Nat) : Nat → Nat → Nat
  | 0, r => r
  | k + 1, r => root5From n k (if (r + 2 ^ k) ^ 5 ≤ n then r + 2 ^ k else r)

/-- The correctly rounded decoding of IEC 61966-2-1 (R242): below the knee `k / (255 · 12.92)`, above it
`((k / 255 + 0.055) / 1.055)^(12/5)`, rounded from its fifth root. -/
def srgbDecode (k : Nat) : Nat :=
  if 100000 * k ≤ 4045 * 255 then ratioF .f32 (25 * k) (255 * 323)
  else
    let n := (40 * k + 561) ^ 12 * 2 ^ 320 / 10761 ^ 12
    let r := root5From n 66 0
    let exact := r ^ 5 == n && (40 * k + 561) ^ 12 * 2 ^ 320 % 10761 ^ 12 == 0
    (encodeNum .f32 .rne false false false (2 * r + (if exact then 0 else 1)) (-65) 0).1

/-- A channel stored as FP32: a NaN becomes canonical (R84, R242). -/
def canonF32 (c : Nat) : Nat := if (decodeF .f32 c).isNan then Fmt.nanCode .f32 else c

/-- A half channel widened to FP32. -/
def halfF32 (c : Nat) : Nat := (toFloat .f32 false .plain .rne (decodeF .h16 c) 0).1

/-- One in FP32. -/
def oneF32 : Nat := 0x3F800000

/-- The four channels of a texel (R242). -/
def texelOf (fmt : Nat) (b : List Byte) : List Nat :=
  let u8 (i : Nat) := ratioF .f32 (field b i 1) 255
  match fmt with
  | 0 => [u8 0, 0, 0, oneF32]
  | 1 => [u8 0, u8 1, u8 2, u8 3]
  | 2 => [srgbDecode (field b 0 1), srgbDecode (field b 1 1), srgbDecode (field b 2 1), u8 3]
  | 3 => [halfF32 (field b 0 2), halfF32 (field b 2 2), 0, oneF32]
  | 4 => [halfF32 (field b 0 2), halfF32 (field b 2 2), halfF32 (field b 4 2), halfF32 (field b 6 2)]
  | 5 => [canonF32 (field b 0 4), 0, 0, oneF32]
  | 6 => [canonF32 (field b 0 4), canonF32 (field b 4 4), canonF32 (field b 8 4), canonF32 (field b 12 4)]
  | _ => [ratioF .f32 (field b 0 2) 65535, 0, 0, oneF32]

/-! ## Taps (R243, R245) -/

/-- A texel index on an axis of size `n`, or none for a border tap (R243). -/
def mapIndex (mode : Nat) (i : Int) (n : Nat) : Option Nat :=
  match mode with
  | 0 => some (i % n).toNat
  | 1 => some (min (max i 0) (n - 1)).toNat
  | 2 =>
    let j := (i % (2 * n)).toNat
    some (if j < n then j else 2 * n - 1 - j)
  | _ => if 0 ≤ i ∧ i < n then some i.toNat else none

/-- A tap: level, indices and weight. -/
structure Tap where
  m : Nat
  i : Int
  j : Int
  w : Nat
  deriving DecidableEq, Repr

/-- The levels of a lane with their weights (R245). -/
def TexDesc.levels (t : TexDesc) (lam : Nat) : List (Nat × Nat) :=
  let v : Int :=
    match decodeF .f32 lam with
    | .nan .. => 0
    | .inf s => if s then 0 else t.vm1 * 2 ^ 149
    | .num s m e => min (max (Exact.scaled ⟨if s then -(m : Int) else m, e⟩ 149) 0) (t.vm1 * 2 ^ 149)
  if t.mipl then
    let m0 := (v / 2 ^ 149).toNat
    let fl := if m0 = t.vm1 then 0 else (v % 2 ^ 149 * 256 / 2 ^ 149).toNat
    [(m0, 256 - fl), (min (m0 + 1) t.vm1, fl)]
  else [((v + 2 ^ 148) / 2 ^ 149 |>.toNat, 256)]

/-- floor and fraction of `u · n − ½` in units of 1/256. -/
def linAxis (u : Exact) (n : Nat) : Int × Nat :=
  let x := Exact.scaled (Exact.mul u ⟨2 * n, 0⟩) 149 - 2 ^ 149
  (x / 2 ^ 150, (x % 2 ^ 150 * 256 / 2 ^ 150).toNat)

/-- The taps of a lane in order (R245). -/
def TexDesc.taps (t : TexDesc) (u v : Exact) (lam : Nat) : List Tap :=
  ((t.levels lam).map (fun l =>
    if t.lin then
      let (i, fu) := linAxis u (t.wAt l.1)
      let (j, fv) := linAxis v (t.hAt l.1)
      [⟨l.1, i, j, (256 - fu) * (256 - fv) * l.2⟩, ⟨l.1, i + 1, j, fu * (256 - fv) * l.2⟩,
       ⟨l.1, i, j + 1, (256 - fu) * fv * l.2⟩, ⟨l.1, i + 1, j + 1, fu * fv * l.2⟩]
    else
      [⟨l.1, Exact.scaled (Exact.mul u ⟨t.wAt l.1, 0⟩) 149 / 2 ^ 149,
        Exact.scaled (Exact.mul v ⟨t.hAt l.1, 0⟩) 149 / 2 ^ 149, 65536 * l.2⟩])).flatten

/-! ## Reads -/

/-- A texel, with whether its read failed; a failed read leaves a record (R248). -/
def readTexel (s : State) (x : ECmd) (c : Nat) (t : TexDesc) (m z i j : Nat) : State × List Nat × Bool :=
  let va := t.addr m z i j
  match engRead s c x.level true va t.bytes with
  | (s, .ok b) => (s, texelOf t.fmt b, false)
  | (s, .error f) => (engRecord s c x.handle f 4 va, [0, 0, 0, 0], true)

/-- A tap of a layer. -/
def readTap (s : State) (x : ECmd) (c : Nat) (t : TexDesc) (z : Nat) (p : Tap) : State × List Nat × Bool :=
  match mapIndex t.ax p.i (t.wAt p.m), mapIndex t.ay p.j (t.hAt p.m) with
  | some i, some j => readTexel s x c t p.m z i j
  | _, _ => (s, [0, 0, 0, 0], false)

/-- acc + texel · w · 2^-24, the product exact and one rounding (R245). -/
def tapAdd (w : Nat) (acc tx : Nat) : Nat :=
  let p := match mulVal (decodeF .f32 tx) (.num false w (-24)) with | some v => [v] | none => []
  let a := decodeF .f32 acc
  let xs := if (decodeF .f32 tx).isNan then [a, decodeF .f32 tx] else [a]
  (sumTerms .f32 .plain .rne false xs false (a :: p)).1

/-- TEX.F over the taps of positive weight. -/
def filterTaps (x : ECmd) (c : Nat) (t : TexDesc) (z : Nat) : List Tap → State × List Nat × Bool → State × List Nat × Bool
  | [], r => r
  | p :: ps, (s, acc, bad) =>
    if p.w = 0 then filterTaps x c t z ps (s, acc, bad)
    else
      let (s, tx, b) := readTap s x c t z p
      filterTaps x c t z ps (s, List.zipWith (tapAdd p.w) acc tx, bad || b)

/-- The tap that a draw chooses (R246). -/
def chooseTap (r : Nat) : Nat → List Tap → Option Tap
  | _, [] => none
  | c, p :: ps => if r < c + p.w then some p else chooseTap r (c + p.w) ps

/-- The result of one lane: its four values and whether a read failed. `kind` is 0 TEX.S, 1 TEX.F, 2 TEX.L, 3 TEXQ. -/
def texLane (s : State) (x : ECmd) (c kind : Nat) (t : TexDesc) (v : List Nat) (d : Word) : State × List Nat × Bool :=
  let a (i : Nat) := v.getD i 0
  let z := min (a 2) (t.layers - 1)
  match kind with
  | 3 =>
    if a 0 ≤ t.vm1 then (s, [t.wAt (a 0), t.hAt (a 0), t.layers, t.vm1 + 1], false) else (s, [0, 0, 0, 0], false)
  | 2 =>
    let m := a 3
    if m ≤ t.vm1 ∧ a 2 < t.layers ∧ a 0 < t.wAt m ∧ a 1 < t.hAt m then readTexel s x c t m (a 2) (a 0) (a 1)
    else (s, [0, 0, 0, 0], false)
  | k =>
    match finite (a 0), finite (a 1) with
    | some u, some w =>
      let ps := t.taps u w (a 3)
      if k = 1 then filterTaps x c t z ps (s, [0, 0, 0, 0], false)
      else match chooseTap (d.toNat / 256) 0 ps with
        | some p => readTap s x c t z p
        | none => (s, [0, 0, 0, 0], false)
    | _, _ => (s, [0, 0, 0, 0], false)

/-- The registers of a texture block that a command reads. -/
def texReads (kind : Nat) : Nat := if kind = 3 then 1 else 4

/-- Every query lane of a command, in ascending order. -/
def texLanes (x : ECmd) (c kind : Nat) (t : TexDesc) (v : List VReg) (draws : List Word) :
    List Nat → State → List (List Nat) → Mask → State × List (List Nat) × Mask
  | [], s, out, po => (s, out, po)
  | l :: r, s, out, po =>
    if x.mask.getLsbD l then
      let (s, res, bad) := texLane s x c kind t (v.map (fun y => (y.lane l).toNat)) (draws.getD l 0)
      texLanes x c kind t v draws r s (out ++ [res]) (if bad then po ||| (1#128 <<< l) else po)
    else texLanes x c kind t v draws r s (out ++ [[0, 0, 0, 0]]) po

/-- A texture command does its work: its values go into its result. -/
def actTex (s : State) (c : Nat) (x : ECmd) (kind : Nat) (v : List VReg) (desc : List Byte) (draws : List Word) : State :=
  let s := if (s.core c).ecmds.any (fun y => y.warp == x.warp && y.inval && decide (y.id ≤ x.id)) then
      s.updCore c (fun k => { k with texCache := [] }) else s
  let (s, out, po) := texLanes x c kind (.parse desc) v draws (List.range 128) s [] 0
  let po := po ||| blockPoison (v.take (texReads kind))
  let regs := (List.range 4).map (fun i => (⟨out.map (fun r => BitVec.ofNat 32 (r.getD i 0)), po⟩ : VReg))
  cmdDone (fillVals s c x.rid (putRegs regs)) c x.id

/-! ## Issue -/

/-- TEX.S, TEX.F, TEX.L and TEXQ at issue: descriptor, draws of TEX.S, and the operands (R244, R246). -/
def runTex (kind : Nat) (x : XCtl) (blk : BitVec 9) (a : BitVec 7) (s0 s : State) : Run :=
  descriptor s0 s (sPairGet s0.me a) 64 64 fun s b =>
    if !(TexDesc.parse b).ok then .error (.of .illegalOperand)
    else
      let m := activeMask s0 x.p
      let v := (blockNames blk 4).map (vGet s0.myCore s0.me)
      let (draws, s) :=
        if kind = 0 then
          let (ds, w) := drawLanes m (List.range 128) s.me
          (ds, s.updMe (fun _ => w))
        else ([], s)
      engCommand x 4 m (blockTodo s blk 4 m) 1 (.tex kind blk v b draws) s0 s

def runTexS (x : XCtl) (blk : BitVec 9) (a : BitVec 7) : State → State → Run := runTex 0 x blk a
def runTexF (x : XCtl) (blk : BitVec 9) (a : BitVec 7) : State → State → Run := runTex 1 x blk a
def runTexL (x : XCtl) (blk : BitVec 9) (a : BitVec 7) : State → State → Run := runTex 2 x blk a
def runTexq (x : XCtl) (blk : BitVec 9) (a : BitVec 7) : State → State → Run := runTex 3 x blk a

def execTexS (x : XCtl) (blk : BitVec 9) (a : BitVec 7) (s : State) : Out := slotExec (.texS x blk a) (runTexS x blk a) s
def execTexF (x : XCtl) (blk : BitVec 9) (a : BitVec 7) (s : State) : Out := slotExec (.texF x blk a) (runTexF x blk a) s
def execTexL (x : XCtl) (blk : BitVec 9) (a : BitVec 7) (s : State) : Out := slotExec (.texL x blk a) (runTexL x blk a) s
def execTexq (x : XCtl) (blk : BitVec 9) (a : BitVec 7) (s : State) : Out := slotExec (.texq x blk a) (runTexq x blk a) s

end Sys2Proof.Machine
end

