-- ==== Sys2Proof/Machine/Ray.lean ====
section
/-!
DEFINITION. The ray unit (R233 to R240): acceleration structures in memory, builds and refits, the exact ray and
triangle test, and RQ.CL, RQ.AN, RQ.OC, BVHB, BVHF. The layout of a structure's nodes is the part's own; their bytes
stand in memory under an opaque mask.
-/
namespace Sys2Proof.Machine

/-! ## Exact vectors -/

/-- Three exact coordinates. -/
structure V3 where
  x : Exact
  y : Exact
  z : Exact
  deriving DecidableEq, Repr

def V3.sub (a b : V3) : V3 := ⟨a.x.sub b.x, a.y.sub b.y, a.z.sub b.z⟩
def V3.cross (a b : V3) : V3 :=
  ⟨(a.y.mul b.z).sub (a.z.mul b.y), (a.z.mul b.x).sub (a.x.mul b.z), (a.x.mul b.y).sub (a.y.mul b.x)⟩
def V3.dot (a b : V3) : Exact := ((a.x.mul b.x).add (a.y.mul b.y)).add (a.z.mul b.z)

/-- Three finite FP32 codes as a vector. -/
def v3Of (a b c : Nat) : Option V3 :=
  match finite a, finite b, finite c with
  | some x, some y, some z => some ⟨x, y, z⟩
  | _, _, _ => none

/-! ## Structures in memory (R237) -/

/-- A leaf as the part stores it: a triangle's vertices and index, or an instance's inverse transform, its structure,
its ID and its record index. `none` coordinates stand for vertices or transforms that are not finite. -/
structure Leaf3 where
  words : List Nat
  addr : Nat
  id : Nat
  index : Nat
  deriving DecidableEq, Repr

/-- Bytes of a leaf record: 64 for a triangle, 128 for an instance. -/
def leafSize (kind : Nat) : Nat := if kind = 0 then 64 else 128

def leafWords (kind : Nat) : Nat := if kind = 0 then 9 else 12

/-- The content of a leaf record. -/
def Leaf3.encode (kind : Nat) (l : Leaf3) : List Byte :=
  let b := (l.words.map (bytesOf 4)).flatten ++ bytesOf 8 l.addr ++ bytesOf 4 l.id ++ bytesOf 4 l.index
  b ++ List.replicate (leafSize kind - b.length) 0

def Leaf3.decode (kind : Nat) (b : List Byte) : Leaf3 :=
  let n := leafWords kind
  ⟨(List.range n).map (fun i => field b (4 * i) 4), field b (4 * n) 8, field b (4 * n + 8) 4, field b (4 * n + 12) 4⟩

/-- Hide or recover node bytes that stand at an offset of the structure. -/
def maskNode : Nat → List Byte → List Byte
  | _, [] => []
  | o, b :: r => (b ^^^ Config.nodeMask o) :: maskNode (o + 1) r

/-- The offset of the leaf at a place in the leaf sequence. -/
def leafAt (kind i : Nat) : Nat := 128 + leafSize kind * i

/-! ## The ray and triangle test (R235) -/

/-- A ray in some space: origin and direction. -/
structure Ray where
  o : V3
  d : V3
  deriving DecidableEq, Repr

/-- A hit: its t in FP32 and its barycentrics in FP16. -/
structure Hit where
  t : Nat
  u : Nat
  v : Nat
  deriving DecidableEq, Repr

/-- The sign of an exact value: −1, 0 or 1. -/
def Exact.sign (x : Exact) : Int := if x.n < 0 then -1 else if x.n = 0 then 0 else 1

/-- The exact test of a ray against a triangle, its edges included. With P = o + t·d on the triangle's plane, each
barycentric is the quotient of a triple product and det = −d · n. -/
def hitTri (r : Ray) (a b c : V3) (cb cf : Bool) : Option Hit :=
  let e1 := b.sub a
  let e2 := c.sub a
  let n := e1.cross e2
  let dn := r.d.dot n
  let front := dn.sign == -1
  if dn.n = 0 ∨ (front ∧ cf) ∨ (!front ∧ cb) then none
  else
    let ao := r.o.sub a
    let q := ao.cross r.d
    let det := dn.neg
    let un := (e2.dot q)
    let vn := (e1.dot q).neg
    let sg := det.sign
    let inside := decide (un.sign * sg ≥ 0) && decide (vn.sign * sg ≥ 0) &&
      decide (((det.sub un).sub vn).sign * sg ≥ 0)
    if inside then some ⟨Exact.quot .f32 (ao.dot n) det, Exact.quot .h16 un det, Exact.quot .h16 vn det⟩ else none

/-- tmin ≤ t ≤ tmax with t as rounded. -/
def accepted (t tmin tmax : Nat) : Bool :=
  let x := decodeF .f32 t
  !fLess false x (decodeF .f32 tmin) && !fLess false (decodeF .f32 tmax) x

/-- One component of a transformed point or direction: an exactly summed dot product, rounded once. -/
def rowDot (m : List Nat) (i : Nat) (v : V3) (point : Bool) : Option Nat :=
  match finite (m.getD (4 * i) 0), finite (m.getD (4 * i + 1) 0), finite (m.getD (4 * i + 2) 0), finite (m.getD (4 * i + 3) 0) with
  | some a, some b, some c, some t =>
    let x := ((a.mul v.x).add (b.mul v.y)).add (c.mul v.z)
    let y := if point then x.add t else x
    some (ratioF .f32 y.ratio.1 y.ratio.2)
  | _, _, _, _ => none

/-- A ray carried into object space; none where a component is not finite. -/
def toObject (m : List Nat) (r : Ray) : Option Ray :=
  let at_ (v : V3) (p : Bool) : Option V3 :=
    match rowDot m 0 v p, rowDot m 1 v p, rowDot m 2 v p with
    | some a, some b, some c => v3Of a b c
    | _, _, _ => none
  match at_ r.o true, at_ r.d false with
  | some o, some d => some ⟨o, d⟩
  | _, _ => none

/-! ## Queries (R234 to R236) -/

/-- What a lane's search has found: its hits in leaf order with instance record, instance ID and primitive, a read that failed, or
a structure that is not READY. -/
structure Found where
  hits : List (Hit × Nat × Nat × Nat)
  bad : Option (ReadFault × Nat)
  notReady : Bool
  deriving DecidableEq, Repr

def Found.none : Found := ⟨[], Option.none, false⟩

/-- What every lane of a query shares. -/
structure Query where
  c : Nat
  lv : Level
  cb : Bool
  cf : Bool
  tmin : Nat
  tmax : Nat
  deriving DecidableEq, Repr

/-- The header of a structure: STATE, KIND and NPRIM. -/
def readHeader (s : State) (q : Query) (va : Nat) : State × Except ReadFault (Nat × Nat × Nat) :=
  match engRead s q.c q.lv false va 64 with
  | (s, .ok b) => (s, .ok (field b 0 4, field b 4 1, field b 8 4))
  | (s, .error f) => (s, .error f)

/-- A leaf record. One that cannot be read is read, or is not on the ray's way, as a free choice says. -/
def readLeaf (s : State) (q : Query) (va kind i : Nat) : State × Except ReadFault (Option Leaf3) :=
  let o := leafAt kind i
  match engRead s q.c q.lv false (va + o) (leafSize kind) with
  | (s, .ok b) => (s, .ok (some (.decode kind (maskNode o b))))
  | (s, .error f) =>
    let (n, s) := s.draw
    if Config.freeBool n then (s, .error f) else (s, .ok none)

/-- A triangle of the words `w` and a ray that has no exact value in its space: whether the ray meets it, where, and with which
barycentrics is open, a function of the ray, the triangle, its instance, CB and CF alone (R235). A triangle of zero area or with a
vertex that is not finite is never hit, and with CB and CF set none is (R233, R239). Log entry 50. -/
def openTri (q : Query) (ray w inst : List Nat) : Option Hit :=
  let f (i : Nat) : Nat := (Config.rayFree 0 (ray ++ (if q.cb then 1 else 0) :: (if q.cf then 1 else 0) :: w ++ inst) i).toNat
  let g (k : Nat) := w.getD k 0
  match v3Of (g 0) (g 1) (g 2), v3Of (g 3) (g 4) (g 5), v3Of (g 6) (g 7) (g 8) with
  | some a, some b, some c =>
    let n := (b.sub a).cross (c.sub a)
    if (n.dot n).n = 0 ∨ (q.cb ∧ q.cf) ∨ f 0 % 2 = 0 ∨ (decodeF .f32 (f 1)).isNan then none
    else some ⟨f 1, f 2 % 2 ^ 16, f 3 % 2 ^ 16⟩
  | _, _, _ => none

/-- The triangles of one structure, in its leaf sequence. -/
def searchTris (q : Query) (ray xf : List Nat) (r : Option Ray) (va inst id : Nat) : List Nat → State → Found → State × Found
  | [], s, f => (s, f)
  | i :: is, s, f =>
    match readLeaf s q va 0 i with
    | (s, .error e) => (s, { f with bad := some (e, va + leafAt 0 i) })
    | (s, .ok none) => searchTris q ray xf r va inst id is s f
    | (s, .ok (some l)) =>
      let w (k : Nat) := l.words.getD k 0
      let hit := match r, v3Of (w 0) (w 1) (w 2), v3Of (w 3) (w 4) (w 5), v3Of (w 6) (w 7) (w 8) with
        | some r, some a, some b, some c => hitTri r a b c q.cb q.cf
        | some _, _, _, _ => none
        | none, _, _, _ => openTri q ray l.words xf
      let f := match hit with
        | some h => if accepted h.t q.tmin q.tmax then { f with hits := f.hits ++ [(h, inst, id, l.index)] } else f
        | none => f
      searchTris q ray xf r va inst id is s f

/-- The instances of a structure, in its leaf sequence. -/
def searchInsts (q : Query) (ray : List Nat) (r : Option Ray) (va : Nat) : List Nat → State → Found → State × Found
  | [], s, f => (s, f)
  | i :: is, s, f =>
    match readLeaf s q va 1 i with
    | (s, .error e) => (s, { f with bad := some (e, va + leafAt 1 i) })
    | (s, .ok none) => searchInsts q ray r va is s f
    | (s, .ok (some l)) =>
      match readHeader s q l.addr with
      | (s, .error e) => (s, { f with bad := some (e, l.addr) })
      | (s, .ok (st, kind, n)) =>
        if st ≠ 2 ∨ kind ≠ 0 then (s, { f with notReady := true })
        else
          let (s, f) := searchTris q ray l.words (r.bind (toObject l.words)) l.addr l.index l.id (List.range n) s f
          if f.bad.isSome then (s, f) else searchInsts q ray r va is s f

/-- Whether hit `a` is before `b` for RQ.CL (R236). -/
def closer (a b : Hit × Nat × Nat × Nat) : Bool :=
  let x := decodeF .f32 a.1.t
  let y := decodeF .f32 b.1.t
  fLess false x y || (!fLess false y x && (decide (a.2.1 < b.2.1) || (a.2.1 == b.2.1 && decide (a.2.2.2 < b.2.2.2))))

/-- The hit that a query returns: the closest, or the earliest in the leaf sequence. -/
def pickHit (kind : Nat) : List (Hit × Nat × Nat × Nat) → Option (Hit × Nat × Nat × Nat)
  | [] => none
  | h :: r => if kind = 0 then some (r.foldl (fun b x => if closer x b then x else b) h) else some h

/-- The four result words of a lane, or the one of RQ.OC. -/
def missWords (kind : Nat) (notReady : Bool) : List Nat :=
  if kind = 2 then [0] else [0x7F800000, if notReady then 0xFFFFFFFE else 0xFFFFFFFF, 0xFFFFFFFF, 0]

def hitWords (kind : Nat) (h : Hit × Nat × Nat × Nat) : List Nat :=
  if kind = 2 then [1] else [h.1.t, h.2.2.2, h.2.2.1, h.1.v * 2 ^ 16 + h.1.u]

/-- One lane of a query on a READY structure: its words, and the failed read that ends it. -/
def rayLane (s : State) (q : Query) (kind header skind n : Nat) (v : List Nat) : State × List Nat × Option (ReadFault × Nat) :=
  let a (i : Nat) := v.getD i 0
  let zero (c : Nat) := (decodeF .f32 c).isZero
  if (List.range 8).any (fun i => (decodeF .f32 (a i)).isNan) || fLess false (decodeF .f32 (a 7)) (decodeF .f32 (a 3)) ||
      (zero (a 4) && zero (a 5) && zero (a 6)) then (s, missWords kind false, none)
  else
    let r : Option Ray :=
      match v3Of (a 0) (a 1) (a 2), v3Of (a 4) (a 5) (a 6) with
      | some o, some d => some ⟨o, d⟩
      | _, _ => none
    let q := { q with tmin := a 3, tmax := a 7 }
    let (s, f) := if skind = 0 then searchTris q v [] r header 0 0 (List.range n) s .none
      else searchInsts q v r header (List.range n) s .none
    match f.bad with
    | some b => (s, missWords kind false, some b)
    | none =>
      if f.notReady then (s, missWords kind true, none)
      else match pickHit kind f.hits with
        | some h => (s, hitWords kind h, none)
        | none => (s, missWords kind false, none)

/-- One lane with its header: a header that cannot be read ends it as a failed read does. -/
def queryLane (s : State) (q : Query) (kind header : Nat) (v : List Nat) : State × List Nat × Option (ReadFault × Nat) :=
  match readHeader s q header with
  | (s, .error f) => (s, missWords kind false, some (f, header))
  | (s, .ok (st, skind, n)) =>
    if st ≠ 2 then (s, missWords kind true, none) else rayLane s q kind header skind n v

/-- Every query lane, in ascending order. -/
def queryLanes (x : ECmd) (q : Query) (kind header : Nat) (v : List VReg) :
    List Nat → State → List (List Nat) → Mask → State × List (List Nat) × Mask
  | [], s, out, po => (s, out, po)
  | l :: r, s, out, po =>
    if x.mask.getLsbD l then
      let (s, res, bad) := queryLane s q kind header (v.map (fun y => (y.lane l).toNat))
      let s := match bad with | some (f, va) => engRecord s q.c x.handle f 4 va | none => s
      queryLanes x q kind header v r s (out ++ [res]) (if bad.isSome then po ||| (1#128 <<< l) else po)
    else queryLanes x q kind header v r s (out ++ [[]]) po

/-- A ray query does its work. -/
def actRay (s : State) (c : Nat) (x : ECmd) (kind : Nat) (v : List VReg) (header : Nat) (cb cf : Bool) : State :=
  let q : Query := ⟨c, x.level, cb, cf, 0, 0⟩
  let (s, out, po) := queryLanes x q kind header v (List.range 128) s [] 0
  let po := po ||| blockPoison v
  let regs := (List.range (if kind = 2 then 1 else 4)).map (fun i =>
    (⟨out.map (fun r => BitVec.ofNat 32 (r.getD i 0)), po⟩ : VReg))
  cmdDone (fillVals s c x.rid (putRegs regs)) c x.id

/-- RQ.CL (0), RQ.AN (1) and RQ.OC (2) at issue. -/
def runRq (kind : Nat) (x : XCtl) (blk : BitVec 9) (st : BitVec 7) (s0 s : State) : Run :=
  let a := sPairGet s0.me st
  if a.extractLsb' 2 4 != 0 then .error (.of .illegalOperand)
  else
    let m := activeMask s0 x.p
    let v := (blockNames blk 8).map (vGet s0.myCore s0.me)
    engCommand x 4 m (blockTodo s blk (if kind = 2 then 1 else 4) m) 1
      (.ray kind blk v (a.toNat / 64 * 64) (a.getLsbD 0) (a.getLsbD 1)) s0 s

def runRqCl (x : XCtl) (blk : BitVec 9) (st : BitVec 7) : State → State → Run := runRq 0 x blk st
def runRqAn (x : XCtl) (blk : BitVec 9) (st : BitVec 7) : State → State → Run := runRq 1 x blk st
def runRqOc (x : XCtl) (blk : BitVec 9) (st : BitVec 7) : State → State → Run := runRq 2 x blk st

/-! ## Builds and refits (R236 to R239) -/

/-- The fields of a build descriptor (R238). -/
structure BuildDesc where
  out : Nat
  geom : Nat
  idx : Nat
  nprim : Nat
  nvert : Nat
  scr : Nat
  cap : Nat
  kind : Nat
  ok : Bool
  deriving DecidableEq, Repr

def BuildDesc.parse (b : List Byte) : BuildDesc :=
  let kind := field b 44 1
  let n := field b 24 4
  { out := field b 0 8 / 64 * 64, geom := field b 8 8, idx := field b 16 8, nprim := n, nvert := field b 28 4
    scr := field b 32 8, cap := field b 40 4, kind := kind
    ok := (b.drop 45).all (· == 0) && decide (kind ≤ 1) && decide (1 ≤ n) && decide (n ≤ 16777216) &&
      field b 0 8 % 64 == 0 && field b 32 8 % 64 == 0 && (kind == 0 || (field b 16 8 == 0 && field b 28 4 == 0)) &&
      decide (128 + leafSize kind * n ≤ field b 40 4) }

/-- Why a build ends in STATE 3: a failed access with its address, or a rule broken. -/
inductive BuildFault where
  | access (f : ReadFault) (write : Bool) (va : Nat)
  | rule
  deriving DecidableEq, Repr

/-- The work of a build: what it read and wrote before a fault stays. -/
abbrev BuildRun (α : Type) := EStateM BuildFault State α

/-- Bytes of one line that a build reads on the ray and texture path (R309, R310). -/
def buildPart (c : Nat) (lv : Level) (va n : Nat) : BuildRun (List Byte) := fun s =>
  match engRead s c lv false va n with
  | (s, .ok b) => .ok b s
  | (s, .error f) => .error (.access f false va) s

/-- Bytes that a build reads. -/
def buildRead (c : Nat) (lv : Level) (va n : Nat) : BuildRun (List Byte) := do
  let l ← (cutLines va (List.replicate n 0)).mapM (fun x => buildPart c lv x.1 x.2.length)
  pure l.flatten

/-- Bytes that a build writes (R310). -/
def buildWrite (c : Nat) (lv : Level) (va : Nat) (b : List Byte) : BuildRun Unit := fun s =>
  match engWrite s c lv va b with
  | .ok s => .ok () s
  | .error (e, a) => .error (.access (.translation e) true a) s

/-- A primitive that a build has read, with its bounds: the smallest and the largest x, y and z. -/
structure Prim where
  leaf : Leaf3
  box : List Nat
  deriving DecidableEq, Repr

/-- Smallest and largest of a list of codes. -/
def leastOf (l : List Nat) : Nat := l.foldl (fun a b => if fLess false (decodeF .f32 b) (decodeF .f32 a) then b else a) (l.headD 0)
def mostOf (l : List Nat) : Nat := l.foldl (fun a b => if fLess false (decodeF .f32 a) (decodeF .f32 b) then b else a) (l.headD 0)

/-- Bounds that the spec does not compute: those of a triangle with a vertex that is not finite, and those of an instance. They
are a function of what they bound. Log entry 50. -/
def openBox (w : List Nat) : List Nat := (List.range 6).map (fun i => (Config.rayFree 3 w i).toNat)

/-- The bounds of a triangle of nine words. -/
def triBox (w : List Nat) : List Nat :=
  let axis (ax : Nat) : List Nat := [w.getD ax 0, w.getD (3 + ax) 0, w.getD (6 + ax) 0]
  if w.all (fun x => (finite x).isSome) then
    (List.range 3).map (fun ax => leastOf (axis ax)) ++ (List.range 3).map (fun ax => mostOf (axis ax))
  else openBox w

/-- A triangle: the three words of each vertex. An index at or beyond NVERT breaks a rule. -/
def readTri (c : Nat) (lv : Level) (d : BuildDesc) (i : Nat) : BuildRun Prim := do
  let ix ← buildRead c lv (d.idx + 12 * i) 12
  let js := [field ix 0 4, field ix 4 4, field ix 8 4]
  if js.any (fun j => decide (d.nvert ≤ j)) then throw .rule
  else
    let vs ← js.mapM (fun j => buildRead c lv (d.geom + 12 * j) 12)
    let w := (vs.map (fun b => [field b 0 4, field b 4 4, field b 8 4])).flatten
    pure ⟨⟨w, 0, 0, i⟩, triBox w⟩

/-- Determinant of three rows of exact numbers. -/
def det3 (a b c : V3) : Exact := a.dot (b.cross c)

/-- The inverse of a 3 × 4 transform, each entry exact and rounded once; none where there is no inverse. -/
def invertRows (m : List Nat) : Option (List Nat) :=
  match v3Of (m.getD 0 0) (m.getD 4 0) (m.getD 8 0), v3Of (m.getD 1 0) (m.getD 5 0) (m.getD 9 0),
    v3Of (m.getD 2 0) (m.getD 6 0) (m.getD 10 0), v3Of (m.getD 3 0) (m.getD 7 0) (m.getD 11 0) with
  | some c0, some c1, some c2, some t =>
    let det := det3 c0 c1 c2
    if det.n = 0 then none
    else
      let row (r : V3) : List Nat :=
        [Exact.quot .f32 r.x det, Exact.quot .f32 r.y det, Exact.quot .f32 r.z det, Exact.quot .f32 (r.dot t).neg det]
      some (row (c1.cross c2) ++ row (c2.cross c0) ++ row (c0.cross c1))
  | _, _, _, _ => none

/-- An instance record, its bounds a function of its transform and of the bounds of its structure. Where the transform has no
inverse the words of that inverse are free. -/
def readInst (c : Nat) (lv : Level) (d : BuildDesc) (i : Nat) : BuildRun Prim := do
  let b ← buildRead c lv (d.geom + 64 * i) 64
  if field b 60 4 ≠ 0 then throw .rule
  else
    let m := (List.range 12).map (fun k => field b (4 * k) 4)
    let h ← buildRead c lv (field b 48 8 + 16) 24
    let inv := (invertRows m).getD ((List.range 12).map (fun k => (Config.rayFree 4 m k).toNat))
    pure ⟨⟨inv, field b 48 8, field b 56 4, i⟩, openBox (m ++ (List.range 6).map (fun k => field h (4 * k) 4))⟩

/-- smin and smax of a structure over the bounds of its primitives (R237). -/
def boundsOf (ps : List Prim) : List Nat :=
  (List.range 3).map (fun ax => leastOf (ps.map (fun p => p.box.getD ax 0))) ++
    (List.range 3).map (fun ax => mostOf (ps.map (fun p => p.box.getD (3 + ax) 0)))

/-- One axis of the key of a leaf (R236). -/
def keyAxis (lo hi smin smax : Nat) : Nat :=
  match finite lo, finite hi, finite smin, finite smax with
  | some a, some b, some l, some h =>
    let c := finite (ratioF .f32 ((a.add b).mul ⟨1, -1⟩).ratio.1 ((a.add b).mul ⟨1, -1⟩).ratio.2)
    let d := h.sub l
    (match c with
      | some c =>
        let e := c.sub l
        if d.n ≤ 0 then 0
        else
          let (n, p) := e.ratio
          let (m, q) := d.ratio
          min 1023 (n * 1024 * q / (p * m)).toNat
      | none => 0)
  | _, _, _, _ => 0

/-- Bit i of x, y and z at bits 3i + 2, 3i + 1 and 3i. -/
def morton (x y z : Nat) : Nat :=
  (List.range 10).foldl (fun k i => k + (x / 2 ^ i % 2) * 2 ^ (3 * i + 2) + (y / 2 ^ i % 2) * 2 ^ (3 * i + 1) + (z / 2 ^ i % 2) * 2 ^ (3 * i)) 0

/-- The key of a primitive in a structure of given bounds (R236). -/
def leafKey (bs : List Nat) (p : Prim) : Nat :=
  let q (ax : Nat) := keyAxis (p.box.getD ax 0) (p.box.getD (3 + ax) 0) (bs.getD ax 0) (bs.getD (3 + ax) 0)
  morton (q 0) (q 1) (q 2)

/-- Insert by key, ties by primitive index. -/
def insertLeaf (k : Nat) (l : Leaf3) : List (Nat × Leaf3) → List (Nat × Leaf3)
  | [] => [(k, l)]
  | x :: r => if x.1 ≤ k then x :: insertLeaf k l r else (k, l) :: x :: r

def sortLeaves (l : List (Nat × Leaf3)) : List (Nat × Leaf3) := l.foldl (fun r x => insertLeaf x.1 x.2 r) []

/-- The leaf order of a READY structure: the primitive index of each place. -/
def oldOrder (c : Nat) (lv : Level) (d : BuildDesc) : BuildRun (List Nat) :=
  (List.range d.nprim).mapM (fun i => do
    let b ← buildRead c lv (d.out + leafAt d.kind i) (leafSize d.kind)
    pure (Leaf3.decode d.kind (maskNode (leafAt d.kind i) b)).index)

/-- Free bytes. -/
def freeBytes (n : Nat) : BuildRun (List Byte) := fun s =>
  .ok ((List.range n).map (fun i => Config.freeByte (s.drawn + i))) { s with drawn := s.drawn + n }

/-- Carry out a build or refit: nodes, scratch and header; the last write is STATE = 2. -/
def buildStructure (b : Build) : BuildRun Unit := do
  let d := BuildDesc.parse b.desc
  let c := b.core
  let lv := b.level
  match b.bad with
  | some va => throw (.access .poison false va)
  | none =>
    let old ← buildRead c lv d.out 64
    if !d.ok ∨ (b.refit ∧ (b.was ≠ 2 ∨ field old 4 1 ≠ d.kind ∨ field old 8 4 ≠ d.nprim)) then throw .rule
    else
      let ps ← (List.range d.nprim).mapM (fun i => if d.kind = 0 then readTri c lv d i else readInst c lv d i)
      let bs := boundsOf ps
      let order ← if b.refit then oldOrder c lv d
        else pure ((sortLeaves (ps.map (fun p => (leafKey bs p, p.leaf)))).map (·.2.index))
      buildWrite c lv d.scr (← freeBytes (16 * d.nprim + 4096))
      buildWrite c lv (d.out + 64) (← freeBytes 64)
      order.zipIdx.forM (fun x =>
        match ps[x.1]? with
        | some p => buildWrite c lv (d.out + leafAt d.kind x.2) (maskNode (leafAt d.kind x.2) (p.leaf.encode d.kind))
        | none => pure ())
      buildWrite c lv (d.out + 4) (bytesOf 4 d.kind ++ bytesOf 4 d.nprim ++
        bytesOf 4 ((128 + leafSize d.kind * d.nprim) / 64) ++ (bs.map (bytesOf 4)).flatten)
      buildWrite c lv d.out (bytesOf 4 2)

/-- The completion of a build on its counter. -/
def buildArrives (s : State) (b : Build) : State :=
  match b.rid with | some i => arriveResult s b.core i | none => s

/-- A write of STATE; one that fails is dropped. -/
def setBuildState (s : State) (c : Nat) (lv : Level) (out : Option Nat) (v : Nat) : State :=
  match out with
  | none => s
  | some a => match buildWrite c lv a (bytesOf 4 v) s with | .ok _ s => s | .error _ s => s

/-- The record of a build or refit that fails (R392). -/
def buildRecord (s : State) (b : Build) : BuildFault → State
  | .access f w va => engRecord s b.core b.handle f (if w then 5 else 4) va
  | .rule => postPlain s { plainRecord s .illegalOperand 0 4 4 b.handle 0 with core := b.core }

/-- A build ends: STATE 2, or STATE 3 with a record (R239, R392). -/
def endBuild (s : State) (b : Build) : State :=
  let s := { s with sched := { s.sched with builds := s.sched.builds.filter (fun x => x.id != b.id) } }
  match buildStructure b s with
  | .ok _ s => buildArrives s b
  | .error e s => buildArrives (buildRecord (setBuildState s b.core b.level b.out 3) b e) b

/-- BVH_COMPLETION: the build numbered `ev.idx` (R239). -/
def execBvhCompletion (s : State) : Out :=
  match s.sched.builds.find? (fun b => b.id == s.ev.idx) with
  | some b => if b.due ≤ s.gcc ∧ !anyHeld s then .next (endBuild s b) else .refused .notEnabled
  | none => .refused .notEnabled

/-- STATE of a structure as a build finds it; 0 where it cannot be read. -/
def buildState (s : State) (c : Nat) (lv : Level) (out : Option Nat) : State × Nat :=
  match out with
  | none => (s, 0)
  | some a => match buildRead c lv a 4 s with | .ok b s => (s, field b 0 4) | .error _ s => (s, 0)

/-- A build or refit begins: one whose structure is being built ends in error and writes nothing; otherwise STATE becomes 1
(R239). A descriptor whose OUT lies in a poisoned line names no structure. DESIGN CHOICE, log entry 51. -/
def actBuild (s : State) (c : Nat) (x : ECmd) (desc : List Byte) (refit : Bool) (bad : Option (Nat × Bool)) : State :=
  let out := match bad with | some (_, false) => none | _ => some (BuildDesc.parse desc).out
  let (s, was) := buildState s c x.level out
  if was = 1 then cmdDone s c x.id
  else
    let s := setBuildState s c x.level out 1
    let (n, s) := s.draw
    let b : Build := ⟨x.id, desc, refit, was, c, x.warp, x.handle, x.level, x.rid, out, bad.map (·.1), s.gcc + 1 + Config.freeNat n⟩
    { s.updCore c (fun k => { k with ecmds := k.ecmds.filter (fun y => y.id != x.id) }) with
      sched := { s.sched with builds := s.sched.builds ++ [b] } }

/-- BVHB and BVHF at issue: the descriptor is read as a load of the warp. -/
def runBvh (refit : Bool) (x : XCtl) (a : BitVec 7) (s0 s : State) : Run :=
  let va := sPairGet s0.me a
  let pages := if va.toNat / 65536 = (va.toNat + 63) / 65536 then [va.toNat] else [va.toNat, va.toNat + 63]
  let tr := pages.map (fun p => (p, tlbLook s0 s0.cur.core s0.cur.warp s0.me.level .read p))
  match tr.findSome? (fun p => match p.2 with | .fault e => some (p.1, e) | _ => none) with
  | some (p, e) => .error ⟨.translationFault, e, BitVec.ofNat 64 p, 0, 0, []⟩
  | none =>
    match tr.filterMap (fun p => match p.2 with | .miss => some p.1 | _ => none) with
    | v :: vs => holdWalk s0 (v :: vs)
    | [] =>
      let at_ (i : Nat) : Nat :=
        match tlbLook s0 s0.cur.core s0.cur.warp s0.me.level .read (va.toNat + i) with | .ok pa => pa | _ => 0
      let (s, l) := warpBytes ((List.range 64).map at_) s
      let b := l.map (·.1)
      let bad := l.findIdx? (·.2)
      engCommand x 4 0 [] 1 (.build b refit (bad.map (fun i => (va.toNat + i, decide (8 ≤ i))))) s0 s

def runBvhb (x : XCtl) (a : BitVec 7) : State → State → Run := runBvh false x a
def runBvhf (x : XCtl) (a : BitVec 7) : State → State → Run := runBvh true x a

/-! ## Order in the ray unit (R240) -/

/-- Whether a command is one of the ray unit. -/
def isRay (x : ECmd) : Bool :=
  match x.op with
  | .ray .. | .build .. => true
  | _ => false

/-- A query, or a build, enters the ray unit in issue order, and waits for a refit of its core under way. -/
def rayTurn (s : State) (c : Nat) (x : ECmd) : Bool :=
  match (s.core c).ecmds.find? isRay with
  | some y => y.id == x.id && !s.sched.builds.any (fun b => b.core == c && b.refit)
  | none => false

/-! ## The meanings -/

def execRqCl (x : XCtl) (blk : BitVec 9) (st : BitVec 7) (s : State) : Out := slotExec (.rqCl x blk st) (runRqCl x blk st) s
def execRqAn (x : XCtl) (blk : BitVec 9) (st : BitVec 7) (s : State) : Out := slotExec (.rqAn x blk st) (runRqAn x blk st) s
def execRqOc (x : XCtl) (blk : BitVec 9) (st : BitVec 7) (s : State) : Out := slotExec (.rqOc x blk st) (runRqOc x blk st) s
def execBvhb (x : XCtl) (a : BitVec 7) (s : State) : Out := slotExec (.bvhb x a) (runBvhb x a) s
def execBvhf (x : XCtl) (a : BitVec 7) (s : State) : Out := slotExec (.bvhf x a) (runBvhf x a) s

end Sys2Proof.Machine
end

