-- ==== Sys2Proof/Machine/SlotDispatch.lean ====
section
/-!
DEFINITION. The effect of every slot instruction within a bundle: what each reads from the state at issue and does to the
state after the bindings, as its own entry gives it. Steps of routines and events stand in no slot.
-/
namespace Sys2Proof.Machine

/-- The effect of a slot instruction: the state at issue, then the state it acts on. -/
def slotRun : Instr → State → State → Run
  | .iadd o => runIadd o
  | .isub o => runIsub o
  | .imul o => runImul o
  | .imulh o uns => runImulh o uns
  | .imad o c => runImad o c
  | .idiv o uns => runIdiv o uns
  | .irem o uns => runIrem o uns
  | .iand o => runIand o
  | .ior o => runIor o
  | .ixor o => runIxor o
  | .iandn o => runIandn o
  | .shl o => runShl o
  | .shr o => runShr o
  | .shra o => runShra o
  | .rot o => runRot o
  | .clz o => runClz o
  | .popc o => runPopc o
  | .brev o => runBrev o
  | .bfx o w sgn => runBfx o w sgn
  | .bfi o w => runBfi o w
  | .imin o uns => runImin o uns
  | .imax o uns => runImax o uns
  | .icmp _ fd a b c => runIcmp fd a b c
  | .sel o fl neg => runSel o fl neg
  | .movi _ d i => runMovi d i
  | .limmB32 _ d w => runLimmB32 d w
  | .limmB64 _ d w => runLimmB64 d w
  | .movsRf _ d => runMovsRf d
  | .movsWf _ a => runMovsWf a
  | .movsLc _ d n => runMovsLc d n
  | .movsRp _ d p j => runMovsRp d p j
  | .movsWp _ p j a => runMovsWp p j a
  | .movsRm _ d j => runMovsRm d j
  | .aadd o => runAadd o
  | .alea o k z => runAlea o k z
  | .flop _ fd fa fb t => runFlop fd fa fb t
  | .rdgcc _ d => runRdgcc d
  | .rdid _ d sel => runRdid d sel
  | .bru _ off => runBru off
  | .brv p off => runBrv p off
  | .brd _ off p pft ptk => runBrd off p pft ptk
  | .jmp _ off => runJmp off
  | .call _ off link => runCall off link
  | .ret _ a => runRet a
  | .chk off v => runChk off v
  | .loop _ b body => runLoop b body
  | .lstr _ d b level reg => runLstr d b level reg
  | .yield _ => runYield
  | .exit _ => runExit
  | .fadd o => runFadd o
  | .fsub o => runFsub o
  | .fmul o => runFmul o
  | .ffma o => runFfma o
  | .ffmak o => runFfmak o
  | .fmin o => runFmin o
  | .fmax o => runFmax o
  | .fclass o => runFclass o
  | .frnd o m => runFrnd o m
  | .fcmp o c => runFcmp o c
  | .hadd2 o f => runHadd2 o f
  | .hmul2 o f => runHmul2 o f
  | .hfma2 o f => runHfma2 o f
  | .hdot2 o f => runHdot2 o f
  | .vadd o => runVadd o
  | .vsub o => runVsub o
  | .vmul o => runVmul o
  | .vmulh o uns => runVmulh o uns
  | .vmad o => runVmad o
  | .vmin o uns => runVmin o uns
  | .vmax o uns => runVmax o uns
  | .vabs o => runVabs o
  | .vmov o => runVmov o
  | .vand o => runVand o
  | .vor o => runVor o
  | .vxor o => runVxor o
  | .vandn o => runVandn o
  | .vshl o => runVshl o
  | .vshr o => runVshr o
  | .vshra o => runVshra o
  | .vpopc o => runVpopc o
  | .vclz o => runVclz o
  | .vbfx o uns => runVbfx o uns
  | .vbfi o => runVbfi o
  | .vsel o => runVsel o
  | .vdot4 o uns => runVdot4 o uns
  | .vcmp o c => runVcmp o c
  | .pack o => runPack o
  | .unpk o x z n => runUnpk o x z n
  | .perm o => runPerm o
  | .vlane o pat k => runVlane o pat k
  | .xsh o x k => runXsh o x k
  | .vrand o => runVrand o
  | .mode _ value mask => runMode value mask
  | .cvt o sf df rmo sp => runCvt o sf df rmo sp
  | .cvtmx o ef rmo => runCvtmx o ef rmo
  | .cvtxm o ef rmo => runCvtxm o ef rmo
  | .rcp o => runRcp o
  | .rsq o => runRsq o
  | .sqrt o => runSqrt o
  | .exp2 o => runExp2 o
  | .log2 o => runLog2 o
  | .sin o => runSin o
  | .cos o => runCos o
  | .tanh o => runTanh o
  | .rcpA o => runRcpA o
  | .rsqA o => runRsqA o
  | .sqrtA o => runSqrtA o
  | .exp2A o => runExp2A o
  | .log2A o => runLog2A o
  | .sinA o => runSinA o
  | .cosA o => runCosA o
  | .tanhA o => runTanhA o
  | .redAdd o => runRedAdd o
  | .redMin o => runRedMin o
  | .redMax o => runRedMax o
  | .rdrn p d ps w kc ki => runRdrn p d ps w kc ki
  | .rclr p ps c => runRclr p ps c
  | .ldM t o => runLdM t o
  | .stM t o => runStM t o
  | .semp _ n adr ofs => runSemp n adr ofs
  | .semw _ n adr ofs => runSemw n adr ofs
  | .tsend _ val core slot => runTsend val core slot
  | .tsendM _ val mask slot => runTsendM val mask slot
  | .trecv p d slot stamp => runTrecv p d slot stamp
  | .ldt o => runLdt o
  | .ldMw t o => runLdMw t o
  | .stMw t o => runStMw t o
  | .ldS o => runLdS o
  | .ldPoll o => runLdPoll o
  | .ldAcq o => runLdAcq o
  | .stRel o => runStRel o
  | .ldSc o => runLdSc o
  | .stSc o => runStSc o
  | .pref p core adr ofs _ => runPref p core adr ofs
  | .atomAdd o w => runAtomAdd o w
  | .atomMin o w u => runAtomMin o w u
  | .atomMax o w u => runAtomMax o w u
  | .atomAnd o w => runAtomAnd o w
  | .atomOr o w => runAtomOr o w
  | .atomXor o w => runAtomXor o w
  | .atomExch o w => runAtomExch o w
  | .atomCas o w => runAtomCas o w
  | .atomAddF32 o => runAtomAddF32 o
  | .atomAddBf16 o => runAtomAddBf16 o
  | .atomSc o op => runAtomSc o op
  | .redAddF32 o => runRedAddF32 o
  | .redAddN32 o => runRedAddN32 o
  | .redMinF32 o => runRedMinF32 o
  | .redMaxF32 o => runRedMaxF32 o
  | .redAddBf16 o => runRedAddBf16 o
  | .flushr _ ac => runFlushr ac
  | .flushrOrdered p a ofs ac _ => runFlushrOrdered p a ofs ac
  | .fenceAcq _ sc => runFenceAcq sc
  | .fenceRel _ sc => runFenceRel sc
  | .fenceAr _ sc => runFenceAr sc
  | .xfence _ up down sc => runXfence up down sc
  | .watchArm p adr ofs _ => runWatch true p adr ofs
  | .watchDisarm p adr ofs _ => runWatch false p adr ofs
  | .waita _ mask n => runWaita mask n
  | .twait _ pred num h mask watch => runTwait pred num h mask watch
  | .bar _ b num arrive => runBar b num arrive
  | .barq _ b num arrive => runBarq b num arrive
  | .phase _ a b => runPhase a b
  | .phwait _ b => runPhwait b
  | .stset _ k cap base => runStset k cap base
  | .stapp p val key zb nk _ => runStapp p val key zb nk
  | .stcmt _ k sc dest n => runStcmt k sc dest n
  | .wfw o => runWfw o
  | .mcall x k o => runMcall x k o
  | .mpar _ q v => runMpar q v
  | .mfmt _ v => runMfmt v
  | .mstat x d => runMstat x d
  | .mpsw _ v t => runMpsw v t
  | .wst x a wb => runWst x a wb
  | .wstat x d => runWstat x d
  | .trap _ b => runTrap b
  | .sys _ b => runSys b
  | .eret _ => runEret
  | .ctlr _ d b => runCtlr d b
  | .ctlw _ a b => runCtlw a b
  | .segw _ a seg limit => runSegw a seg limit
  | .prmt _ d a kill => runPrmt d a kill
  | .launch _ d a q => runLaunch d a q
  | .role _ b => runRole b
  | .wdogRd _ d => runWdogRd d
  | .wdogLower _ a => runWdogLower a
  | .wdogSet _ a => runWdogSet a
  | .govr _ d b => runGovr d b
  | .govrP _ d b => runGovrP d b
  | .govrW _ a b => runGovrW a b
  | .govrWp _ a b => runGovrWp a b
  | .copy x a q => runCopy x a q
  | .cmpt x a => runCmpt x a
  | .cmpq x d sn => runCmpq x d sn
  | .mark _ mask m => runMark mask m
  | .markw x m => runMarkw x m
  | .texS x blk a => runTexS x blk a
  | .texF x blk a => runTexF x blk a
  | .texL x blk a => runTexL x blk a
  | .texq x blk a => runTexq x blk a
  | .rqCl x blk st => runRqCl x blk st
  | .rqAn x blk st => runRqAn x blk st
  | .rqOc x blk st => runRqOc x blk st
  | .bvhb x a => runBvhb x a
  | .bvhf x a => runBvhf x a
  | _ => fun _ s => .ok s

end Sys2Proof.Machine
end

