-- ==== Sys2Proof/Machine/Issue.lean ====
section
/-!
DEFINITION. The issue of bundles: the choice of a warp (R267, R268), static regions at a bundle (R285, R286), and the checks, the effects and the aftermath of a bundle
(R22 to R29, R47, R62 to R71, R114 to R124, R256, R457).
-/
namespace Sys2Proof.Machine

/-! ## Readiness and the choice of a warp -/

/-- Whether a warp waits for a walk that has not ended (R161). -/
def walksOpen (s : State) (c w : Nat) : Bool := s.ms.walks.any (fun k => k.core == c && k.warp == w && k.fail.isNone)

/-- Whether a warp can issue (R268): the releases that it acquires have performed (R318). -/
def canRun (s : State) (w : Warp) : Bool :=
  w.status == .run && w.susp == .none && !w.drain && !w.held && w.gate.all (fun i => (getReq s i).isNone) &&
    (issuingEntry s w).isSome

/-- The landings of a voluntary deschedule are complete: the valid bits clear (R60, R70). A hold ends, and the warp
becomes ready (R161, R268). -/
def settleWarp (s : State) (c wi : Nat) (w : Warp) : Warp :=
  let w := if w.status == .run && w.drain && ((s.core c).pwOf wi).isEmpty then { w with drain := false, lv := 0, kv := 0 } else w
  let w := if w.held && !walksOpen s c wi then { w with held := false } else w
  let w := { w with gate := w.gate.filter (fun i => (getReq s i).isSome) }
  { w with ready := if !canRun s w then none else match w.ready with | some r => some r | none => some s.gcc }

def settleCore (s : State) (c : Nat) : State :=
  s.updCore c (fun k => { k with warps := k.warps.map (fun x => (x.1, settleWarp s c x.1 x.2)) })

/-- Settle every core. -/
def settle (s : State) : State := (s.cores.map (·.1)).foldl settleCore s

/-- Whether one ready warp goes before another (R268). -/
def warpBefore (a b : Nat × Warp) : Bool :=
  if a.2.prio ≠ b.2.prio then decide (b.2.prio < a.2.prio)
  else if a.2.ready ≠ b.2.ready then decide (a.2.ready.getD 0 < b.2.ready.getD 0)
  else decide (a.1 < b.1)

def bestWarp : List (Nat × Warp) → Option (Nat × Warp)
  | [] => none
  | x :: r =>
    match bestWarp r with
    | none => some x
    | some y => if warpBefore y x then some y else some x

/-- The warp that a core issues from: the one inside a static region, else the current one, else the first ready one
(R267, R268, R286). -/
def pickWarp (k : Core) : Option Nat :=
  match k.warps.find? (fun x => x.2.region.isSome && x.2.status == .run) with
  | some x => some x.1
  | none =>
    match k.current with
    | some w => some w
    | none => (bestWarp (k.warps.filter (fun x => x.2.ready.isSome))).map (·.1)

/-- Whether a core runs at all: enabled, powered, clocked and not gated (R13, R183, R456, R465). -/
def coreOn (s : State) (c : Nat) : Bool :=
  let k := s.core c
  let q := quadState s (quadOf c)
  coreThere s c && !k.gated && !q.gate && q.lvl == 0 &&
    (match k.halt with | some h => decide (s.gcc < h) | none => true)

/-- Whether a late reply freezes a warp in this cycle (R69, R291). -/
def frozenNow (k : Core) (wi : Nat) : Bool :=
  let w := k.warp wi
  !strictNow w &&
    k.pw.any (fun p => p.warp == wi && p.rem == 0 && decide (p.left > 0) && !p.strict && !p.skip) && w.status == .run

/-- Whether a warp has entered a static region whose start has not come: its core issues nothing until then (R285). -/
def beforeStart (s : State) (w : Warp) : Bool := match w.region with | some r => decide (s.gcc < r.s) | none => false

/-- The warp and the entry whose bundle a core presents in this cycle. -/
def nextIssue (s : State) (c : Nat) : Option (Nat × Entry) :=
  let k := s.core c
  if !coreOn s c || decide (s.gcc < k.free) then none
  else match pickWarp k with
    | none => none
    | some w =>
      if !canRun s (k.warp w) || frozenNow k w || beforeStart s (k.warp w) then none
      else (issuingEntry s (k.warp w)).map (fun e => (w, e))

/-- The issue context of a bundle; a drained row may land (R214). -/
def beginBundle (s : State) (c w : Nat) (e : Entry) (h : BitVec 16) : State :=
  let cur : Cur :=
    { Cur.reset with core := c, warp := w, pc := e.pc, nextPc := BitVec.ofNat 64 (nextPc e.pc.toNat h), mask := e.mask }
  let s := { s with cur := cur }
  landDrain (s.updMyCore (fun k => { k with current := some w }))

/-- The first bundle of a warp that has returned begins to issue: its pending writes go on from here, and those with no
cycle left land before the bundle reads, each bank's port taking one in the cycle (R66, R72, R382). -/
def startReplay (s : State) : State :=
  if !s.me.replay then s
  else s.updMyCore (fun k =>
    (dueOf s.cur.warp k).foldl (landOrCarry s.gcc) (k.updWarp s.cur.warp (fun w => { w with replay := false })))

/-- The core leaves the current warp: two idle cycles follow the last cycle occupied (R267). -/
def leaveWarp (s : State) (free : Nat) : State := s.updMyCore (fun k => { k with current := none, free := max k.free (free + 2) })

/-! ## Traps at a bundle -/

/-- The walks of a warp have been used. -/
def dropWalks (s : State) : State :=
  { s with ms := { s.ms with walks := s.ms.walks.filter (fun k => !(k.core == s.cur.core && k.warp == s.cur.warp)) } }

/-- A precise trap of the bundle that is presented. -/
def trapHere (s : State) (tr : Trap) (slot : Nat) : State := takeTrapAt (dropWalks s) tr slot s.cur.pc

/-- A warp halts for debug (R457). -/
def haltWarp (s : State) (c wi : Nat) : State := s.updCore c (haltAt s.gcc wi .halted)

/-- Whether what a core issues stands at a boundary: its bundle has ended its own cycles, or its warp is frozen (R71, R382). -/
def atBoundary (s : State) (c : Nat) : Bool :=
  let k := s.core c
  match k.current with
  | some w => decide (k.bound ≤ s.gcc) || frozenNow k w
  | none => true

/-- Every warp of a core halts once its halt cycle has come and it stands at a boundary, behind the landings of the cycle; a
gated core is woken first (R71, R456). -/
def haltCore (s : State) (c : Nat) : State :=
  let k := s.core c
  match k.halt with
  | some h =>
    if h ≤ s.gcc ∧ atBoundary s c = true ∧ k.warps.any (fun x => x.2.status == .run) then
      let s := s.updCore c (fun k => if k.gated then { k with gated := false, wakewhy := k.wakewhy ||| 0x80 } else k)
      (k.warps.filter (fun x => x.2.status == .run)).foldl (fun s x => haltWarp s c x.1) s
    else s
  | none => s

/-- The MODE field of dbg.ctl. -/
def dbgMode (k : Core) : Nat := (k.dbg.extractLsb' 5 2).toNat

/-- A breakpoint or a single step: a debug halt under MODE 2, else a trap (R457). -/
def debugTrap (s : State) (c : Cause) (b : DWord) : State :=
  if dbgMode s.myCore = 2 then leaveWarp (haltWarp s s.cur.core s.cur.warp) s.gcc
  else takeTrapAt s (Trap.of c) 0xFF b

/-- The trap that a warp takes before its next bundle: that of TRAP and SYS, a single step, or the fetch fault of a handler
whose entry lies outside its image (R260, R279, R374, R457). -/
def takePending (s : State) (c : Cause) (sub : Nat) (b : DWord) : State :=
  let m := match s.me.entries.find? (fun e => e.pc == b) with | some e => e.mask | none => s.cur.mask
  let s := ({ s with cur := { s.cur with mask := m } }).updMe (fun w => { w with after := none })
  if c = .singleStep then debugTrap s c b
  else if c = .fetchFault then takeTrapAt s ⟨.fetchFault, sub, b, 0, 3, []⟩ 0xFF b
  else takeTrapAt s { Trap.of c with sub := sub } 0 b

/-! ## Static regions (R284 to R286) -/

/-- What a bundle's address asks of the static regions. -/
inductive RegionAsk where
  | ok (leave : Bool)
  | fault (sub : Nat)
  | enter (r : RegionRec)
  deriving DecidableEq, Repr

/-- Outside every region: the bundle enters one at its START, and may not stand in the middle of one. -/
def regionOutside (s : State) (leave : Bool) : RegionAsk :=
  let recs := if s.me.handlerOf.isSome then [] else s.myGroup.stats
  let pc := s.cur.pc.toNat
  match recs.find? (fun r => r.start == pc) with
  | some r => .enter r
  | none => if recs.any (fun r => decide (r.start < pc) && decide (pc < r.stop)) then .fault 8 else .ok leave

/-- The rules of R286 at the bundle that is presented. -/
def regionAsk (s : State) : RegionAsk :=
  match s.me.region with
  | none => regionOutside s false
  | some r =>
    if s.me.delayed > 0 then .ok false
    else
      let rc := s.gcc - r.s - r.z
      if s.cur.pc.toNat = r.stop ∧ rc = r.len then regionOutside s true
      else if s.cur.pc.toNat = r.stop ∨ rc ≥ r.len then .fault 8
      else .ok false

/-- The scheduled start of a region entered in this cycle (R285). -/
def regionStartAt (gcc : Nat) (r : RegionRec) : Nat :=
  if r.abs then r.gcc else (gcc + 2 ^ r.aln - 1) / 2 ^ r.aln * 2 ^ r.aln

/-- Enter a region at the cycle at which its first bundle would otherwise issue, or trap (R285). -/
def enterAt (r : RegionRec) (s : State) : State :=
  let at_ := regionStartAt s.gcc r
  if at_ < s.gcc ∨ at_ - s.gcc > 2 ^ 20 ∨ s.me.entries.length + s.me.spilled.length > 1 ∨ transferPending s.me then
    trapHere (s.updMe (fun w => { w with region := none })) (.timing 7) 0xFF
  else
    s.updMe (fun w => { w with region := some ⟨r.start, r.stop, r.len, r.pol, at_, 0⟩ })

/-- The start of every engine command of a warp that a region fixed moves with the region clock (R288, R291). -/
def shiftStarts (c wi n : Nat) (s : State) : State :=
  let s := s.updCore c (fun k =>
    { k with
      ecmds := k.ecmds.map (fun x => if x.warp = wi ∧ x.region then { x with due := x.due + n } else x)
      copyq := k.copyq.map (fun x => (x.1, x.2.map (fun r => if r.warp = wi ∧ r.region then { r with due := r.due + n } else r)))
      eng := { k.eng with
        fills := k.eng.fills.map (fun f => if f.warp = wi ∧ f.region then { f with due := f.due + n } else f)
        queue := k.eng.queue.map (fun x => match x with
          | .mcall m => if m.warp = wi then .mcall { m with start := m.start.map (· + n) } else x
          | .mpsw .. => x) } })
  { s with sched := { s.sched with builds := s.sched.builds.map (fun b => if b.core = c ∧ b.warp = wi then { b with due := b.due + n } else b) } }

/-- ctl.stretch counts an event of `n` cycles (R292). -/
def countStretch (n : Nat) (w : Warp) : Warp :=
  let cyc := min ((w.stretch.extractLsb' 8 24).toNat + n) 0xFFFFFF
  let evt := min ((w.stretch.extractLsb' 0 8).toNat + 1) 0xFF
  { w with stretch := BitVec.ofNat 32 (cyc * 256 + evt) }

/-! ## Loops and delay bundles after a bundle (R114 to R124) -/

/-- Whether FI or LI holds a bundle back (R25). -/
def heldBack (w : Warp) (h : BitVec 16) : Bool :=
  match innermost w with
  | none => false
  | some l => headFi h && !l.first || headLi h && l.lc != 1

/-- Change the entry of a mask. -/
def updEntry (m : Mask) (f : Entry → Entry) (w : Warp) : Warp :=
  { w with entries := w.entries.map (fun e => if e.mask = m then f e else e) }

/-- The adds of a level's registrations (R124). -/
def strideAdds (l : LoopLevel) (s : State) : State :=
  let add (s : State) (r : Option (BitVec 7 × Word)) : State :=
    match r with | some (n, v) => pend s 1 (.stride n v) | none => s
  add (add s l.r0) l.r1

/-- The iterations that end at the bundle just issued (R122). -/
def endIterations (pc : DWord) : Nat → State → State
  | 0, s => s
  | n + 1, s =>
    match innermost s.me with
    | none => s
    | some l =>
      if l.stop ≠ pc then s
      else
        let s := strideAdds l s
        if l.lc.toNat > 1 then
          s.updMe (fun w => updEntry s.cur.mask (fun e => { e with pc := l.start })
            { w with loops := w.loops.dropLast ++ [{ l with lc := l.lc - 1, first := false }] })
        else endIterations pc n (s.updMe (fun w => { w with loops := w.loops.dropLast }))

/-- JMP closes levels until one whose body holds the target (R123). -/
def closeLevels (t : DWord) : List LoopLevel → List LoopLevel
  | l => (l.reverse.dropWhile (fun x => !x.holds t)).reverse

/-- What follows the third delay bundle, with the masks of the parts it leaves (R114, R117). -/
def completeTransfer (m : Mask) (w : Warp) : Warp × List Mask :=
  let done := { w with dl := 0, xfer := .none, issuer := none }
  match w.xfer with
  | .none => (done, [m])
  | .goto pc => (updEntry m (fun e => { e with pc := pc }) done, [m])
  | .jump pc => ({ updEntry m (fun e => { e with pc := pc }) done with loops := closeLevels pc w.loops }, [m])
  | .take pc p => (updEntry m (fun e => { e with pc := pc, prio := p }) done, [m])
  | .split pc ptk pft t f =>
    let two (e : Entry) : List Entry :=
      if e.mask = m then [{ e with pc := pc, prio := ptk, mask := t }, { e with prio := pft, mask := f }] else [e]
    ({ done with entries := (w.entries.map two).flatten }, [t, f])

/-- The priorities of BRDs that move nothing act after their third delay bundle (R117). -/
def countFalls (m : Mask) (w : Warp) : Warp :=
  let l := w.falls.map (fun x => (x.1 - 1, x.2))
  let p := ((l.filter (fun x => x.1 == 0)).getLast?).map (·.2)
  { updEntry m (fun e => { e with prio := p.getD e.prio }) w with falls := l.filter (fun x => x.1 != 0) }

/-- Count a delay bundle (R114). -/
def countDelay (control exited : Bool) (m : Mask) (w : Warp) : Warp × List Mask :=
  let w := if exited then { w with falls := [] } else countFalls m w
  if control ∨ w.dl = 0 then (w, [m])
  else if exited then ({ w with dl := 0, xfer := .none, issuer := none }, [])
  else if w.dl = 1 then completeTransfer m w
  else ({ w with dl := w.dl - 1 }, [m])

/-- Ages under AGE, demotions under DEMOTE, after an entry has issued a bundle (R274, R275). -/
def ageEntries (age demo : Bool) (wasD : Bool) (ms : List Mask) (w : Warp) : Warp :=
  let f (e : Entry) : Entry :=
    if age then
      if ms.contains e.mask then { e with age := 0 } else if e.wait = .none then { e with age := min (e.age + 1) 2047 } else e
    else if demo && !wasD then { e with d := false } else e
  { w with entries := w.entries.map f, spilled := w.spilled.map f }

/-- A change of mfmt is seen by the fourth bundle after its MFMT (R221). -/
def ageFmt (w : Warp) : Warp :=
  let l := w.mfmtNext.map (fun x => (x.1 - 1, x.2))
  { w with mfmt := ((l.filter (fun x => x.1 == 0)).getLast?.map (·.2)).getD w.mfmt, mfmtNext := l.filter (fun x => x.1 != 0) }

/-- The warp after the bundle: addresses, loops, delays, ages, merging and spilling, with the entries moved. -/
def advance (s : State) : State × Nat :=
  let m := s.cur.mask
  let wasD := match s.me.entries.find? (fun e => e.mask == m) with | some e => e.d | none => false
  let s := s.updMe (updEntry m (fun e => { e with pc := s.cur.skip.getD s.cur.nextPc }))
  let s := if s.cur.exited then s else endIterations s.cur.pc 6 s
  let (w, ms) := countDelay s.cur.control s.cur.exited m s.me
  let w := ageEntries (ageMode s w) (demoteMode s w) wasD ms w
  let w := ms.foldl (fun w m => mergeAt m w) w
  let (w, n) := rebalance (ageMode s w) w
  (syncReserve (s.updMe (fun _ => ageFmt w)) s.cur.core s.cur.warp, n)

/-! ## The slots of a bundle -/

/-- The cycles by which the bank ports delay a bundle (R65). -/
def portDelay (names : List (BitVec 9)) : Nat :=
  let l := names.eraseDups
  let most := (List.range 8).foldl (fun n b => max n (l.filter (fun x => bankOf x == b)).length) 0
  (most + 1) / 2 - 1

/-- The names that the slots of a bundle read. -/
def bundleReads (s : State) (l : List (Slot × Instr)) : List (BitVec 9) :=
  ((l.filter (fun x => !isOff s x.2)).map (fun x => readNames x.2)).flatten

/-- Whether an instruction reads a late reply in a FAULT region (R291). -/
def readsLate (w : Warp) (i : Instr) : Bool :=
  (foot i).reads.any (fun sp => match sp with
    | .v n => (match tget? w.map n.toNat with | some b => w.lates.any (fun x => x.1 == some b.tok) | none => false)
    | .latch n => w.lates.any (fun x => x.2 == some n.toNat)
    | _ => false)

/-- One slot of a bundle: `s0` is the state at issue. -/
def slotStep (s0 : State) (sl : Slot) (i : Instr) (s : State) : Run :=
  let s0 := { s0 with cur := { s0.cur with slot := sl } }
  let s := { s with cur := { s.cur with slot := sl } }
  if isOff s0 i then .ok (offEffect i s)
  else match operandTrap s0.me i with
    | some tr => .error tr
    | none =>
      if readsLate s0.me i then .error (.timing 3)
      else match bindAll s (foot i).dsts with
        | none => .error (.of .allotmentOverflow)
        | some s => slotRun i s0 s

/-- The slots in order, up to the first trap or stall (R47). -/
def runSlots (s0 : State) : List (Slot × Instr) → State → Except (Trap × Nat) State
  | [], s => .ok s
  | (sl, i) :: r, s =>
    match slotStep s0 sl i s with
    | .error tr => .error (tr, sl.num)
    | .ok s => if s.cur.stall = .none then runSlots s0 r s else .ok s

/-- The names that a bundle releases (R62). -/
def bundleDead (s : State) (l : List (Slot × Instr)) : List (BitVec 9) :=
  ((l.filter (fun x => !isOff s x.2)).map (fun x => (foot x.2).dead)).flatten

/-- The budget falls by one at a bundle, unless it is not counted (R256). -/
def countBudget (s : State) : State :=
  if budgetOf s = 0xFFFFFFFFFFFFFFFF then s else setBudget s (budgetOf s - 1)

/-! ## After the slots -/

/-- The conflicts of R164: the accesses and load results of the bundle are σ cycles late; in a STRETCH region the region
clock stops instead, and with it every pending write (R291). -/
def applySigma (s0 s : State) (hold : Nat) : State :=
  let n := s.cur.extra
  if n = 0 then s
  else
    let k0 := s0.myCore
    let late (i : Nat) (p : Pending) : Pending :=
      if s.me.region.isSome then (if p.warp = s.cur.warp ∧ p.rem > 1 + hold then { p with rem := p.rem + n } else p)
      else if k0.pw.length ≤ i ∧ p.id.isSome ∧ p.rem ≤ 18 then { p with rem := p.rem + n } else p
    let s := s.updMyCore (fun k =>
      { k with
        pw := k.pw.zipIdx.map (fun x => late x.2 x.1)
        accs := k.accs.zipIdx.map (fun x => if k0.accs.length ≤ x.2 then { x.1 with rem := x.1.rem + n } else x.1) })
    let lateWin (q : WinReq) : WinReq := if q.src = s.cur.core ∧ q.bun = s.gcc then { q with due := q.due + n } else q
    let s := { s with cores := s.cores.map (fun (x : Nat × Core) => (x.1, { x.2 with winq := x.2.winq.map lateWin })) }
    if s.me.region.isSome then
      shiftStarts s.cur.core s.cur.warp n
        (s.updMe (fun w => countStretch n { w with region := w.region.map (fun r => { r with z := r.z + n }) }))
    else s

/-- The address of the bundle that follows in the entry that issued. -/
def successor (s : State) : DWord :=
  match s.me.entries.find? (fun e => e.mask &&& s.cur.mask != 0 && e.wait == .none) with
  | some e => e.pc
  | none => s.cur.nextPc

/-- The trap that the warp is to take before its next bundle. -/
def noteAfter (s : State) : State :=
  let step := s.me.level == .u && s.myCore.dbg.getLsbD 1 && !s.me.entries.isEmpty
  let a := match s.cur.after with
    | some (c, n) => some (c, n, successor s)
    | none => if step then some (.singleStep, 0, successor s) else none
  s.updMe (fun w => { w with after := a })

/-- The cycles that the bundle occupies, and what the core does next (R24, R121, R267, R273). The next bundle of the warp begins
after them and after the σ of R164; entries moved delay it further. -/
def occupy (s : State) (h : BitVec 16) (moves : Nat) : State :=
  let own := if s.cur.skip.isSome then max (1 + headHold h) 4 else 1 + headHold h
  let c := s.gcc + own + s.cur.extra
  let free := c + 4 * moves
  let leaves := s.cur.switch || (issuingEntry s s.me).isNone
  let s := s.updMyCore (fun k =>
    { k.updWarp s.cur.warp (fun w => { w with delayed := 0, delay := if leaves then none else some ⟨c, moves != 0, []⟩ }) with
      free := free, bound := s.gcc + own })
  if leaves then leaveWarp s free else s

/-- The bundle is held in this cycle; what it asked for stays (R48, R68, R161, R308). A hold for a full engine queue is a delay as R71
takes one, so c lies before it. DESIGN CHOICE, log entry 126. -/
def holdBundle (s0 s : State) (why : Hold) : State :=
  let s1 := { s0 with ms := { s0.ms with walks := s.ms.walks }, drawn := s.drawn }
  match why with
  | .queue | .none =>
    (startReplay s1).updMyCore (fun k =>
      { k.updWarp s0.cur.warp (fun w => { w.startDelay s.gcc with delayed := w.delayed + 1 }) with free := s0.gcc + 1 })
  | .walk | .port => leaveWarp (s1.updMe (fun w => { w with held := true, ready := none, delayed := 0, delay := none })) s0.gcc

/-- The fetch of the bundle may have entered the home of its line, where it counts: on what path an instruction is fetched is open
(R438). DESIGN CHOICE, log entry 119. -/
def countFetch (s : State) : State :=
  if !s.pt.dies.any (fun x => x.2.pactl.getLsbD 0) then s
  else
    let (n, s) := s.draw
    match Config.freeBool n, tlbLook s s.cur.core s.cur.warp s.me.level .fetch s.cur.pc.toNat with
    | true, .ok pa => countAccess s (lineOf pa)
    | _, _ => s

/-- Under MODE 1 a bundle that issues enters the trace buffer of its core, which keeps the latest entries (R456). DESIGN CHOICE, log
entry 122. -/
def recordTrace (s : State) : State :=
  if s.myCore.dbg.extractLsb' 5 2 = 1 then
    let (n, s) := s.draw
    s.updMyCore (fun k => { k with trace := (k.trace ++ [n]).drop (k.trace.length + 1 - Config.traceLen) })
  else s

/-- The slots of a bundle take effect, or it traps, or it is held. An accumulate form whose own destination a dead bit of the bundle
releases writes a new binding. DESIGN CHOICE, log entry 127. -/
def runBundle (s : State) (b : Bundle) (l : List (Slot × Instr)) : State :=
  let s1 := startReplay s
  match runSlots s1 l (releaseAll (countBudget s1) (bundleDead s1 l)) with
  | .error (tr, n) => trapHere s1 tr n
  | .ok t =>
    if t.cur.stall ≠ .none then holdBundle s t t.cur.stall
    else
      let (u, moves) := advance (applySigma s1 t (headHold b.head))
      if (u.myCore.pwOf u.cur.warp).length > 48 then
        if s.me.region.isSome then trapHere s (.timing 10) 0xFF else holdBundle s s .queue
      else roleAfter (occupy (noteAfter (dropWalks (countDrain (recordTrace (countFetch u))))) b.head moves)

/-- The cause of a decode trap (R26, R38, R40, R46). -/
def decCause : DecErr → Cause
  | .illegalBundle => .illegalBundle
  | .illegalOpcode => .illegalOpcode
  | .illegalOperand => .illegalOperand
  | .privilege => .privilegeViolation

/-- A control instruction or LOOP may not stand in a delay bundle of a transfer that takes place (R114). -/
def badDelay (w : Warp) (l : List (Slot × Instr)) : Bool :=
  transferPending w && l.any (fun x => isControl x.2 || (match x.2 with | .loop .. => true | _ => false))

/-- The end bundle of the innermost body may not issue while the warp has another entry (R123). -/
def badLoopEnd (s : State) : Bool :=
  (innermost s.me).map (·.stop) == some s.cur.pc && decide (s.me.entries.length + s.me.spilled.length > 1)

/-- The bundle, its fetch and head having been checked. Of a bundle that R114 and R123 both forbid the illegal bundle is the
trap taken. DESIGN CHOICE, log entry 106. -/
def decodedBundle (s : State) (b : Bundle) : State :=
  if heldBack s.me b.head then (if badLoopEnd s then trapHere s (.of .loopFault) 0xFF else runBundle s b [])
  else match b.slots s.me.level s.me.region.isSome with
    | .error (e, sl) => trapHere s (.of (decCause e)) sl.num
    | .ok l =>
      if badDelay s.me l then trapHere s (.of .illegalBundle) 0
      else if badLoopEnd s then trapHere s (.of .loopFault) 0xFF
      else
        let d := portDelay (bundleReads s l)
        if s.me.delayed = 0 ∧ d > 0 then
          (startReplay s).updMyCore (fun k =>
            { k.updWarp s.cur.warp (fun w => { w.startDelay s.gcc with delayed := d }) with free := s.gcc + d })
        else runBundle s b l

/-- The walks that the fetch of the presented bundle's head lacks (R161). -/
def holdFetch (s : State) : State :=
  match holdWalk s (fetchMisses s s.cur.core s.cur.warp s.me.level s.cur.pc) with
  | .ok t => holdBundle s t .walk
  | .error tr => trapHere s tr 0xFF

/-- Enter a region, once the fetch of its first bundle holds nothing back (R161, R285). -/
def enterRegion (r : RegionRec) (s : State) : State :=
  match fetchBytes s s.cur.core s.cur.warp s.me.level s.cur.pc 2 with
  | .miss => holdFetch s
  | _ => enterAt r s

/-- The bundle inside, or outside, a static region. -/
def fetchedBundle (s : State) (b : Bundle) : State :=
  if s.me.engLate then trapHere (s.updMe (fun w => { w with engLate := false })) (.timing 6) 0xFF
  else if s.myCore.dbg.getLsbD 0 && s.cur.pc == s.myCore.bph ++ s.myCore.bpl then debugTrap (dropWalks s) .breakpoint s.cur.pc
  else match fetchBytes s s.cur.core s.cur.warp s.me.level s.cur.pc 2 with
    | .fault e => trapHere s ⟨.fetchFault, e, s.cur.pc, 0, 3, []⟩ 0xFF
    | .miss => holdFetch s
    | .ok _ => if headOk s.cur.pc.toNat b.head then decodedBundle s b else trapHere s (.of .illegalBundle) 0xFF

/-- An uncorrectable error in core state that no bundle reads: a record enters the F ring, and the group is killed once its
warps stand at a boundary (R373, R442). -/
def machineCheck (s : State) : State :=
  let r := { recordOf s (.of .machineCheck) 0xFF 0 with src := 7 }
  let s := postPlainF s r
  if (tget? s.sched.groups s.me.handle.toNat).isSome then
    s.updMyGroup (fun g => { g with status := .leaving, kill := true, due := s.gcc })
  else s

/-- Poison a line of a cache that holds it. -/
def poisonLine (t : Table CLine) (ln : Nat) : Table CLine :=
  t.map (fun x => if x.1 = ln then (x.1, { x.2 with poison := true }) else x)

/-- An error in the SRAM of the core of the event, or in the remote-data cache of its die, of the kind `ev.idx2`: 1, none that
can be corrected, in core state that no bundle reads; 2, one corrected; 3 and 4, one that cannot be, in line `ev.idx` of the
core cache or of the remote-data cache, whose copy it poisons. Its die counts it (R442, R444). -/
def coreError (s : State) : State :=
  let c := s.ev.core
  let d := dieOf c
  match s.ev.idx2 with
  | 1 => machineCheck (countError s d 2)
  | 2 => countError s d 1
  | 3 => (countError s d 2).updCore c (fun k => { k with cache := poisonLine k.cache s.ev.idx })
  | 4 =>
    let s := countError s d 2
    { s with ms := { s.ms with rdc := tset s.ms.rdc d (poisonLine (tget [] s.ms.rdc d) s.ev.idx) } }
  | _ => s

/-- Take the bundle that the core of the event presents, as the bytes at its address give it. An uncorrectable error in
what it reads traps it (R373), as the event says by `ev.write`; `ev.idx2` tells of other errors. -/
def issueBundle (b : Bundle) (s : State) : Out :=
  match nextIssue s s.ev.core with
  | none => .refused .notEnabled
  | some (w, e) =>
    let s := beginBundle s s.ev.core w e b.head
    let s := coreError s
    match s.me.after with
    | some (c, sub, at_) => .next (takePending s c sub at_)
    | none =>
      if budgetOf s = 0 then .next (trapHere s (.of .watchdog) 0xFF)
      else match regionAsk s with
        | .fault n => .next (trapHere s (.timing n) 0xFF)
        | .enter r => .next (enterRegion r s)
        | .ok leave =>
          let s := if leave then s.updMe (fun w => { w with region := none }) else s
          if s.ev.write then .next (trapHere (countError s (dieOf s.ev.core) 2) (.of .registerError) 0xFF)
          else .next (fetchedBundle s b)

/-! ## The meanings -/

/-- BUNDLE_ISSUE on the core of the event. -/
def execBundleIssue (b : Bundle) (s : State) : Out := issueBundle b s

/-- IDLE_BUNDLE: a bundle whose head names no slot (R24). -/
def execIdleBundle (head : BitVec 16) (s : State) : Out := issueBundle ⟨head, []⟩ s

/-- WATCHDOG: a bundle presented while the budget is 0 (R256). -/
def execWatchdog (s : State) : Out :=
  match nextIssue s s.ev.core with
  | none => .refused .notEnabled
  | some (w, e) =>
    let s := beginBundle s s.ev.core w e 0
    if s.me.after.isNone && budgetOf s == 0 then .next (trapHere s (.of .watchdog) 0xFF) else .refused .notEnabled

/-- REGION_ENTRY: a warp presents the START of a region (R285). -/
def execRegionEntry (s : State) : Out :=
  match nextIssue s s.ev.core with
  | none => .refused .notEnabled
  | some (w, e) =>
    let s := beginBundle s s.ev.core w e 0
    if s.me.after.isSome || budgetOf s == 0 then .refused .notEnabled
    else match regionAsk s with
      | .enter r => .next (enterRegion r s)
      | _ => .refused .notEnabled

/-- What the core `c` presents in this cycle, as a step of its own. -/
def presented (s : State) (c : Nat) : Option Instr :=
  match nextIssue s c with
  | none => none
  | some (w, e) =>
    let t := beginBundle s c w e 0
    let b : Bundle := match fetchBytes t c w t.me.level e.pc 2 with
      | .ok bs =>
        let h : BitVec 16 := BitVec.ofNat 16 (leNat bs)
        (match fetchBytes t c w t.me.level e.pc (bundleLen h) with
          | .ok l => ⟨h, wordsOf (headSlots h).length (l.drop 2)⟩
          | _ => ⟨h, []⟩)
      | _ => ⟨0, []⟩
    if t.me.after.isSome then some b.instr
    else if budgetOf t = 0 then some .watchdog
    else match regionAsk t with
      | .enter _ => some .regionEntry
      | _ => some b.instr

end Sys2Proof.Machine
end

