-- ==== Sys2Proof/Machine/Landing.lean ====
section
/-!
DEFINITION. What reaches a core in a cycle: fixed-latency results and late replies (R49, R66 to R69, R291), arrivals
(R163), the end of waits (R181, R182), waking (R183), walks (R390), the quad window (R303), timed packets (R290), the L2
(R307, R308), the order of SC accesses (R321) and the end of an invalidation (R391).
-/
namespace Sys2Proof.Machine

/-- The cores that hold something. -/
def State.coreIds (s : State) : List Nat := s.cores.map (·.1)

/-! ## Pending writes -/

/-- Whether a pending write has run out and its value is there. -/
def dueNow (k : Core) (p : Pending) : Bool :=
  let w := k.warp p.warp
  p.rem == 0 && p.left == 0 && w.status == .run && !w.replay

/-- Whether a pending write is a late reply: its warp stood frozen for it, or a FAULT region has noted it (R291). -/
def lateWrite (k : Core) (p : Pending) : Bool :=
  let w := k.warp p.warp
  p.id.isSome && (decide (w.frozen > 0) || (match p.wr with
    | .vec d _ _ l _ => w.lates.contains (d.map (·.2), l)
    | _ => false))

/-- The result that lands next, in the order in which results stand, the strides last (R66, R124). -/
def nextLanding (k : Core) : Option Pending :=
  let l := k.pw.filter (dueNow k)
  match l.find? (fun p => !isStride p) with
  | some p => some p
  | none => l.head?

/-- A later landing in a binding or latch ends what a FAULT region noted of it. -/
def forgetLate (p : Pending) (w : Warp) : Warp :=
  match p.wr with
  | .vec d _ _ l _ =>
    let clear (x : Option Nat × Option Nat) : Option Nat × Option Nat :=
      (if x.1 = d.map (·.2) then none else x.1, if x.2 = l then none else x.2)
    { w with lates := w.lates.map clear }
  | _ => w

/-- RESULT_LANDING on core `ev.core`: the next fixed-latency result lands or is carried over. -/
def execResultLanding (s : State) : Out :=
  let k := s.core s.ev.core
  match nextLanding k with
  | none => .refused .notEnabled
  | some p =>
    if lateWrite k p then .refused .notEnabled
    else
      .next (s.updCore s.ev.core (fun k =>
        if portTaken k p then carryOver p k else (landOne s.gcc p k).updWarp p.warp (forgetLate p)))

/-- LATE_REPLY_ARRIVAL on core `ev.core`: the late value lands, or is carried over where its bank's port is taken (R66), and a
frozen warp counts its cycles and goes on. -/
def execLateReplyArrival (s : State) : Out :=
  let k := s.core s.ev.core
  match nextLanding k with
  | none => .refused .notEnabled
  | some p =>
    if !lateWrite k p then .refused .notEnabled
    else .next (s.updCore s.ev.core (fun k => (landOrCarry s.gcc k p).updWarp p.warp (fun w =>
      if w.frozen = 0 then w else { countStretch w.frozen w with frozen := 0 })))

/-! ## Arrivals -/

/-- The answer that arrives next at a core. -/
def nextAnswer (s : State) (c : Nat) : Option Req :=
  s.ms.reqs.find? (fun r => r.core == c && r.stage == .answered && decide (r.due ≤ s.gcc))

/-- Every lane of a request failed on the way (R162, R426). -/
def remoteFault (s : State) (r : Req) : State :=
  let ls := r.lanes.map (fun x => { x with val := 0, bad := true })
  let m : Mask := r.lanes.foldl (fun m x => m ||| (1#128 <<< x.lane)) 0
  takeAnswer s { r with lanes := ls } (some ((r.lanes.head?.map (·.addr)).getD 0, m))

/-- The values of a remote answer in the lanes of its request, in order. -/
def remoteLanes (a : RemoteAns) (ls : List LaneReq) : List LaneReq :=
  ls.zipIdx.map (fun x => 
    let bad := a.poison.getLsbD x.1.lane || a.fault.getLsbD x.1.lane
    { x.1 with val := if bad then 0 else a.vals.getD x.2 0, bad := bad })

/-- The lanes that failed at the remote part, with the address of the lowest (R162). -/
def remoteFlt (a : RemoteAns) (ls : List LaneReq) : Option (DWord × Mask) :=
  (ls.find? (fun x => a.fault.getLsbD x.lane)).map (fun x => (x.addr, a.fault))

/-- The answer of another part to request `ev.idx`, or its acceptance of flush record `ev.idx` (R177, R424). -/
def remoteAnswer (s : State) (a : RemoteAns) : Out :=
  match getReq s s.ev.idx with
  | some r =>
    if r.path ≠ .fabric then .refused .notEnabled
    else
      let s := { s with hd := { s.hd with ports := s.hd.ports.map (fun (x : Nat × Port) =>
        (x.1, { x.2 with inflight := x.2.inflight.filter (· != r.id) })) } }
      let s := match r.acq with | some sc => acquireCaches s r.core sc | none => s
      .next (takeAnswer s { r with lanes := remoteLanes a r.lanes } (remoteFlt a r.lanes))
  | none =>
    match s.ms.flushes.find? (fun f => f.id == s.ev.idx) with
    | some f =>
      let s := { s with ms := { s.ms with flushes := s.ms.flushes.filter (fun x => x.id != f.id) } }
      if s.ms.flushes.any (fun x => x.rid == f.rid && x.core == f.core) then .next s
      else .next (arriveResult s f.core f.rid)
    | none => .refused .notEnabled

/-- The completion of an engine command arrives (R163). -/
def cmdArrives (s : State) (c : Nat) (x : ECmd) : State :=
  let s := s.updCore c (fun k => { k with ecmds := k.ecmds.filter (fun y => y.id != x.id) })
  match x.rid with
  | some i => arriveResult s c i
  | none => s

/-- ARRIVAL at core `ev.core`: the next answer or completion, or what another part answers. -/
def execArrival (s : State) : Out :=
  match s.ev.ans with
  | some a => remoteAnswer s a
  | none =>
    match nextAnswer s s.ev.core with
    | some r => .next (takeAnswer s r none)
    | none =>
      match cmdArrived s s.ev.core with
      | some x => .next (cmdArrives s s.ev.core x)
      | none => .refused .notEnabled

/-! ## The end of waits -/

/-- Whether a WAITA has landed everything that it covers. -/
def waitaDone (w : Warp) : Bool :=
  match w.susp with
  | .waita cover => w.status == .run && w.results.all (fun r => !cover.contains r.rid)
  | _ => false

/-- WAITA_RETIRE of warp `ev.warp` of core `ev.core`: the last landing was that of the cycle before. A MARKW among what has
landed orders and releases what it waited for (R325). -/
def execWaitaRetire (s : State) : Out :=
  let c := s.ev.core
  let w := s.ev.warp
  if !waitaDone (s.warp c w) then .refused .notEnabled
  else
    let cover := match (s.warp c w).susp with | .waita l => l | _ => []
    let s := landMarkw s c w cover
    .next (syncLanded ((retireWaita s c w (!cover.isEmpty)).updWarp c w (fun x => { x with ready := some (s.gcc - 1) })) c cover)

/-- Whether a TWAIT's condition holds (R182). -/
def twaitDue (w : Warp) : Bool :=
  match w.susp with
  | .twait _ mask watch _ _ _ => w.status == .run && twaitMet w mask watch
  | _ => false

/-- A suspended warp whose wait has come to a fault traps, and a TWAIT whose condition holds is served (R162, R182,
R223). -/
def serveWait (s : State) (c wi : Nat) : State :=
  let w := s.warp c wi
  let owed (cover : List Nat) : Bool :=
    let e := (s.core c).eng
    !e.fltSeen && e.fltWarp == wi && cover.any (fun i => e.fltRids.contains i)
  match w.status, w.susp with
  | .run, .waita cover =>
    if owed cover then trapSuspended (seenFault s c) c wi (.of .matrixFault)
    else (match waitaTrap w cover with
      | some tr => trapSuspended s c wi tr
      | none => s)
  | .run, .twait _ mask watch pred num cover =>
    if !twaitMet w mask watch then s
    else if owed cover then trapSuspended (seenFault s c) c wi (.of .matrixFault)
    else (match waitaTrap w cover with
      | some tr => trapSuspended s c wi tr
      | none =>
        let bit := if watch && w.watchHit then 2 else 0
        addWhy (meetTwait s c wi mask pred num) c bit)
  | _, _ => s

def serveWaits (s : State) (c : Nat) : State := ((s.core c).warps.map (·.1)).foldl (fun s w => serveWait s c w) s

/-- Whether the hint of a TWAIT has run out with its condition not met. -/
def twaitOut (gcc : Nat) (w : Warp) : Bool :=
  match w.susp with
  | .twait d mask watch _ _ _ => w.status == .run && decide (d ≤ gcc) && !twaitMet w mask watch
  | _ => false

/-- TWAIT_TIMEOUT of warp `ev.warp` of core `ev.core`. -/
def execTwaitTimeout (s : State) : Out :=
  let w := s.warp s.ev.core s.ev.warp
  if !twaitOut s.gcc w then .refused .notEnabled
  else match w.susp with
    | .twait _ _ _ pred num _ => .next (expireTwait s s.ev.core s.ev.warp pred num)
    | _ => .refused .notEnabled

/-! ## Gating and waking (R183) -/

/-- Whether a warp waits in one of the ways of R183. -/
def waitsNow (w : Warp) : Bool :=
  w.status == .run &&
    (w.susp != .none || (!w.entries.isEmpty && w.entries.all (fun e => e.wait != .none) && w.spilled.all (fun e => e.wait != .none)))

/-- The warps that stand in the slots of a core. -/
def Core.standing (k : Core) : List (Nat × Warp) := k.warps.filter (fun x => decide (x.1 < Config.residentSlots) && x.2.status != .free && x.2.status != .ended)

/-- A core whose every warp waits stops its clocks. -/
def gateCore (s : State) (c : Nat) : State :=
  let k := s.core c
  if !k.gated && !k.standing.isEmpty && k.standing.all (fun x => waitsNow x.2) && k.current.isNone &&
      decide (k.free ≤ s.gcc + 2) && !k.warps.any (fun x => x.2.ready.isSome || waitaDone x.2) then
    s.updCore c (fun k => { k with gated := true, gates := min (k.gates + 1) 0xFFFF })
  else s

/-- The earliest ready cycle of a core's warps. -/
def earliestReady (k : Core) : Option Nat :=
  k.warps.foldl (fun m x => match m, x.2.ready with
    | some a, some b => some (min a b)
    | none, b => b
    | a, none => a) none

/-- CORE_WAKE of core `ev.core`: its first bundle issues 60 cycles after the event. -/
def execCoreWake (s : State) : Out :=
  let k := s.core s.ev.core
  match k.gated, earliestReady k with
  | true, some r =>
    .next (s.updCore s.ev.core (fun k =>
      { k with gated := false, wakewhy := k.wakewhy ||| k.why, free := max k.free (r + 60) }))
  | _, _ => .refused .notEnabled

/-! ## Walks (R161, R390) -/

/-- Whether a walk of a die for a page can end. -/
def walkOf (die page : Nat) (k : Walk) : Bool := dieOf k.core == die && k.va == page && k.fail.isNone

/-- One requester of a walk receives its result. -/
def walkResult (r : Except Nat Leaf) (s : State) (k : Walk) : State :=
  match r with
  | .ok l => tlbFill { s with ms := { s.ms with walks := s.ms.walks.erase k } } k.core l
  | .error e => { s with ms := { s.ms with walks := s.ms.walks.map (fun x => if x = k then { k with fail := some e } else x) } }

/-- The lines of the table entries that a die reads to look up a page: none where it holds the page (R390). -/
def walkLines (s : State) (die va : Nat) : List Nat :=
  if (tget [] s.ms.tcache die).any (fun l => !l.dir && l.covers va) || decide (2 ^ 57 ≤ va) then []
  else
    let start := match cachedDir va (tget [] s.ms.tcache die) with
      | some d => (d.level - 1, d.pa)
      | none => (5, rootAddr s)
    (start :: (walkWays s die va).2.map (fun d => (d.level - 1, d.pa))).map (fun x => lineOf (entryAddr x.2 x.1 va))

/-- A die's translation cache takes what a walk found, its oldest entries leaving (R390). -/
def cacheWalk (s : State) (die : Nat) (l : List Leaf) : State :=
  let t := (tget [] s.ms.tcache die).filter (fun x => !l.contains x)
  { s with ms := { s.ms with tcache := tset s.ms.tcache die ((l ++ t).take 16384) } }

/-- A die looks up a page, or walks for it, and keeps what a walk that succeeds found; a failed walk is never cached (R390). -/
def dieWalk (s : State) (die va : Nat) : State × Except Nat Leaf :=
  let r := walkAt s die va
  if (tget [] s.ms.tcache die).any (fun l => !l.dir && l.covers va) || decide (2 ^ 57 ≤ va) then (s, r)
  else
    let ways := (walkWays s die va).2
    let s := List.foldl countAccess s (walkLines s die va)
    (match r with | .ok l => cacheWalk s die (l :: ways) | .error _ => s, r)

/-- The pages for which a die's walkers are at work: the first 64 of those that wait (R390). -/
def walking (s : State) (die : Nat) : List Nat :=
  ((s.ms.walks.filter (fun k => dieOf k.core == die && k.fail.isNone)).map (·.va)).eraseDups.take 64

/-- TABLE_WALK on die `ev.idx` for the page at `ev.addr`: every requester of the page receives the result. -/
def execTableWalk (s : State) : Out :=
  let die := s.ev.idx
  let va := s.ev.addr.toNat
  let l := s.ms.walks.filter (walkOf die va)
  if l.any (fun k => decide (k.due ≤ s.gcc)) && (walking s die).contains va && !(walkLines s die va).any (readHeld s) then
    let (s, r) := dieWalk s die va
    .next (l.foldl (walkResult r) s)
  else .refused .notEnabled

/-! ## The quad window (R303) -/

/-- Whether one request is served before another that arrived in the same cycle or later. -/
def winBefore (a b : WinReq) : Bool :=
  if a.arrive ≠ b.arrive then decide (a.arrive < b.arrive)
  else decide ((a.src + 4 - a.arrive % 4) % 4 < (b.src + 4 - b.arrive % 4) % 4)

def firstWin : List WinReq → Option WinReq
  | [] => none
  | x :: r =>
    match firstWin r with
    | none => some x
    | some y => if winBefore y x then some y else some x

/-- The request that a window port serves next. -/
def nextWin (s : State) (c : Nat) : Option WinReq :=
  if (s.core c).winFree ≤ s.gcc then firstWin ((s.core c).winq.filter (fun q => decide (q.arrive ≤ s.gcc))) else none

/-- A window request's accesses, and the replies of its loads, which come as late as the request was served late. -/
def winAccesses (q : WinReq) : List Access :=
  let acc (x : Nat × AccKind) : Access := ⟨x.1, 8, q.src, q.warp, q.bun, x.2⟩
  let ids := (q.parts.filterMap (fun x => match x.2 with | .load id _ _ _ => some id | _ => none)).eraseDups
  q.parts.map acc ++ ids.map (fun i => ⟨q.due - q.arrive - 1, 8, q.src, q.warp, q.bun, .deliver i⟩)

/-- WINDOW_PORT_SERVICE of the port of core `ev.core`. -/
def execWindowPortService (s : State) : Out :=
  match nextWin s s.ev.core with
  | none => .refused .notEnabled
  | some q =>
    .next (s.updCore s.ev.core (fun k =>
      { k with winq := k.winq.erase q, winFree := s.gcc + q.k, accs := k.accs ++ winAccesses q }))

/-! ## Timed packets (R290) -/

/-- Whether a core's inbox belongs to groups that have all been saved: one has been, and none is resident (R383). -/
def inboxSaved (s : State) (c : Nat) : Bool :=
  (s.residentOn c).isEmpty &&
    s.sched.groups.any (fun x => x.2.core == c && x.2.saved && (x.2.status == .waiting || x.2.status == .held))

/-- TIMED_PACKET_LANDING on core `ev.core`: a packet lands, over a slot still full as an overrun; at a saved group's inbox it
is dropped, with a record (R383, R392). -/
def execTimedPacketLanding (s : State) : Out :=
  match (s.core s.ev.core).packets.find? (fun p => decide (p.due ≤ s.gcc)) with
  | none => .refused .notEnabled
  | some p =>
    let s := s.updCore s.ev.core (fun k => { k with packets := k.packets.erase p })
    if inboxSaved s s.ev.core then
      .next (postPlain s { plainRecord s .timingFault 5 7 5 p.handle 0 with core := s.ev.core })
    else
      .next (s.updCore s.ev.core (fun k =>
        { k with inbox := tset k.inbox p.slot ⟨p.val, p.stamp, (tget? k.inbox p.slot).isSome⟩ }))

/-! ## The L2 (R307, R308, R321) -/

/-- Whether a request waiting in a port's queue, or on its way, can go on at its home now. -/
def homeReady (s : State) (r : Req) : Bool :=
  canEnter s r && (r.path == .home || r.path == .cached && !cacheHit s r) && !isDevice (r.line * 128) && bankReady s r

/-- A single-bit error is corrected and counted; a double-bit error poisons the line (R442, R444). -/
def eccAt (s : State) (ln kind : Nat) : State :=
  match homeDie (ln * 128) with
  | none => s
  | some d =>
    let s := countError s d kind
    if kind = 2 ∧ !s.ms.poisoned.contains ln then { s with ms := { s.ms with poisoned := s.ms.poisoned ++ [ln] } } else s

/-- L2_REQUEST_ENTRY of request `ev.idx`; `ev.idx2` tells of an error found in its line. -/
def execL2RequestEntry (s : State) : Out :=
  match getReq s s.ev.idx with
  | some r =>
    if !homeReady s r then .refused .notEnabled
    else if !present s (r.line * 128) then .fault .absentAddress
    else .next (enterHome (eccAt s r.line s.ev.idx2) r)
  | none => .refused .notEnabled

/-- Whether a missed line arrives, or has its list served, in this cycle: a channel under repair holds its reads, a burst that is
replayed is still to come (R448), and what entered before the line was missed acts first. -/
def missReady (s : State) (m : Miss) : Bool :=
  let ch := tget Channel.reset s.pt.channels (Config.channelOf m.line)
  decide (m.due ≤ s.gcc) && (m.arrived || !ch.held && !ch.abandoned.contains m.line && !ch.replays.any (fun r => r.line == m.line && decide (s.gcc ≤ r.due))) &&
  !s.ms.reqs.any (fun r => r.stage == .entered && r.line == m.line)

/-- L2_LINE_ARRIVAL of line `ev.idx`: the line arrives, and one request of its list is served in each cycle; `ev.idx2`
tells of an error that the stack found in it. -/
def execL2LineArrival (s : State) : Out :=
  match s.ms.misses.find? (fun m => m.line == s.ev.idx) with
  | none => .refused .notEnabled
  | some m =>
    if !missReady s m then .refused .notEnabled
    else
      let s := if m.arrived then s else eccAt s m.line s.ev.idx2
      let s := match m.list with
        | [] => s
        | id :: _ => match getReq s id with
          | some r => performHome s r
          | none => s
      let m' := { m with arrived := true, due := s.gcc + 1, list := m.list.tail }
      let s := l2Put s m.line
      .next { s with ms := { s.ms with
        misses := if m'.list.isEmpty then s.ms.misses.filter (fun x => x.line != m.line)
          else s.ms.misses.map (fun x => if x.line = m.line then m' else x) } }

/-- A position of the wheel is free in this cycle (R321). -/
def wheelFree (s : State) (pos : Nat) : Bool := s.gcc % 160 == pos && tget 0 s.ms.wheel pos != s.gcc + 1

/-- A position of an engine or of the host is free and every SC access with an earlier key has performed: what takes the
position performs at once (R321). -/
def wheelOpen (s : State) (pos : Nat) : Bool :=
  wheelFree s pos && !s.ms.reqs.any (fun x => x.sc && x.pending && x.scKey.isSome)

/-- A position of the wheel has carried its access of this turn. -/
def wheelTake (s : State) (pos : Nat) : State := { s with ms := { s.ms with wheel := tset s.ms.wheel pos (s.gcc + 1) } }

/-- SC_ORDER_ENTRY of core `ev.core`: the SC instruction at the head of its queue takes its key. -/
def execScOrderEntry (s : State) : Out :=
  let c := s.ev.core
  match (s.core c).scq with
  | [] => .refused .notEnabled
  | rid :: r =>
    if !wheelFree s c then .refused .notEnabled
    else
      let s := wheelTake (s.updCore c (fun k => { k with scq := r })) c
      .next { s with ms := { s.ms with reqs := s.ms.reqs.map (fun x =>
        if x.rid = some rid ∧ x.core = c then { x with scKey := some s.gcc } else x) } }

/-! ## The end of an invalidation (R391) -/

/-- Whether a request used a translation that an invalidation drops. -/
def usesDropped (sz va : Nat) (r : Req) : Bool :=
  r.path != .order && r.path != .fabric && r.pending &&
  r.lanes.any (fun x => invCovers sz va ⟨x.addr.toNat / 65536 * 65536, 16, 0, false, false, false, false⟩)

/-- The leaves that an invalidation drops: those of the cores, of the dies and of copy records under way. -/
def droppedLeaves (s : State) : List Leaf :=
  let held (k : Core) : List Leaf := (k.copyq.map (fun (x : Nat × List CopyRec) => (x.2.map (·.leaves)).flatten)).flatten
  ((s.cores.map (fun (x : Nat × Core) => x.2.tlb ++ held x.2)).flatten ++
    (s.ms.tcache.map (fun (x : Nat × List Leaf) => x.2)).flatten).filter (fun l => !l.dir && invCovers s.ms.sz s.ms.invva l)

/-- Whether an access translated with a dropped entry has still to perform (R391): a request, a copy record under way, or an
element of the reduction buffer or of a flush record, on its way or staged (R178). -/
def droppedInUse (s : State) : Bool :=
  let ls := droppedLeaves s
  let red (e : RedEntry) : Bool := !e.fabric && ls.any (fun l => decide (l.pa ≤ e.block * 64) && decide (e.block * 64 < l.pa + 2 ^ l.shift))
  let copies (k : Core) : Bool := k.copyq.any (fun (x : Nat × List CopyRec) =>
    x.2.any (fun r => r.leaves.any (invCovers s.ms.sz s.ms.invva)))
  s.ms.reqs.any (usesDropped s.ms.sz s.ms.invva) || s.cores.any (fun x => copies x.2 || x.2.red.any red) ||
    s.ms.flushes.any (fun f => f.ents.any red) || s.ms.sessions.any (fun x => x.recs.any (fun f => f.ents.any red))

/-- INVALIDATION_DONE: every core and die has dropped the entries, and what used one has performed at .sy: the dirty lines of the
core caches are written back too. -/
def execInvalidationDone (s : State) : Out :=
  let va := s.ms.invva
  let sz := s.ms.sz
  if !s.ms.busy || droppedInUse s then .refused .notEnabled
  else
    let s := s.coreIds.foldl (fun (s : State) c => releaseCaches s c .sy) s
    let s := { s with cores := s.cores.map (fun (x : Nat × Core) => (x.1, invCore sz va x.2)) }
    let keep (l : List Leaf) : List Leaf := l.filter (fun x => !invCovers sz va x)
    let root : DWord := s.ms.ptrh ++ s.ms.ptrl
    .next { s with ms := { s.ms with
      busy := false
      tcache := s.ms.tcache.map (fun (x : Nat × List Leaf) => (x.1, keep x.2))
      root := if sz = 3 then root else s.ms.root } }

end Sys2Proof.Machine
end

