-- ==== Sys2Proof/Machine/Transfer.lean ====
section
/-!
DEFINITION. Copy records (R190, R191, R311, R323, R441), flush records and ordered sessions (R177, R178), and the
semaphore increments of STCMT (R252).
-/
namespace Sys2Proof.Machine

/-! ## The copy record (R190) -/

structure CopyDesc where
  src : Nat
  dst : Nat
  l0 : Nat
  l1 : Nat
  l2 : Nat
  l3 : Nat
  ssp : Nat
  dsp : Nat
  phc : Bool
  evi : Bool
  ptag : Word
  ss : List Int
  ds : List Int
  evt : Nat
  ok : Bool
  deriving DecidableEq, Repr

/-- A signed field of four bytes. -/
def sfield (b : List Byte) (o : Nat) : Int := (BitVec.ofNat 32 (field b o 4)).toInt

def CopyDesc.parse (b : List Byte) : CopyDesc :=
  let fl := field b 26 2
  let ssp := fl % 4
  let dsp := fl / 4 % 4
  let plain (sp v : Nat) : Bool := sp != 1 || v / 2 ^ 24 % 2 ^ 32 == 0
  { src := field b 0 8, dst := field b 8 8, l0 := field b 16 4, l1 := field b 20 2, l2 := field b 22 2, l3 := field b 24 2
    ssp := ssp, dsp := dsp, phc := fl / 16 % 2 == 1, evi := fl / 32 % 2 == 1, ptag := BitVec.ofNat 32 (field b 28 4)
    ss := [sfield b 32, sfield b 36, sfield b 40], ds := [sfield b 44, sfield b 48, sfield b 52], evt := field b 56 8
    ok := fl / 64 == 0 && decide (ssp ≤ 1) && decide (dsp ≤ 1) && plain ssp (field b 0 8) && plain dsp (field b 8 8) }

/-- The rows of a record; none when a length is zero. -/
def CopyDesc.rows (d : CopyDesc) : Nat := if d.l0 = 0 then 0 else d.l1 * d.l2 * d.l3

/-- What the strides add for row `i` (R191). -/
def CopyDesc.stride (d : CopyDesc) (l : List Int) (i : Nat) : Int :=
  let i1 : Int := ((i % d.l1 : Nat) : Int)
  let i2 : Int := ((i / d.l1 % d.l2 : Nat) : Int)
  let i3 : Int := ((i / (d.l1 * d.l2) : Nat) : Int)
  i1 * l.getD 0 0 + i2 * l.getD 1 0 + i3 * l.getD 2 0

/-- Where a row lies: at a virtual address, or at an offset of a core's scratchpad. -/
inductive Place where
  | mem (va : Nat)
  | spad (core : Nat) (off : Int)
  deriving DecidableEq, Repr

def placeOf (sp base : Nat) (off : Int) : Place :=
  if sp = 1 then .spad (base / 2 ^ 56) ((base % 2 ^ 24 : Nat) + off)
  else .mem (wrapAddr (BitVec.ofNat 64 base) off).toNat

def CopyDesc.from_ (d : CopyDesc) (i : Nat) : Place := placeOf d.ssp d.src (d.stride d.ss i)

def CopyDesc.to (d : CopyDesc) (i : Nat) : Place := placeOf d.dsp d.dst (d.stride d.ds i)

/-! ## Rows -/

/-- The page addresses of a span, from its first byte on. -/
def pageFirsts (va n : Nat) : List Nat :=
  va :: ((List.range ((va + n - 1) / 65536 - va / 65536)).map (fun i => (va / 65536 + 1 + i) * 65536))

/-- Translate for a record: by the translations it found at its start, else through its die's translation cache (R390, R441). -/
def copyXlate (s : State) (r : CopyRec) (n : Need) (va : Nat) : Except Nat Nat :=
  match r.leaves.find? (fun l => l.covers va) with
  | some l => if l.allows r.level n then .ok (l.phys va) else .error 2
  | none => xlateOn s (dieOf r.core) r.level n va

/-- Why a row stops: the cause, the subcode, the address, and whether it is the destination. -/
structure RowFault where
  cause : Cause
  sub : Nat
  addr : DWord
  write : Bool
  deriving DecidableEq, Repr

/-- The first page of a span that does not translate. -/
def firstBad (s : State) (r : CopyRec) (n : Need) : List Nat → Option (Nat × Nat)
  | [] => none
  | va :: l => match copyXlate s r n va with
    | .error e => some (e, va)
    | .ok _ => firstBad s r n l

/-- The scratchpad offset of a row in the group of the issuing grid on a core (R311). -/
def spadPlace (s : State) (r : CopyRec) (c : Nat) (off : Int) (n : Nat) : Option Nat :=
  if r.handle = 0xFFFFFFFF then none
  else if (quadState s (quadOf c)).st ≠ 0 then none
  else match groupBaseOn s (gridOf r.handle) c with
    | some (base, _, g) => if 0 ≤ off ∧ off + n ≤ g.allot then some (base + off.toNat) else none
    | none => none

/-- The checks of one end of a row. -/
def placeFault (s : State) (r : CopyRec) (write : Bool) (n : Nat) : Place → Option RowFault
  | .mem va =>
    (firstBad s r (if write then .write else .read) (pageFirsts va n)).map (fun x =>
      ⟨.translationFault, x.1, BitVec.ofNat 64 x.2, write⟩)
  | .spad c off =>
    if (spadPlace s r c off n).isSome then none
    else some ⟨.segmentLimit, 0, BitVec.ofNat 64 (c * 2 ^ 56) + BitVec.ofInt 64 off, write⟩

/-- The bytes of a piece, each with its poison. -/
def readPiece (s : State) (r : CopyRec) (p : Place) (o n : Nat) : List (Byte × Bool) :=
  (List.range n).map (fun i => match p with
    | .mem va => (match copyXlate s r .read (va + o + i) with
      | .ok pa => if s.ms.poisoned.contains (lineOf pa) then (0, true) else (memGet s.ms.mem pa, false)
      | .error _ => (0, false))
    | .spad c off => (match spadPlace s r c (off + o + i) 1 with
      | some a => (memGet (s.core c).scratch a, wordPoison (s.core c) a)
      | none => (0, false)))

/-- Write a piece of one line, with the poison it carries (R162, R443). -/
def writeLine (s : State) (pa : Nat) (b : List (Byte × Bool)) : State :=
  let s := homeWrite s pa (b.map (·.1))
  if b.any (·.2) && !s.ms.poisoned.contains (lineOf pa) then
    { s with ms := { s.ms with poisoned := s.ms.poisoned ++ [lineOf pa] } }
  else s

/-- Write at a physical address, line by line. -/
def writeLines : Nat → Nat → List (Byte × Bool) → State → State
  | 0, _, _, s => s
  | fuel + 1, pa, b, s =>
    if b.isEmpty then s
    else
      let n := 128 - pa % 128
      writeLines fuel (pa + n) (b.drop n) (writeLine s pa (b.take n))

/-- Write words of a scratchpad, with the poison they carry. -/
def writeWords (c : Nat) : Nat → Nat → List (Byte × Bool) → State → State
  | 0, _, _, s => s
  | fuel + 1, a, b, s =>
    if b.isEmpty then s
    else
      let n := 4 - a % 4
      let x := b.take n
      writeWords c fuel (a + n) (b.drop n) (s.updCore c (fun k => spadWrite k a (x.map (·.1)) (x.any (·.2))))

/-- Write a piece, which lies in one page or two. -/
def writePiece (s : State) (r : CopyRec) (p : Place) (o : Nat) (b : List (Byte × Bool)) : State :=
  match p with
  | .mem va =>
    let a := va + o
    let n := 65536 - a % 65536
    let put (s : State) (a : Nat) (b : List (Byte × Bool)) : State :=
      match copyXlate s r .write a with
      | .ok pa => writeLines (b.length + 1) pa b s
      | .error _ => s
    put (put s a (b.take n)) (a + n) (b.drop n)
  | .spad c off =>
    match spadPlace s r c (off + o) b.length with
    | some a => writeWords c (b.length + 1) a b s
    | none => s

/-- The lines of memory that a piece reaches, each a request at its home (R438). -/
def pieceLines (s : State) (r : CopyRec) (n : Need) (p : Place) (o len : Nat) : List Nat :=
  match p with
  | .mem va => ((List.range len).filterMap (fun i => match copyXlate s r n (va + o + i) with
      | .ok pa => some (lineOf pa)
      | .error _ => none)).eraseDups
  | .spad .. => []

/-- The 4 KiB pieces of a row in order, each read whole before it is written (R191). -/
def movePieces (r : CopyRec) (a b : Place) (l0 : Nat) : Nat → Nat → State → State
  | 0, _, s => s
  | fuel + 1, o, s =>
    if l0 ≤ o then s
    else
      let n := min 4096 (l0 - o)
      let s := netAll s (pieceLines s r .read a o n)
      let x := readPiece s r a o n
      movePieces r a b l0 fuel (o + n) (writePiece (netAll s (pieceLines s r .write b o n)) r b o x)

/-- Move one row, or say why it stops. -/
def moveRow (s : State) (r : CopyRec) (d : CopyDesc) (i : Nat) : Except RowFault State :=
  match placeFault s r false d.l0 (d.from_ i) with
  | some f => .error f
  | none =>
    match placeFault s r true d.l0 (d.to i) with
    | some f => .error f
    | none => .ok (movePieces r (d.from_ i) (d.to i) d.l0 (d.l0 / 4096 + 1) 0 s)

/-! ## The copy queues -/

/-- The record at the head of a queue. -/
def copyHead (s : State) (c q : Nat) : Option CopyRec := (tget [] (s.core c).copyq q).head?

/-- Change the record at the head of a queue. -/
def setCopy (s : State) (c q : Nat) (f : CopyRec → CopyRec) : State :=
  s.updCore c (fun k => { k with copyq := tset k.copyq q (match tget [] k.copyq q with | r :: l => f r :: l | [] => []) })

/-- The record of R392 for a copy record. -/
def copyRecord (s : State) (c : Nat) (h : Word) (f : RowFault) : Record :=
  { plainRecord s f.cause f.sub 1 (if f.write then 5 else 4) h f.addr with core := c }

/-- A row faults: the queue halts there, and a record is posted that can restart it (R191, R380). -/
def haltCopy (s : State) (c q : Nat) (r : CopyRec) (f : RowFault) : State :=
  postEngine (setCopy s c q (fun r => { r with halted := true })) false (copyRecord s c r.handle f) (.copy c q r.id)

/-- Whether the window port of the scratchpad that a row is read from serves nothing, and nothing waits there (R303, R310). -/
def sourceOpen (s : State) : Place → Bool
  | .mem _ => true
  | .spad c _ => decide ((s.core c).winFree ≤ s.gcc) && (s.core c).winq.all (fun x => decide (s.gcc < x.arrive))

/-- A row read from a scratchpad takes its window port for a time of its own (R310). -/
def takeSource (s : State) : Place → State
  | .mem _ => s
  | .spad c _ =>
    let (n, s) := s.draw
    s.updCore c (fun k => { k with winFree := s.gcc + 1 + Config.freeNat n })

/-- Up to `n` rows of a record. -/
def copyRows (c q : Nat) (d : CopyDesc) : Nat → State → State
  | 0, s => s
  | n + 1, s =>
    match copyHead s c q with
    | some r =>
      if d.rows ≤ r.row || !sourceOpen s (d.from_ r.row) then s
      else match moveRow s r d r.row with
        | .error f => haltCopy s c q r f
        | .ok s => copyRows c q d n (takeSource (setCopy s c q (fun r => { r with row := r.row + 1 })) (d.from_ r.row))
    | none => s

/-- The pages that a record uses. -/
def pagesOf (d : CopyDesc) : List Nat :=
  ((List.range d.rows).map (fun i => ([d.from_ i, d.to i].map (fun p => match p with
    | .mem va => pageFirsts va d.l0
    | .spad .. => [])).flatten)).flatten

/-- The translations of every page that a record uses, as its die's translation cache gives them when it starts (R390, R441). -/
def leavesOf (die : Nat) : List Nat → State × List Leaf → State × List Leaf
  | [], x => x
  | va :: r, (s, l) =>
    if l.any (fun (x : Leaf) => x.covers va) then leavesOf die r (s, l)
    else match dieWalk s die va with
      | (s, .ok x) => leavesOf die r (s, l ++ [x])
      | (s, .error _) => leavesOf die r (s, l)

/-- The head of a queue starts: a record with a reserved field that is not zero is rejected (R190). -/
def startCopy (s : State) (c q : Nat) (r : CopyRec) (d : CopyDesc) : State :=
  if d.ok then
    let (s, l) := leavesOf (dieOf r.core) (pagesOf d) (s, [])
    setCopy s c q (fun r => { r with started := true, leaves := l })
  else
    let s := postPlain s { plainRecord s .illegalOperand 0 1 4 r.handle 0 with core := c }
    setCopy s c q (fun r => { r with started := true, row := d.rows })

/-- Whether a record has moved all its rows. -/
def copyMoved (r : CopyRec) : Bool := r.started && !r.halted && decide ((CopyDesc.parse r.bytes).rows ≤ r.row)

/-- One cycle of a copy queue: its head starts, or moves a number of rows of the engine's own; when the last has moved, its
cycle is noted. -/
def tickCopy (s : State) (c q : Nat) : State :=
  match copyHead s c q with
  | none => s
  | some r =>
    let d := CopyDesc.parse r.bytes
    if r.halted || copyMoved r || anyHeld s then s
    else if !r.started then
      if decide (r.due ≤ s.gcc) && r.deps.all (fun i => (getReq s i).isNone) then startCopy s c q r d else s
    else
      let (n, s) := s.draw
      let s := copyRows c q d (Config.freeNat n % (d.rows - r.row + 1)) s
      setCopy s c q (fun r => if copyMoved r then { r with due := s.gcc } else r)

/-- The four copy queues of a core. -/
def tickCopies (s : State) (c : Nat) : State := (List.range 4).foldl (fun s q => tickCopy s c q) s

/-- Whether the add to EVT of a record may take place now: on cores 128 to 143 it has a position of the wheel, where the
records wait in the order of their completion (R321). -/
def evtTurn (s : State) (c q : Nat) (r : CopyRec) : Bool :=
  decide (c < 128) || !(CopyDesc.parse r.bytes).evi ||
  (wheelOpen s (148 + q) && (List.range 16).all (fun i =>
    let c' := 128 + i
    match copyHead s c' q with
    | some x => !(copyMoved x && (CopyDesc.parse x.bytes).evi) || c' == c || decide (r.due < x.due) ||
        (r.due == x.due && decide (c < c'))
    | none => true))

/-- A command of a stream completes (R353). -/
def endCommand (s : State) (si id : Nat) : State :=
  let st := tget Stream.reset s.sched.streams si
  { s with sched := { s.sched with streams := tset s.sched.streams si { st with cmds := st.cmds.filter (fun x => x.id != id) } } }

/-- Add to a 64-bit counter in memory, or say why it cannot be done. -/
def addCounter (s : State) (lv : Level) (va : Nat) (n : DWord) : Except (Cause × Nat) State :=
  match xlate s lv .write va with
  | .error e => .error (.translationFault, e)
  | .ok pa =>
    if s.ms.poisoned.contains (lineOf pa) then .error (.poisonedData, 0)
    else 
      let s := netAccess s (lineOf pa)
      .ok (homeWrite s pa (bytesOf 8 (memRead s.ms.mem pa 8 + n.toNat)))

/-- The events of a completion, in their order (R191). A counter that cannot be reached stops the record as a row does. -/
def completeCopy (s : State) (c q : Nat) (r : CopyRec) : State :=
  let d := CopyDesc.parse r.bytes
  let added := if d.evi then addCounter s r.level d.evt 1 else .ok s
  let finish (s : State) : State :=
    let s := s.updCore c (fun k => { k with copyq := tset k.copyq q (tget [] k.copyq q).tail })
    let s := if d.phc then phaseArrival s (if d.dsp = 1 then d.dst / 2 ^ 56 else c) d.ptag 1 else s
    let s := match r.rid with | some i => arriveResult s c i | none => s
    match r.stream with | some si => endCommand s si r.id | none => s
  match added with
  | .ok t => finish (if d.evi ∧ c ≥ 128 then wheelTake t (148 + q) else t)
  | .error (cause, sub) =>
    if d.rows < r.row ∨ cause = .poisonedData then
      finish (postPlain s (copyRecord s c r.handle ⟨cause, sub, BitVec.ofNat 64 d.evt, true⟩))
    else haltCopy s c q r ⟨cause, sub, BitVec.ofNat 64 d.evt, true⟩

/-- COPY_RECORD_COMPLETION of queue `ev.idx` of core `ev.core`. -/
def execCopyRecordCompletion (s : State) : Host.Outcome State Fault Refusal :=
  match copyHead s s.ev.core s.ev.idx with
  | some r => if copyMoved r && evtTurn s s.ev.core s.ev.idx r then .next (completeCopy s s.ev.core s.ev.idx r) else .refused .notEnabled
  | none => .refused .notEnabled

/-- The handler's answer to a copy fault: the queue restarts at the saved row, or the record is abandoned (R380). -/
def answerCopy (s : State) (c q id : Nat) (act : Nat) : State :=
  match copyHead s c q with
  | some r =>
    if r.id = id ∧ r.halted then
      setCopy s c q (fun r => { r with
        halted := false
        row := if act = 0 then r.row else (CopyDesc.parse r.bytes).rows + 1
        due := s.gcc })
    else s
  | none => s

/-! ## Flush records and ordered sessions (R177, R178) -/

/-- The physical address of an offset of the exported window, or the subcode of its failure (R424). -/
def windowPa (s : State) (n : Need) (ofs : Nat) : Except Nat Nat :=
  if s.hd.control.exlen.toNat ≤ ofs then .error 0 else xlate s .u n (s.hd.control.exbase.toNat + ofs)

/-- The entries of a flush record as its home takes them: those of its die by physical block, and whether one has no
home here. Of the records of one contribution for dies of this part, the first tells of an entry that cannot be translated. -/
def homeEntries (s : State) (f : FlushRec) : List RedEntry → State × List RedEntry × Bool
  | [] => (s, [], false)
  | e :: r =>
    let (s, l, bad) := homeEntries s f r
    if !e.fabric then (s, e :: l, bad)
    else
      let ofs := e.block * 64 % 2 ^ 48
      match windowPa s .write ofs with
      | .error sub =>
        (if f.listed.headD f.die = f.die then
          postPlain s { plainRecord s .translationFault sub 5 2 0xFFFFFFFF (BitVec.ofNat 64 ofs) with core := 0 } else s, l, true)
      | .ok pa =>
        if homeDie pa = some f.die then (s, { e with fabric := false, block := pa / 64 } :: l, bad)
        else if (match homeDie pa with | some d => f.listed.contains d | none => false) then (s, l, bad)
        else (s, l, true)

/-- Whether a record is one of a contribution. -/
def LostMark.of (m : LostMark) (x : FlushRec) : Bool := x.rid == m.rid && x.core == m.core && x.part == m.part && x.sid == m.sid

/-- The first listed home of a contribution, in this part, takes the mark of a dropped entry: on the contributor's record, be it on its
way or staged, or for when it comes. -/
def markAt (s : State) (m : LostMark) : State :=
  let hit (x : FlushRec) : Bool := m.of x && x.first && x.die == m.die
  if s.ms.flushes.any hit || s.ms.sessions.any (fun x => x.recs.any hit) then
    { s with ms := { s.ms with
      flushes := s.ms.flushes.map (fun x => if hit x then { x with err := true } else x)
      sessions := s.ms.sessions.map (fun x => if x.recs.any hit then { x with err := true } else x) } }
  else { s with ms := { s.ms with marks := s.ms.marks ++ [m] } }

/-- A home finds that an entry of a record is dropped: the session is in error at the first listed home, which learns of it by the
port that leads to its part (R177). DESIGN CHOICE, log entry 43. -/
def markLost (s : State) (f : FlushRec) : State × FlushRec :=
  let m : LostMark := ⟨f.home1.2, f.sid, f.part, f.core, f.rid⟩
  let port := (s.hd.control.route.getD f.home1.1 0xFF).toNat
  if f.first then (s, { f with err := true })
  else if f.home1.1 = s.hd.control.self.toNat then (markAt s m, f)
  else if portUp s port then ({ s with hd := { s.hd with outbox := s.hd.outbox ++ [(port, .lost f.home1.1 m)] } }, f)
  else (s, f)

/-- The order in which a session applies its records. -/
def recBefore (a b : FlushRec) : Bool :=
  if a.part ≠ b.part then decide (a.part < b.part)
  else if a.core ≠ b.core then decide (a.core < b.core)
  else decide (a.warp < b.warp)

/-- Put a record behind every one that does not come after it. -/
def insertRec (f : FlushRec) : List FlushRec → List FlushRec
  | [] => [f]
  | x :: r => if recBefore f x then f :: x :: r else x :: insertRec f r

def sortRecs (l : List FlushRec) : List FlushRec := l.foldl (fun r f => insertRec f r) []

/-- Apply the elements of one entry, each with one rounding (R94); a poisoned line skips its elements (R162). The copies that
the issuing core and its die have of the line are dropped (R299, R309). -/
def applyEntry (src : Nat) (core : Option Nat) (s : State) (e : RedEntry) : State :=
  let s := netAccess (match core with | some c => bypass s c (e.block / 2) | none => s) (e.block / 2)
  e.elems.foldl (fun s x =>
    let pa := e.block * 64 + 4 * x.1
    if s.ms.poisoned.contains (lineOf pa) then
      postPlain s { plainRecord s .poisonedData 0 src 2 e.handle (BitVec.ofNat 64 pa) with core := 0 }
    else
      let m : Word := BitVec.ofNat 32 (memRead s.ms.mem pa 4)
      homeWrite s pa (bytesOf 4 (e.op.apply m x.2).toNat)) s

/-- Apply the records of a session in order. -/
def applySession (s : State) (l : List FlushRec) : State :=
  (sortRecs l).foldl (fun s f =>
    let own := decide (f.part = s.hd.control.self.toNat)
    f.ents.foldl (applyEntry (if own then 0 else 5) (if own then some f.core else none)) s) s

/-- Add to a DONE counter of this part, or post the record of an add that cannot be made. -/
def addDone (s : State) (h : Word) (va : DWord) (n : DWord) : State :=
  match addCounter s .u va.toNat n with
  | .ok t => t
  | .error (c, sub) => postPlain s { plainRecord s c sub 0 2 h va with core := 0 }

/-- The add to DONE in the address space of the contributor that ranks first; one for another part goes by its port, and is lost where
there is none or it is down (R409). -/
def sessionDone (s : State) (l : List FlushRec) (n : DWord) : State :=
  match sortRecs l with
  | [] => s
  | f :: _ =>
    if f.part = s.hd.control.self.toNat then addDone s ((f.ents.head?.map (·.handle)).getD 0xFFFFFFFF) f.doneAddr n
    else
      let p := (s.hd.control.route.getD f.part 0xFF).toNat
      if portUp s p then { s with hd := { s.hd with outbox := s.hd.outbox ++ [(p, .done f.part f.doneAddr n)] } } else s

/-- Entries that the staging area of a die holds: 256 MiB in blocks of 64 bytes. -/
def stagingCap : Nat := 2 ^ 22

/-- The entries staged at a die. -/
def staged (s : State) (die : Nat) : Nat :=
  ((s.ms.sessions.filter (fun x => x.die == die)).map (fun x => (x.recs.map (fun f => f.ents.length)).foldl (· + ·) 0)).foldl
    (· + ·) 0

/-- A session that holds all its records applies them, or completes in error. -/
def trySession (s : State) (x : Session) : State :=
  if x.recs.length < x.ncon then s
  else
    let s := { s with ms := { s.ms with sessions := s.ms.sessions.filter (fun y => y != x) } }
    if x.err ∨ x.recs.any (fun f => f.err) then sessionDone s x.recs 0x100000000
    else
      let s := applySession s x.recs
      sessionDone s x.recs (if x.recs.any (fun f => f.evicted) then 0x10000 else 1)

/-- A record joins its session at a home, or opens one. -/
def stageRecord (s : State) (f : FlushRec) : State :=
  match s.ms.sessions.find? (fun x => x.die == f.die && x.sid == f.sid) with
  | some x =>
    let x' := { x with recs := x.recs ++ [f], err := x.err || f.ncon != x.ncon || decide (staged s f.die + f.ents.length > stagingCap) }
    trySession { s with ms := { s.ms with sessions := s.ms.sessions.map (fun y => if y = x then x' else y) } } x'
  | none =>
    let full := decide ((s.ms.sessions.filter (fun x => x.die == f.die)).length ≥ 16) ||
      decide (staged s f.die + f.ents.length > stagingCap)
    if full then sessionDone s [f] 0x100000000
    else
      let x : Session := ⟨f.die, f.sid, f.ncon, [f], false⟩
      trySession { s with ms := { s.ms with sessions := s.ms.sessions ++ [x] } } x

/-- A record reaches its home: its entries take their homes, and it is staged. -/
def recordArrives (s : State) (f : FlushRec) : State :=
  let (s, l, bad) := homeEntries s f f.ents
  let f := { f with ents := l }
  let (s, f) := if bad then markLost s f else (s, f)
  let mine (m : LostMark) : Bool := f.first && m.of f && m.die == f.die
  let f := { f with err := f.err || s.ms.marks.any mine }
  stageRecord { s with ms := { s.ms with marks := s.ms.marks.filter (fun m => !mine m) } } f

/-- A flush record of another part (R177). -/
def FlushRec.ofRemote (id : Nat) (r : RemoteFlush) : FlushRec :=
  { id := id, die := r.die, part := r.part, core := r.core, warp := r.warp, rid := r.rid, sid := r.sid, ncon := r.ncon
    evicted := r.evicted, err := r.err, first := r.first, home1 := r.home1, listed := r.listed, dest := 0, port := 0xFF
    ents := r.ents.map (fun e => ⟨0, 0xFFFFFFFF, true, e.1 / 64, e.2.1, e.2.2⟩), doneAddr := r.doneAddr }

/-- FLUSH_RECORD_ARRIVAL: record `ev.idx` of this part, one of another part, or, with `ev.write`, an add of `ev.val` to
a DONE counter that another part's session asks for. What comes from another part comes by a port that is up (R409), where a checkpoint
holds it (R446). -/
def execFlushRecordArrival (s : State) : Host.Outcome State Fault Refusal :=
  match s.ev.flu with
  | some r =>
    if inCheckpoint s || !portUp s r.port then .refused .notEnabled
    else if r.mark then .next (markAt s ⟨r.die, r.sid, r.part, r.core, r.rid⟩)
    else if s.ev.write then .next (addDone s 0xFFFFFFFF r.doneAddr s.ev.val)
    else .next (recordArrives { s with nextId := s.nextId + 1 } (.ofRemote s.nextId r))
  | none =>
    match s.ms.flushes.find? (fun f => f.id == s.ev.idx && f.dest == s.hd.control.self.toNat) with
    | none => .refused .notEnabled
    | some f =>
      let s := { s with ms := { s.ms with flushes := s.ms.flushes.filter (fun x => x.id != f.id) } }
      let s := if s.ms.flushes.any (fun x => x.rid == f.rid && x.core == f.core) then s else arriveResult s f.core f.rid
      .next (recordArrives s f)

/-! ## STCMT increments (R252) -/

/-- The increments whose earlier accesses have performed start on their route. -/
def tickIncrs (s : State) : State :=
  let go (x : Incr) : Incr :=
    match x.dep with
    | some d => if (getReq s d).isNone then { x with dep := none, due := s.gcc + routeLat x.src x.core } else x
    | none => x
  { s with sched := { s.sched with incrs := s.sched.incrs.map go } }

/-- The increment that lands next. -/
def nextIncr (s : State) : Option Incr := s.sched.incrs.find? (fun x => x.dep.isNone && decide (x.due ≤ s.gcc))

/-- STCMT_INCREMENT: through the destination core's external port; without a group of the grid there it is dropped and a
record is posted. -/
def execStcmtIncrement (s : State) : Host.Outcome State Fault Refusal :=
  match nextIncr s with
  | none => .refused .notEnabled
  | some x =>
    let s := { s with sched := { s.sched with incrs := s.sched.incrs.erase x } }
    match groupBaseOn s x.grid x.core with
    | none => .next (postPlain s { plainRecord s .segmentLimit 0 0 1 x.handle 0 with core := x.src })
    | some (base, _, _) =>
      .next (s.updCore x.core (fun k =>
        { semAdd k (base + x.word) (BitVec.ofNat 32 x.n) with semRel := k.semRel ++ [(base + x.word, none, x.sc, x.n)] }))

end Sys2Proof.Machine
end

