-- ==== Sys2Proof/Machine/Context.lean ====
section
/-!
DEFINITION. The context image (R384 to R387): the layout of a swap area, the bytes of trap records, warp blocks, register
records and group blocks, and the checks and the restoring of a warp block (R72, R73, R128, R380).
-/
namespace Sys2Proof.Machine

/-! ## Bytes -/

/-- The first `n` bytes of a list, filled with zeros. -/
def padTo (n : Nat) (l : List Byte) : List Byte := (l ++ List.replicate (n - l.length) 0).take n

/-- A trap record (R377). -/
def Record.bytes (r : Record) : List Byte :=
  bytesOf 1 r.code.code ++ bytesOf 1 r.sub ++ bytesOf 1 r.slot ++ bytesOf 1 r.act ++ bytesOf 4 r.handle.toNat ++
    bytesOf 1 r.warp ++ bytesOf 1 r.lvl ++ bytesOf 1 r.src ++ bytesOf 1 r.ak ++ bytesOf 4 r.core ++
    bytesOf 8 r.pc.toNat ++ bytesOf 8 r.faddr.toNat ++ bytesOf 16 r.lanes.toNat ++ bytesOf 8 r.gcc ++ bytesOf 8 r.img.toNat

/-- A register record of 528 bytes (R384). -/
def VReg.bytes (v : VReg) : List Byte := (v.lanes.map (fun w => bytesOf 4 w.toNat)).flatten ++ bytesOf 16 v.poison.toNat

def VReg.ofBytes (b : List Byte) : VReg :=
  VReg.build (fun l => BitVec.ofNat 32 (field b (4 * l) 4)) (BitVec.ofNat 128 (field b 512 16))

/-! ## The layout of a swap area (R384) -/

/-- The largest pool of a bank in the role table. -/
def Group.poolMax (g : Group) (k : Nat) : Nat := (g.roles.map (fun r => r.pools.getD k 0)).foldl max 0

def Group.bankAt (g : Group) : Nat → Nat
  | 0 => 0x1000 + (g.warps + 4) * 0x20000
  | k + 1 => align4k (g.bankAt k + 528 * g.poolMax k)

def Group.scratchAt (g : Group) : Nat := g.bankAt 8

def Group.inboxAt (g : Group) : Nat := align4k (g.scratchAt + regionBytes g.allot g.warps)

def Group.redAt (g : Group) : Nat := align4k (g.inboxAt + 16896)

def Group.leaseAt (g : Group) : Nat := align4k (g.redAt + 81920)

/-- The size of a group's swap area. -/
def Group.areaBytes (g : Group) : Nat :=
  let n := if g.lease then g.leaseAt + 4931584 else g.redAt + 81920
  (n + 65535) / 65536 * 65536

/-- The place of a warp among the warp blocks: the group's warps, then its arrival-handler warps. -/
def blockIndex (g : Group) (wnum : Nat) : Nat := if wnum < 16 then wnum else g.warps + (wnum - 16)

/-- The address of a warp block. -/
def blockAddr (g : Group) (wnum : Nat) : Nat := g.swap.toNat + 0x1000 + blockIndex g wnum * 0x20000

/-- The opaque spans of an area in their order: the arrival areas, then the inbox, the reduction entries and the
lease. -/
def Group.opaqueSpans (g : Group) : List (Nat × Nat) :=
  (List.range (g.warps + 4)).map (fun i => (g.swap.toNat + 0x1000 + i * 0x20000 + 0xB000, 0x11000)) ++
    [(g.swap.toNat + g.inboxAt, 16896), (g.swap.toNat + g.redAt, 81920)] ++
    (if g.lease then [(g.swap.toNat + g.leaseAt, 4931584)] else [])

/-- Bytes of a swap area; what cannot be read counts as zeros. -/
def areaRead (s : State) (va n : Nat) : List Byte :=
  match readVa s .s va n with
  | .ok b => b
  | .error _ => List.replicate n 0

/-- The CRC over the opaque areas as they stand in memory. -/
def areaCrc (s : State) (g : Group) : Word :=
  crc32 ((g.opaqueSpans.map (fun x => areaRead s x.1 x.2)).flatten)

/-! ## A warp block (R386, R387) -/

/-- The record index of a binding. -/
def recIndex (toks : List (Nat × Nat × Nat)) (n tok : Nat) : Option Nat :=
  (toks.find? (fun x => x.1 == tok && x.2.1 == n)).map (·.2.2)

def valueBytes (v : VReg) : List Byte := (v.lanes.map (fun w => bytesOf 4 w.toNat)).flatten

/-- The fields of one pending-write entry. -/
def entryBytes (kind slot rem target latch kc rec_ : Nat) (mask : Mask) (v : VReg) : List Byte :=
  bytesOf 1 kind ++ bytesOf 1 slot ++ bytesOf 2 rem ++ bytesOf 2 target ++ bytesOf 1 latch ++ bytesOf 1 kc ++ bytesOf 2 rec_ ++
    List.replicate 6 0 ++ bytesOf 16 mask.toNat ++ valueBytes v ++ bytesOf 16 v.poison.toNat ++ List.replicate 16 0

/-- The number of an operand-cache copy with its KC bit. -/
def kcCode (kc : Option (BitVec 3)) : Nat := match kc with | some i => 8 + i.toNat | none => 0

/-- One lane of a scalar value. -/
def scalarVal (w : Word) : VReg := ⟨w :: List.replicate 127 0, 0⟩

/-- A pending write as an entry of the queue (R387). -/
def pendingBytes (w : Warp) (toks : List (Nat × Nat × Nat)) (p : Pending) : List Byte :=
  match p.wr with
  | .vec d m v l kc =>
    let r := match d with | some (n, tok) => recIndex toks n.toNat tok | none => none
    let copies := l.isSome || kc.isSome
    let kind := if p.skip then 0 else if isLate p then 6 else if r.isSome then 1 else if copies then 5 else 0
    entryBytes kind p.slot p.rem ((d.map (fun x => x.1.toNat)).getD 0) (l.getD 0xFF) (kcCode kc) (r.getD 0x1FF) m v
  | .sreg n x => entryBytes (if p.skip then 0 else 2) p.slot p.rem n.toNat 0xFF 0 0 0 (scalarVal x)
  | .flag n b => entryBytes (if p.skip then 0 else 3) p.slot p.rem n.toNat 0xFF 0 0 0 (scalarVal (if b then 1 else 0))
  | .pred n m x =>
    entryBytes (if p.skip then 0 else 4) p.slot p.rem n.toNat 0xFF 0 0 m (VReg.build (fun l => if x.getLsbD l then 1 else 0) 0)
  | .stride n x => entryBytes (if p.skip then 0 else 2) p.slot p.rem n.toNat 0xFF 0 0 0 (scalarVal (sGet w n + x))

/-- A loop level, active or holding registrations for a level to come (R120, R124). -/
def loopBytes (w : Warp) (i : Nat) : List Byte :=
  let act := w.loops[i]?
  let r0 := match act with | some l => l.r0 | none => tget? w.strides (2 * i)
  let r1 := match act with | some l => l.r1 | none => tget? w.strides (2 * i + 1)
  let bit (b : Bool) (n : Nat) : Nat := if b then n else 0
  let fl := bit act.isSome 1 + bit ((act.map (·.first)).getD false) 2 + bit r0.isSome 4 + bit r1.isSome 8
  bytesOf 8 ((act.map (fun l => l.start.toNat)).getD 0) ++ bytesOf 8 ((act.map (fun l => l.stop.toNat)).getD 0) ++
    bytesOf 4 ((act.map (fun l => l.lc.toNat)).getD 0) ++ bytesOf 1 fl ++
    bytesOf 1 ((r0.map (fun x => x.1.toNat)).getD 0) ++ bytesOf 1 ((r1.map (fun x => x.1.toNat)).getD 0) ++ [0] ++
    bytesOf 4 ((r0.map (fun x => x.2.toNat)).getD 0) ++ bytesOf 4 ((r1.map (fun x => x.2.toNat)).getD 0)

/-- The target of a pending transfer. -/
def Transfer.target : Transfer → DWord
  | .none => 0
  | .goto pc | .jump pc => pc
  | .take pc _ => pc
  | .split pc _ _ _ _ => pc

/-- The entries of a warp in the order of R271, waiting ones as if eligible. -/
def orderedEntries (s : State) (w : Warp) : List Entry := sortEntries (ageMode s w) w.entries

/-- The flags word of a block (0x50). -/
def blockFlags (w : Warp) (pwq : Nat) : Nat :=
  w.dl + (if transferPending w then 4 else 0) + (if w.broken then 8 else 0) + 16 * w.entries.length +
    512 * w.spilled.length + 65536 * pwq

/-- The bytes of a warp block below its arrival area. -/
def blockHead (s : State) (w : Warp) (rec_ : List Byte) (b : DWord) (pw : List Pending) (toks : List (Nat × Nat × Nat)) : List Byte :=
  let words (n : Nat) (f : Nat → Nat) (k : Nat) : List Byte := ((List.range n).map (fun i => bytesOf k (f i))).flatten
  let map_ (n : Nat) : Nat := match tget? w.map n with
    | some x => 2 ^ 15 + ((recIndex toks n x.tok).getD 0)
    | none => 0
  padTo 64 rec_ ++ bytesOf 8 b.toNat ++ bytesOf 8 w.xfer.target.toNat ++ bytesOf 4 (blockFlags w pw.length) ++
    bytesOf 4 w.fmode.toNat ++ bytesOf 4 w.fexc.toNat ++ bytesOf 4 w.stretch.toNat ++ bytesOf 4 w.lseq.toNat ++
    bytesOf 4 (w.kv.toNat * 4096 + w.lv.toNat) ++ bytesOf 1 w.f.toNat ++ bytesOf 1 w.mfmt.toNat ++ [0, 0] ++
    words 8 (fun c => (w.results.filter (fun x => x.ctr.toNat == c)).length % 64) 1 ++ List.replicate 12 0 ++
    words 128 (fun n => (sGet w (BitVec.ofNat 7 n)).toNat) 4 ++
    words 7 (fun n => (pGet w (BitVec.ofNat 3 (n + 1))).toNat) 16 ++
    ((List.range 6).map (fun g => bytesOf 8 (tget 0 w.segBase g).toNat ++ bytesOf 8 (tget 0 w.segLimit g).toNat)).flatten ++
    ((List.range 6).map (loopBytes w)).flatten ++ words 8 (fun n => (tget 0 w.q n).toNat) 8 ++
    bytesOf 8 ((w.watch.getD 0) * 128) ++ bytesOf 1 ((if w.watch.isSome then 1 else 0) + (if w.watchHit then 2 else 0)) ++
    List.replicate 7 0 ++ padTo 512 ((orderedEntries s w).map Entry.bytes).flatten ++ List.replicate 416 0 ++
    words 128 (fun l => (noiseGet w l).toNat) 8 ++ words 512 map_ 2 ++
    ((List.range 12).map (fun i => (tget VReg.zero w.latches i).bytes)).flatten ++
    ((List.range 8).map (fun i => (tget VReg.zero w.caches i).bytes)).flatten ++ List.replicate 1728 0 ++
    padTo 27648 (pw.map (pendingBytes w toks)).flatten ++ List.replicate 1024 0

/-! ## Saving -/

/-- Insert by physical register. -/
def insertPhys (x : Nat × Bind) : List (Nat × Bind) → List (Nat × Bind)
  | [] => [x]
  | y :: r => if x.2.phys.toNat < y.2.phys.toNat then x :: y :: r else y :: insertPhys x r

/-- The bound names of a warp in one bank, in ascending physical order. -/
def boundNames (w : Warp) (bank : Nat) : List (Nat × Bind) :=
  (w.map.filter (fun x => x.1 % 8 == bank)).foldl (fun r x => insertPhys x r) []

/-- The warps whose registers are saved with those of a warp: at a swap-out every warp that has stopped. -/
def savedWith (s : State) (g : Group) (wi : Nat) : List Nat :=
  if (s.warp g.core wi).status = .stopped then g.allSlots.filter (fun x => (s.warp g.core x).status == .stopped) else [wi]

/-- The record indexes that warps of a group other than those of a list hold in a bank. -/
def takenRecs (s : State) (g : Group) (ws : List Nat) (bank : Nat) : List Nat :=
  ((g.allSlots.filter (fun x => !ws.contains x)).map (fun x =>
    ((s.warp g.core x).toks.filter (fun t => t.2.1 % 8 == bank)).map (·.2.2))).flatten

/-- Give the bindings of a bank the lowest record indexes that are free. -/
def giveRecs (taken : List Nat) : Nat → Nat → List (Nat × Bind) → List (Nat × Nat × Nat)
  | _, _, [] => []
  | 0, _, _ => []
  | fuel + 1, i, x :: r =>
    if taken.contains i then giveRecs taken fuel (i + 1) (x :: r)
    else (x.2.tok, x.1, i) :: giveRecs taken fuel (i + 1) r

/-- The bindings of several warps in one bank, in ascending physical order (R384). -/
def boundAll (s : State) (g : Group) (ws : List Nat) (bank : Nat) : List (Nat × Bind) :=
  (ws.flatMap (fun x => boundNames (s.warp g.core x) bank)).foldl (fun r x => insertPhys x r) []

/-- The record of each binding of a warp: the registers that are saved together are numbered in ascending physical order
(R384). -/
def recsOf (s : State) (g : Group) (wi : Nat) : List (Nat × Nat × Nat) :=
  let ws := savedWith s g wi
  let mine := (s.warp g.core wi).map.map (fun x => x.2.tok)
  ((List.range 8).map (fun k => giveRecs (takenRecs s g ws k) 1024 0 (boundAll s g ws k))).flatten.filter
    (fun t => mine.contains t.1)

/-- Write a list of spans, or the address of the first failure. -/
def writeSpans : List (Nat × List Byte) → State → Except Nat State
  | [], s => .ok s
  | (va, b) :: r, s =>
    match saveVa s .s va b with
    | .ok s => writeSpans r s
    | .error (_, a) => .error a

/-- The register records of a warp. -/
def regSpans (s : State) (g : Group) (w : Warp) (toks : List (Nat × Nat × Nat)) : List (Nat × List Byte) :=
  toks.map (fun t =>
    (g.swap.toNat + g.bankAt (t.2.1 % 8) + 528 * t.2.2, (vGet (s.core g.core) w (BitVec.ofNat 9 t.2.1)).bytes))

/-- Bytes of an opaque area, whose layout is the part's own. -/
def opaqueBytes (s : State) (n : Nat) : List Byte × State :=
  ((List.range n).map (fun i => Config.freeByte (s.drawn + i)), { s with drawn := s.drawn + n })

/-- Write the block and the register records of one warp of a group, with the bytes of its record. -/
def saveBlock (s : State) (g : Group) (wi : Nat) (rec_ : List Byte) (b : DWord) : Except Nat State :=
  let w := s.warp g.core wi
  let toks := recsOf s g wi
  let pw := storedOrder ((s.core g.core).pwOf wi)
  let at_ := blockAddr g w.wnum
  let (free, s) := opaqueBytes s 0x11000
  match writeSpans ([(at_, blockHead s w rec_ b pw toks), (at_ + 0xB000, free), (at_ + 0x1C000, List.replicate 0x4000 0)] ++
      regSpans s g w toks) s with
  | .error a => .error a
  | .ok s =>
    let late := (pw.zipIdx.filter (fun x => isLate x.1)).map (fun x => { x.1 with entry := some x.2 })
    .ok (s.updCore g.core (fun k =>
      { k.updWarp wi (fun w => { w with img := BitVec.ofNat 64 at_, toks := toks }) with
        pw := k.pw.filter (fun p => p.warp != wi) ++ late }))

/-- A barrier as a word of the group block (R385). -/
def barWord (b : Bar) : Nat := (match b.expect with | some e => e.toNat % 65536 | none => 0) + 65536 * (b.arrived.length % 128)

/-- The starts of a group in its core's handler queue. -/
def startsOf (s : State) (g : Group) (h : Nat) : List HStart := (s.core g.core).hqueue.filter (fun x => x.handle.toNat == h)

/-- The bytes of a group block (R385). -/
def groupBlock (s : State) (h : Nat) (g : Group) (out : Bool) (crc : Word) (r : List Byte) : List Byte :=
  let quad (n : Nat) : Bar := tget .reset s.sched.qbars (quadKey s h n)
  let cause := match g.cause with | some c => c.code | none => 0
  let fl := (if out then 1 else 0) + (if g.lease then 2 else 0) + (if g.reloc then 4 else 0)
  bytesOf 4 1 ++ bytesOf 4 h ++ bytesOf 1 g.warps ++ bytesOf 1 cause ++ bytesOf 1 g.role ++ bytesOf 1 fl ++
    bytesOf 4 g.core ++ bytesOf 8 g.budget.toNat ++ bytesOf 4 g.region ++ bytesOf 4 crc.toNat ++
    ((List.range 16).map (fun n => bytesOf 4 (barWord (tget .reset g.bars n)))).flatten ++
    ((List.range 4).map (fun n => bytesOf 4 (barWord (quad n)))).flatten ++ List.replicate 16 0 ++
    ((List.range 16).map (fun n =>
      let z := tget ZDesc.reset g.z n
      bytesOf 4 z.base ++ bytesOf 4 z.cap ++ bytesOf 4 z.count ++ bytesOf 4 z.drop)).flatten ++
    padTo 512 ((startsOf s g h).map (fun x => padTo 32 (x.s.map (fun w => bytesOf 4 w.toNat)).flatten)).flatten ++
    padTo 64 r ++ List.replicate 3136 0

/-! ## Restoring (R380) -/

def zeroAt (b : List Byte) (o n : Nat) : Bool := ((b.drop o).take n).all (· == 0)

/-- The reserved fields of a group block are zero. -/
def groupClean (b : List Byte) : Bool :=
  field b 11 1 / 8 == 0 && zeroAt b 112 16 && zeroAt b 960 3136 &&
    (List.range 20).all (fun i => field b (32 + 4 * i) 4 / 2 ^ 23 == 0)

/-- The reserved fields of a frontier record are zero. -/
def entryClean (b : List Byte) : Bool := field b 10 1 / 8 == 0 && field b 11 1 == 0 && field b 14 2 == 0

/-- The reserved fields of a pending-write entry are zero. -/
def pendClean (b : List Byte) : Bool := zeroAt b 10 6 && zeroAt b 560 16 && field b 7 1 / 16 == 0

/-- The reserved fields of a warp block are zero. -/
def blockClean (b : List Byte) : Bool :=
  field b 9 1 / 8 == 0 && field b 0x50 4 / 2 ^ 22 == 0 && field b 0x64 4 / 2 ^ 20 == 0 && field b 0x6A 2 == 0 &&
    (List.range 8).all (fun i => field b (0x6C + i) 1 / 64 == 0) && zeroAt b 0x74 12 &&
    (List.range 6).all (fun i => field b (0x350 + 32 * i + 20) 1 / 16 == 0 && field b (0x350 + 32 * i + 23) 1 == 0) &&
    field b 0x458 1 / 4 == 0 && zeroAt b 0x459 7 &&
    (List.range (field b 0x50 4 / 16 % 32)).all (fun i => entryClean ((b.drop (0x460 + 32 * i)).take 32)) &&
    zeroAt b 0x660 416 && (List.range 512).all (fun n => field b (0xC00 + 2 * n) 2 / 512 % 64 == 0) &&
    zeroAt b 0x3940 1728 &&
    (List.range (field b 0x50 4 / 65536 % 64)).all (fun i => pendClean ((b.drop (0x4000 + 576 * i)).take 576)) &&
    zeroAt b 0xAC00 1024 && zeroAt b 0x1C000 0x4000

/-- The bindings of an image: name and record index. -/
def imageMap (b : List Byte) : List (Nat × Nat) :=
  (List.range 512).filterMap (fun n =>
    let x := field b (0xC00 + 2 * n) 2
    if x / 2 ^ 15 = 1 then some (n, x % 512) else none)

/-- The checks of a block against its group: clean fields, record indexes, pools, PWQ and entries. `others` counts what
the group's other warps hold in each bank. -/
def blockOk (pools : Nat → Nat) (recs : Nat → Nat) (others : Nat → Nat) (b : List Byte) : Bool :=
  let m := imageMap b
  blockClean b && m.all (fun x => decide (x.2 < recs (x.1 % 8))) &&
    (List.range 8).all (fun k => decide ((m.filter (fun x => x.1 % 8 == k)).length + others k ≤ pools k)) &&
    decide (field b 0x50 4 / 65536 % 64 ≤ 48) && decide (field b 0x50 4 / 16 % 32 ≤ 16)

/-- The checks of the group block and of the opaque areas. -/
def groupOk (s : State) (g : Group) (b : List Byte) : Bool :=
  field b 0 4 == 1 && groupClean b && field b 28 4 == (areaCrc s g).toNat

/-- The value that a pending entry holds. -/
def entryVal (b : List Byte) : VReg := VReg.build (fun l => BitVec.ofNat 32 (field b (32 + 4 * l) 4)) (BitVec.ofNat 128 (field b 544 16))

/-- The binding of a name with a record index, after the restore. -/
def newBind (w : Warp) (m : List (Nat × Nat)) (n idx : Nat) : Option (BitVec 9 × Nat) :=
  if m.contains (n, idx) then (tget? w.map n).map (fun x => (BitVec.ofNat 9 n, x.tok)) else none

/-- Whether a late reply is still to come for an entry: one of the same target and latch. -/
def sameTarget (n : Nat) (l : Option Nat) (p : Pending) : Bool :=
  match p.wr with
  | .vec d _ _ l' _ => l' == l && decide ((d.map (fun x => x.1.toNat)).getD 0 = n)
  | _ => false

/-- A pending write from its entry; `late` are the ones whose value has not come. -/
def pendingOf (wi : Nat) (w : Warp) (m : List (Nat × Nat)) (late : List Pending) (b : List Byte) : Pending :=
  let n := field b 4 2
  let l := if field b 6 1 < 12 then some (field b 6 1) else none
  let kc : Option (BitVec 3) := if field b 7 1 / 8 = 1 then some (BitVec.ofNat 3 (field b 7 1)) else none
  let mask : Mask := BitVec.ofNat 128 (field b 16 16)
  let v := entryVal b
  let x : Word := v.lane 0
  let d := newBind w m n (field b 8 2)
  let base : Pending := ⟨wi, field b 1 1, field b 2 2, true, none, 0, false, false, .flag 0 true, none⟩
  match field b 0 1 with
  | 1 => { base with wr := .vec d mask v l kc }
  | 2 => { base with wr := .sreg (BitVec.ofNat 7 n) x }
  | 3 => { base with wr := .flag (BitVec.ofNat 3 n) (x.getLsbD 0) }
  | 4 => { base with wr := .pred (BitVec.ofNat 3 n) mask (maskOf (fun i => (v.lane i).getLsbD 0)) }
  | 5 => { base with wr := .vec none mask v l kc }
  | 6 =>
    (match late.find? (sameTarget n l) with
      | some p => (match p.wr with
        | .vec _ _ v' _ _ => { base with id := p.id, left := p.left, wr := .vec d mask v' l kc }
        | _ => { base with skip := true })
      | none => { base with wr := .vec d mask v l kc })
  | _ => { base with skip := true }

/-- The loop levels of an image. -/
def imageLoops (b : List Byte) : List LoopLevel :=
  (List.range 6).filterMap (fun i =>
    let x := (b.drop (0x350 + 32 * i)).take 32
    let fl := field x 20 1
    if fl % 2 = 1 then
      some { start := BitVec.ofNat 64 (field x 0 8), stop := BitVec.ofNat 64 (field x 8 8), lc := BitVec.ofNat 32 (field x 16 4)
             first := fl / 2 % 2 == 1
             r0 := if fl / 4 % 2 = 1 then some (BitVec.ofNat 7 (field x 21 1), BitVec.ofNat 32 (field x 24 4)) else none
             r1 := if fl / 8 % 2 = 1 then some (BitVec.ofNat 7 (field x 22 1), BitVec.ofNat 32 (field x 28 4)) else none }
    else none)

/-- The registrations of an image for levels that are not active. -/
def imageStrides (b : List Byte) : Table (BitVec 7 × Word) :=
  (List.range 6).foldl (fun t i =>
    let x := (b.drop (0x350 + 32 * i)).take 32
    let fl := field x 20 1
    let t := if fl % 2 = 0 ∧ fl / 4 % 2 = 1 then tset t (2 * i) (BitVec.ofNat 7 (field x 21 1), BitVec.ofNat 32 (field x 24 4)) else t
    if fl % 2 = 0 ∧ fl / 8 % 2 = 1 then tset t (2 * i + 1) (BitVec.ofNat 7 (field x 22 1), BitVec.ofNat 32 (field x 28 4)) else t) []

/-- The transfer that an image leaves pending (R128): that of the capture with the target of the image. -/
def imageTransfer (old : Transfer) (dt : Bool) (t : DWord) : Transfer :=
  match dt, old with
  | true, .none | true, .goto _ => .goto t
  | true, .jump _ => .jump t
  | true, .take _ p => .take t p
  | true, .split _ a b x y => .split t a b x y
  | false, _ => .none

/-- A table of numbers from an image. -/
def imageTable {α : Type} (n : Nat) (f : Nat → α) : Table α := (List.range n).map (fun i => (i, f i))

/-- A restored entry keeps the bundle at which it waits; one whose wait has ended since its image was written waits no more
(R375). -/
def withBack (l : List Entry) (e : Entry) : Entry :=
  match l.find? (fun x => x.mask == e.mask) with
  | some x => { e with back := x.back, wait := if x.wait = .none then .none else e.wait }
  | none => e

/-- What an image says of a warp, over what the part itself keeps of it. -/
def imageWarp (b : List Byte) (w : Warp) : Warp :=
  let fl := field b 0x50 4
  let wt := field b 0x458 1
  let line := field b 0x450 8 / 128
  { w with
    status := .run, ready := none, susp := .none, also := [], sw := none, after := none, held := false, delayed := 0, delay := none
    replay := true, drain := false, region := none, broken := false, frozen := 0, lates := [], futiles := []
    entries := (List.range (fl / 16 % 32)).map (fun i => withBack w.entries (.ofBytes ((b.drop (0x460 + 32 * i)).take 32)))
    spilled := w.spilled.take (fl / 512 % 128)
    dl := fl % 4
    falls := if fl % 4 = 0 then [] else w.falls
    xfer := if fl % 4 = 0 then .none else imageTransfer w.xfer (fl / 4 % 2 == 1) (BitVec.ofNat 64 (field b 0x48 8))
    fmode := BitVec.ofNat 32 (field b 0x54 4) &&& 0xF7, fexc := BitVec.ofNat 32 (field b 0x58 4) &&& 0x1F
    stretch := BitVec.ofNat 32 (field b 0x5C 4), lseq := BitVec.ofNat 32 (field b 0x60 4)
    lv := BitVec.ofNat 12 (field b 0x64 4), kv := BitVec.ofNat 8 (field b 0x64 4 / 4096)
    f := BitVec.ofNat 8 (field b 0x68 1) ||| 1#8, mfmt := BitVec.ofNat 8 (field b 0x69 1)
    s := imageTable 128 (fun n => BitVec.ofNat 32 (field b (0x80 + 4 * n) 4))
    p := (imageTable 7 (fun n => BitVec.ofNat 128 (field b (0x280 + 16 * n) 16))).map (fun (x : Nat × Mask) => (x.1 + 1, x.2))
    segBase := imageTable 6 (fun g => BitVec.ofNat 64 (field b (0x2F0 + 16 * g) 8))
    segLimit := imageTable 6 (fun g => BitVec.ofNat 64 (field b (0x2F8 + 16 * g) 8))
    loops := imageLoops b, strides := imageStrides b
    q := imageTable 8 (fun n => BitVec.ofNat 64 (field b (0x410 + 8 * n) 8))
    watch := if wt % 2 = 1 then some line else none
    watchHit := wt / 2 % 2 == 1 || (w.watchHit && wt % 2 == 1 && w.watch == some line)
    noise := imageTable 128 (fun l => BitVec.ofNat 64 (field b (0x800 + 8 * l) 8)), seeded := none
    latches := imageTable 12 (fun i => VReg.ofBytes (b.drop (0x1000 + 528 * i)))
    caches := imageTable 8 (fun i => VReg.ofBytes (b.drop (0x1000 + 528 * (12 + i))))
    map := [] }

/-- Bind the names of an image to free physical registers with the values of their records. -/
def bindImage (c wi : Nat) (read : Nat → Nat → List Byte) : List (Nat × Nat) → State → State
  | [], s => s
  | (n, idx) :: r, s =>
    match firstFree (usedPhys (s.core c) (n % 8)) (List.range Config.bankRegs) with
    | none => bindImage c wi read r s
    | some ph =>
      let x : Bind := ⟨BitVec.ofNat 9 ph, s.nextId⟩
      let v := VReg.ofBytes (read (n % 8) idx)
      bindImage c wi read r (({ s with nextId := s.nextId + 1 }).updCore c (fun k =>
        { k.updWarp wi (fun w => { w with map := tset w.map n x }) with
          regs := tset k.regs (regIndex (BitVec.ofNat 9 n) x) v }))

/-- A write of a result that is to land later: it follows its binding through the image. -/
def moveWrite (w : Warp) (toks : List (Nat × Nat × Nat)) (m : List (Nat × Nat)) : Write → Write
  | .vec (some (n, tok)) mask v l kc =>
    (match recIndex toks n.toNat tok with
      | some idx => .vec (newBind w m n.toNat idx) mask v l kc
      | none => .vec none mask v l kc)
  | x => x

/-- Restore a warp of a core from its block (R72, R73, R128): registers, pending writes, frontier and the resume
address. -/
def restoreBlock (s : State) (g : Group) (c wi : Nat) (b : List Byte) : State :=
  let w0 := s.warp c wi
  let late := ((s.core c).pwOf wi).filter isLate
  let s := s.updWarp c wi (fun w => imageWarp b w)
  let m := imageMap b
  let s := bindImage c wi (fun k idx => areaRead s (g.swap.toNat + g.bankAt k + 528 * idx) 528) m s
  let w := s.warp c wi
  let pw := (List.range (field b 0x50 4 / 65536 % 64)).map (fun i => pendingOf wi w m late ((b.drop (0x4000 + 576 * i)).take 576))
  let s := s.updCore c (fun k =>
    { k.updWarp wi (fun w => { w with toks := [], results := w.results.map (fun r => { r with todo := r.todo.map (moveWrite w w0.toks m) }) })
      with pw := pw ++ k.pw.filter (fun p => p.warp != wi) })
  s.updWarp c wi (fun w => resumeEntry w (BitVec.ofNat 64 (field b 0x40 8)))

/-- The bindings that the other warps of a group hold in a bank. -/
def othersHeld (s : State) (g : Group) (wi bank : Nat) : Nat :=
  ((g.allSlots.filter (fun x => x != wi)).map (fun x => (boundIn (s.warp g.core x) bank).length)).foldl (· + ·) 0

end Sys2Proof.Machine
end

