-- ==== Sys2Proof/Machine/Renumber.lean ====
section
/-!
DEFINITION. The number of a warp in its core's table, changed wherever the state names it. A warp that leaves its resident
slot with work under way keeps that work under a number from 32 on, which is no slot (R370, R371, R383).
-/
namespace Sys2Proof.Machine

/-- The routine of an engine and its queue name a warp. -/
def Engine.renumber (f : Nat → Nat) (e : Engine) : Engine :=
  { e with
    fills := e.fills.map (fun x => { x with warp := f x.warp })
    queue := e.queue.map (fun x => match x with
      | .mcall m => .mcall { m with warp := f m.warp }
      | .mpsw i w v t d => .mpsw i (f w) v t d)
    run := e.run.map (fun r => { r with warp := f r.warp })
    fltWarp := f e.fltWarp }

/-- The warps of a barrier. -/
def Bar.renumber (f : Nat × Nat → Nat × Nat) (b : Bar) : Bar :=
  { b with
    arrived := b.arrived.map f
    waits := b.waits.map (fun x => let y := f (x.1, x.2.1); (y.1, y.2, x.2.2)) }

/-- The owner of a ring record. -/
def Owner.renumber (f : Nat × Nat → Nat × Nat) : Owner → Owner
  | .warp c w => .warp (f (c, w)).1 (f (c, w)).2
  | o => o

/-- A core's own lists of what its warps have under way. -/
def Core.renumber (f : Nat → Nat) (k : Core) : Core :=
  { k with
    pw := k.pw.map (fun x => { x with warp := f x.warp })
    red := k.red.map (fun x => { x with warp := f x.warp })
    copyq := k.copyq.map (fun (x : Nat × List CopyRec) => (x.1, x.2.map (fun r => { r with warp := f r.warp })))
    launchq := k.launchq.map (fun x => { x with warp := f x.warp })
    semWait := k.semWait.map (fun (x : Nat × Nat) => (f x.1, x.2))
    ecmds := k.ecmds.map (fun x => { x with warp := f x.warp })
    eng := k.eng.renumber f
    current := k.current.map f }

/-- A group's lists of its warps. -/
def Group.renumber (c : Nat) (f : Nat → Nat) (g : Group) : Group :=
  let two (x : Nat × Nat) : Nat × Nat := if x.1 = c then (c, f x.2) else x
  let g := { g with bars := g.bars.map (fun (x : Nat × Bar) => (x.1, x.2.renumber two)) }
  if g.core = c then
    { g with
      slots := g.slots.map f
      handlers := g.handlers.map (fun (x : Nat × Nat) => (x.1, f x.2))
      kept := { g.kept with red := g.kept.red.map (fun x => { x with warp := f x.warp }), eng := g.kept.eng.map (Engine.renumber f) } }
  else g

/-- Number `w` of core `c` becomes `w'` everywhere; its place is empty after that. -/
def renumber (s : State) (c w w' : Nat) : State :=
  let f (n : Nat) : Nat := if n = w then w' else n
  let two (x : Nat × Nat) : Nat × Nat := if x.1 = c then (c, f x.2) else x
  let s := s.updCore c (fun k => { k.renumber f with warps := tset (tdel k.warps w) w' (k.warp w) })
  let s := { s with cores := s.cores.map (fun (x : Nat × Core) => (x.1, { x.2 with
    accs := x.2.accs.map (fun (a : Access) => if a.src = c then { a with warp := f a.warp } else a)
    winq := x.2.winq.map (fun (q : WinReq) => if q.src = c then { q with warp := f q.warp } else q) })) }
  { s with
    ms := { s.ms with
      reqs := s.ms.reqs.map (fun (r : Req) => if r.core = c then { r with warp := f r.warp } else r)
      walks := s.ms.walks.map (fun (r : Walk) => if r.core = c then { r with warp := f r.warp } else r) }
    sched := { s.sched with
      builds := s.sched.builds.map (fun (b : Build) => if b.core = c then { b with warp := f b.warp } else b)
      groups := s.sched.groups.map (fun (x : Nat × Group) => (x.1, x.2.renumber c f))
      qbars := s.sched.qbars.map (fun (x : Nat × Bar) => (x.1, x.2.renumber two)) }
    rg := { s.rg with
      sRing := s.rg.sRing.map (fun (r : RingRec) => { r with own := r.own.renumber two })
      fRing := s.rg.fRing.map (fun (r : RingRec) => { r with own := r.own.renumber two })
      sWait := s.rg.sWait.map (fun (x : Record × Owner) => (x.1, x.2.renumber two))
      fWait := s.rg.fWait.map (fun (x : Record × Owner) => (x.1, x.2.renumber two)) } }

/-- The number of a warp that has given up its resident slot: one that is no slot. -/
def parkedAs (s : State) (w : Nat) : Nat := if w < Config.residentSlots then Config.residentSlots + s.nextId else w

/-- A warp gives up its resident slot. -/
def parkWarp (s : State) (c w : Nat) : State :=
  if w < Config.residentSlots then renumber { s with nextId := s.nextId + 1 } c w (parkedAs s w) else s

/-- A warp without a slot goes to another core with its group (R366). -/
def moveWarp (s : State) (c c' w : Nat) : State :=
  let two (x : Nat × Nat) : Nat × Nat := if x = (c, w) then (c', w) else x
  let k := s.core c
  let s := s.updCore c' (fun k' => { k' with
    warps := tset k'.warps w (k.warp w), pw := k'.pw ++ k.pwOf w, ecmds := k'.ecmds ++ k.ecmds.filter (fun x => x.warp == w)
    launchq := k'.launchq ++ k.launchq.filter (fun x => x.warp == w) })
  let s := s.updCore c (fun k => { k with
    warps := tdel k.warps w, pw := k.pw.filter (fun p => p.warp != w), ecmds := k.ecmds.filter (fun x => x.warp != w)
    launchq := k.launchq.filter (fun x => x.warp != w) })
  { s with
    sched := { s.sched with
      groups := s.sched.groups.map (fun (x : Nat × Group) =>
        (x.1, { x.2 with bars := x.2.bars.map (fun (y : Nat × Bar) => (y.1, y.2.renumber two)) }))
      qbars := s.sched.qbars.map (fun (x : Nat × Bar) => (x.1, x.2.renumber two)) }
    rg := { s.rg with
      sRing := s.rg.sRing.map (fun (r : RingRec) => { r with own := r.own.renumber two })
      fRing := s.rg.fRing.map (fun (r : RingRec) => { r with own := r.own.renumber two })
      sWait := s.rg.sWait.map (fun (x : Record × Owner) => (x.1, x.2.renumber two))
      fWait := s.rg.fWait.map (fun (x : Record × Owner) => (x.1, x.2.renumber two)) } }

end Sys2Proof.Machine
end

