-- ==== Sys2Proof/Machine/Traps.lean ====
section
/-!
DEFINITION. The trap rings and their handler warps (R375 to R381), the saving and restoring of captured warps, the kill of a
group (R371) with the completion of its grid (R369), and the retirement of warps (R127, R261).
-/
namespace Sys2Proof.Machine

/-! ## Grids and kills -/

/-- Phase trees that no grid holds have no core. -/
def dropTrees (s : State) (l : List Nat) : State :=
  { s with sched := { s.sched with treeMask := l.foldl tdel s.sched.treeMask } }

/-- A grid index is freed, with its trees (R369). -/
def freeGrid (s : State) (i : Nat) : State :=
  dropTrees (s.updGrid i (fun x => { x with live := false, trees := [] })) (s.grid i).trees

/-- The stream whose LAUNCH_GRID started a grid sees the command complete. -/
def endLaunch (s : State) (i : Nat) : State :=
  { s with sched := { s.sched with streams := s.sched.streams.map (fun (x : Nat × Stream) =>
    (x.1, { x.2 with cmds := x.2.cmds.filter (fun c => !(c.op == 1 && c.grid == some i)) })) } }

/-- The writes of a grid's groups are released at .sy: the caches of the cores on which they have stood are written back
(R366, R369). -/
def releaseGrid (s : State) (i : Nat) : State :=
  (s.sched.groups.filter (fun x => x.2.grid == i)).foldl (fun s x =>
    (x.2.core :: x.2.cores).foldl (fun s c => releaseCaches s c .sy) s) s

/-- A grid whose every group has completed or been killed completes (R369). -/
def tryGrid (s : State) (i : Nat) : State :=
  let x := s.grid i
  if !x.live ∨ x.left ≠ 0 then s
  else
    let s := endLaunch (freeGrid (releaseGrid s i) i) i
    if x.evt = 0 then s
    else match addCounter s .s x.evt.toNat (if x.bad then 0x100000001 else 1) with
      | .ok t => t
      | .error (c, sub) => postPlain s { plainRecord s c sub 8 2 0xFFFFFFFF x.evt with core := 128 }

/-- One group of a grid has completed or been killed. -/
def groupGone (s : State) (i : Nat) (bad : Bool) : State :=
  tryGrid (s.updGrid i (fun x => { x with left := x.left - 1, bad := x.bad || bad })) i

/-- What stays of a core's engine when a lease ends: ctl.mxcfg, which is the core's (R224), with the fault it shows. -/
def Engine.idle (e : Engine) : Engine :=
  { Engine.empty with ov := e.ov, rpl := e.rpl, flt := e.flt, fcode := e.fcode, fltStep := e.fltStep, lastK := e.lastK, rplRun := e.rplRun }

/-- The routine of a warp that has ended runs on without it (R227). -/
def orphan (c : Nat) (s : State) (wi : Nat) : State :=
  updEng s c (fun e => { e with
    run := e.run.map (fun r => if r.warp = wi then { r with alive := false } else r)
    queue := e.queue.map (fun x => match x with
      | .mcall m => .mcall (if m.warp = wi then { m with alive := false } else m)
      | x => x) })

/-- The lease returns to its core, whose over-scaling mode, replay count and fault stay (R194, R224, R229). -/
def freeLease (s : State) (c h : Nat) : State :=
  if (engOf s c).holder = some (BitVec.ofNat 32 h) then
    updEng s c Engine.idle
  else s

/-- A resident slot becomes free; its bindings return to the pools. -/
def freeSlot (s : State) (c wi : Nat) : State :=
  s.updCore c (fun k =>
    { k with
      warps := if wi < Config.residentSlots then tset k.warps wi Warp.empty else tdel k.warps wi
      pw := k.pw.filter (fun p => p.warp != wi)
      current := if k.current = some wi then none else k.current
      free := if k.current = some wi then k.free + 2 else k.free
      launchq := k.launchq.filter (fun x => x.warp != wi)
      semWait := k.semWait.filter (fun x => x.1 != wi) })

/-- The swap area of a group returns to its stream's pool (R363, R368). -/
def freeArea (s : State) (h : Nat) : State :=
  let b := (s.group h).swap.toNat
  { s with sched := { s.sched with streams := s.sched.streams.map (fun (x : Nat × Stream) =>
    (x.1, { x.2 with used := x.2.used.filter (fun u => u.1 != b) })) } }

/-- A group is killed: its warps and what it holds are discarded, and what it has issued still performs, in its engine too;
until then its grid does not count it (R127, R369, R371). What a saved image kept of its engine's commands is discarded. DESIGN CHOICE,
log entry 135. -/
def killGroup (s : State) (h : Nat) : State :=
  let g := s.group h
  if g.status = .done ∨ g.status = .killed then s
  else
    let s := g.allSlots.foldl (fun s w => parkWarp s g.core w) s
    let g := s.group h
    let s := g.allSlots.foldl (fun s w => freeSlot (orphan g.core s w) g.core w) s
    let s := freeArea s h
    let s := { s with fr := { s.fr with tails := s.fr.tails.filter (fun t => t.handle != h) } }
    let s := s.updCore g.core (fun k =>
      { k with hqueue := k.hqueue.filter (fun x => x.handle.toNat != h), red := k.red.filter (fun e => e.handle.toNat != h) })
    let s := s.updGroup h (fun g => { g with status := .killed, record := none, kept := ⟨[], [], [], none, 0, [], []⟩ })
    (quadGroup s h).foldl barriersAfterExit s

/-! ## The rings (R375, R379) -/

/-- The base of a ring. -/
def ringBase (s : State) (f : Bool) : Nat :=
  if f then s.rg.ringfh.toNat * 2 ^ 32 + s.rg.ringfl.toNat else s.rg.ringsh.toNat * 2 ^ 32 + s.rg.ringsl.toNat

def ringOf (s : State) (f : Bool) : List RingRec := if f then s.rg.fRing else s.rg.sRing

def setRing (s : State) (f : Bool) (l : List RingRec) : State :=
  if f then { s with rg := { s.rg with fRing := l } } else { s with rg := { s.rg with sRing := l } }

/-- The record of a save that cannot complete (R375). -/
def swapRecord (s : State) (r : Record) (addr : Nat) : Record :=
  { r with code := .swapFault, sub := 0, slot := 0xFF, act := 0, src := 7, ak := 5, pc := 0, faddr := BitVec.ofNat 64 addr
           lanes := 0, gcc := s.gcc, img := 0 }

/-- The group of an owner. -/
def ownerGroup (s : State) (o : Owner) : Option Nat :=
  match o with
  | .warp c w => if (s.warp c w).handlerOf.isSome then none else some (s.warp c w).handle.toNat
  | .group h => some h
  | _ => none

/-- A save cannot complete: the warp or group is killed, and a swap fault enters the F ring. -/
def swapFault (s : State) (r : Record) (o : Owner) (addr : Nat) : State :=
  let s := match ownerGroup s o with | some h => killGroup s h | none => s
  postPlainF s (swapRecord s r addr)

/-- Write one slot of a ring. -/
def writeSlot (f : Bool) (s : State) (x : RingRec) : State :=
  if x.written then s
  else
    let at_ := ringBase s f + 64 * x.slot
    match saveVa s (if f then .f else .s) at_ x.rec_.bytes with
    | .ok s => setRing s f ((ringOf s f).map (fun y => if y = x then { y with written := true } else y))
    | .error (_, a) =>
      let s := setRing s f ((ringOf s f).erase x)
      if f then { s with pt := { s.pt with mchecks := s.pt.mchecks + 1 } } else swapFault s x.rec_ x.own a

/-- Records that wait take the slots that are free, in order. -/
def pumpRing (f : Bool) : Nat → State → State
  | 0, s => s
  | n + 1, s =>
    match (if f then s.rg.fWait else s.rg.sWait) with
    | [] => s
    | (r, o) :: l =>
      if roomAt s f then
        let s := if f then { s with rg := { s.rg with fWait := l } } else { s with rg := { s.rg with sWait := l } }
        pumpRing f n (postAt s f r o)
      else s

/-- The save engine brings the rings up to date. -/
def tickRings (s : State) : State :=
  let s := pumpRing false s.rg.sWait.length s
  let s := s.rg.sRing.foldl (writeSlot false) s
  let s := pumpRing true s.rg.fWait.length s
  s.rg.fRing.foldl (writeSlot true) s

/-! ## Saving a captured warp (R375, R381) -/

/-- The level of the warp of a record. -/
def Record.level (r : Record) : Level := match r.lvl % 4 with | 0 => .u | 1 => .s | _ => .f

/-- Whether a record goes to the F ring. -/
def Record.toF (r : Record) : Bool := r.code.disp r.level == .f

/-- A trap-handler warp's context goes to its core's scratchpad, its bindings numbered as in a warp block; its registers stay
where they are. The record of code 25 enters the F ring; that of an F-ring handler is a machine check as well (R381). -/
def saveHandler (s : State) (c wi : Nat) (r : Record) : State :=
  let r := { r with img := BitVec.ofNat 64 (c * 2 ^ 56 + 0x10000) }
  let toks := ((List.range 8).map (fun k => giveRecs [] 1024 0 (boundNames (s.warp c wi) k))).flatten
  let s := s.updWarp c wi (fun w => { w with status := .saved r, img := r.img, toks := toks })
  let b := padTo 0x10000 (blockHead s (s.warp c wi) r.bytes r.pc (storedOrder ((s.core c).pwOf wi)) toks)
  let s := s.updCore c (fun k => spadWrite k 0x10000 b false)
  let s := if c = 131 then { s with pt := { s.pt with mchecks := s.pt.mchecks + 1 } } else s
  postHeld s true r (.warp c wi)

/-- A warp of a group: its block, the group block, and the record. -/
def saveWarp (s : State) (c wi : Nat) (r : Record) (g : Group) : State :=
  let h := (s.warp c wi).handle.toNat
  let r := { r with img := BitVec.ofNat 64 (blockAddr g (s.warp c wi).wnum) }
  match saveBlock s g wi r.bytes r.pc with
  | .error a => swapFault s r (.warp c wi) a
  | .ok t =>
    match writeSpans [(g.swap.toNat, groupBlock t h g false (areaCrc t g) [])] t with
    | .error a => swapFault s r (.warp c wi) a
    | .ok t => postHeld (t.updWarp c wi (fun w => { w with status := .saved r })) r.toF r (.warp c wi)

/-- SAVE_CONTEXT of warp `ev.warp` of core `ev.core`. -/
def execSaveContext (s : State) : Host.Outcome State Fault Refusal :=
  let c := s.ev.core
  let w := s.warp c s.ev.warp
  match w.status with
  | .captured r =>
    if w.handlerOf.isSome then .next (saveHandler s c s.ev.warp r)
    else match tget? s.sched.groups w.handle.toNat with
      | some g => .next (saveWarp s c s.ev.warp r g)
      | none => .next (postHeld (s.updWarp c s.ev.warp (fun w => { w with status := .saved r })) r.toF r (.warp c s.ev.warp))
  | _ => .refused .notEnabled

/-- The save engine writes a late value into its entry of the image when it arrives (R382). -/
def lateArrived (p : Pending) : Bool := p.entry.isSome && p.left == 0

/-- Write one late value of a saved warp, or of one that has left with its group; where it cannot be written the save has not
completed (R375). -/
def saveLate (c : Nat) (s : State) (p : Pending) : State :=
  let w := s.warp c p.warp
  let at_ := w.img.toNat + 0x4000 + 576 * (p.entry.getD 0)
  let v := match p.wr with | .vec _ _ v _ _ => v | _ => VReg.zero
  let s := s.updCore c (fun k => { k with pw := k.pw.erase p })
  match writeSpans [(at_ + 32, valueBytes v), (at_ + 544, bytesOf 16 v.poison.toNat)] s with
  | .ok s => s
  | .error a => (match w.status with
    | .saved r | .resuming r => swapFault s r (.warp c p.warp) a
    | .stopped =>
      let h := w.handle.toNat
      swapFault s (((s.group h).record).getD (plainRecord s .swapFault 0 7 5 w.handle 0)) (.group h) a
    | _ => s)

def tickLates (s : State) (c : Nat) : State := ((s.core c).pw.filter lateArrived).foldl (saveLate c) s

/-! ## Restoring (R380) -/

/-- A restore that fails its checks: the context stays out, and the S ring receives a record of its block. -/
def contextFault (s : State) (r : Record) (img : DWord) (o : Owner) : State :=
  postHeld s false { r with code := .contextFault, sub := 0, slot := 0xFF, act := 0, src := 7, ak := 0xFF, faddr := 0
                            lanes := 0, gcc := s.gcc, img := img } o

/-- The checked block of a saved warp, or none. -/
def checkedBlock (s : State) (g : Group) (wi : Nat) (img : Nat) : Option (List Byte) :=
  match readVa s .s img 0x20000, readVa s .s g.swap.toNat 4096 with
  | .ok b, .ok gb =>
    if groupOk s g gb && blockOk (fun k => g.pools.getD k 0) g.poolMax (othersHeld s g wi) b then some b else none
  | _, _ => none

/-- The bindings of a saved handler warp that its image still holds. -/
def keptMap (w : Warp) (m : List (Nat × Nat)) : Table Bind :=
  w.map.filter (fun x => match recIndex w.toks x.1 x.2.tok with | some i => m.contains (x.1, i) | none => false)

/-- A warp outside every group resumes from what the part keeps of it; the image of a handler warp is read back, with its
bindings and its pending writes as they stand there (R73, R381). -/
def restoreOther (s : State) (c wi : Nat) (r : Record) : State :=
  let w0 := s.warp c wi
  if w0.handlerOf.isSome then
    let b := padTo 0x20000 (memBytes (s.core c).scratch 0x10000 0x10000)
    let m := imageMap b
    let w := { imageWarp b w0 with map := keptMap w0 m, toks := [] }
    let late := ((s.core c).pwOf wi).filter isLate
    let pw := (List.range (field b 0x50 4 / 65536 % 64)).map (fun i => pendingOf wi w m late ((b.drop (0x4000 + 576 * i)).take 576))
    (s.updCore c (fun k => { k.updWarp wi (fun _ => w) with pw := pw ++ k.pw.filter (fun p => p.warp != wi) })).updWarp c wi
      (fun w => resumeEntry w (BitVec.ofNat 64 (field b 0x40 8)))
  else returnWarp s c wi r.pc

/-- CONTEXT_RESTORE of warp `ev.warp` of core `ev.core`: the block is checked and the warp resumes. -/
def execContextRestore (s : State) : Host.Outcome State Fault Refusal :=
  let c := s.ev.core
  let wi := s.ev.warp
  let w := s.warp c wi
  match w.status with
  | .resuming r =>
    if wi ≥ Config.residentSlots then .refused .notEnabled
    else match (if w.handlerOf.isSome then none else tget? s.sched.groups w.handle.toNat) with
      | none => .next (addWhy (restoreOther s c wi r) c 7)
      | some g =>
        if g.status ≠ .resident then .refused .notEnabled
        else match checkedBlock s g wi w.img.toNat with
          | some b => .next (barriersAfterExit (addWhy (restoreBlock (countRead s 8 .s w.img.toNat 0x20000) g c wi b) c 7) w.handle.toNat)
          | none => .next (contextFault (s.updWarp c wi (fun w => { w with status := .saved r })) r w.img (.warp c wi))
  | _ => .refused .notEnabled

/-! ## Trap-handler warps (R376) -/

/-- The vector of a ring. -/
def ringVector (s : State) (f : Bool) : DWord :=
  if f then BitVec.ofNat 64 (s.rg.tvfh.toNat * 2 ^ 32 + s.rg.tvfl.toNat) else BitVec.ofNat 64 (s.rg.tvsh.toNat * 2 ^ 32 + s.rg.tvsl.toNat)

/-- The core of a ring's handlers. -/
def ringCore (f : Bool) : Nat := if f then 131 else 130

/-- The handler warps of a core. -/
def handlersOn (s : State) (c : Nat) : Nat := ((s.core c).warps.filter (fun x => x.2.handlerOf.isSome && x.2.status != .free)).length

/-- Whether 64 registers of every bank are free for one more handler. -/
def handlerRoom (s : State) (c : Nat) : Bool :=
  (List.range 8).all (fun k =>
    decide ((tget [] s.pt.start.fwPools c).getD k 0 + Config.handlerPool * (handlersOn s c + 1) ≤ Config.bankRegs))

/-- The free resident slot of a handler. -/
def handlerSlot (s : State) (c : Nat) : Option Nat :=
  ((List.range 8).map (24 + ·)).find? (fun i => (s.warp c i).status == .free)

/-- The state in which a trap-handler warp starts. -/
def handlerWarp (s : State) (f : Bool) (x : RingRec) (slot : Nat) : Warp :=
  let c := ringCore f
  let put (t : Table Word) (n : Nat) (v : Nat) : Table Word := tset (tset t n (BitVec.ofNat 32 v)) (n + 1) (BitVec.ofNat 32 (v / 2 ^ 32))
  let at_ := ringBase s f + 64 * x.slot
  let tc := x.rec_.tcause.toNat + (if f then 0x80000 else 0)
  { Warp.empty with
    status := .run, level := if f then .f else .s, handle := 0xFFFFFFFF, wnum := 0xFF, prio := 7, handlerOf := some x.rec_
    entries := [⟨ringVector s f, 0, BitVec.allOnes 128, false, 0, .none, none⟩]
    s := put (put (put (tset [] 1 (BitVec.ofNat 32 tc)) 2 at_) 4 x.rec_.img.toNat) 6 x.posted
    segBase := [], segLimit := [(0, BitVec.ofNat 64 (2 ^ 57)), (4, BitVec.ofNat 64 (2 ^ 56))]
    seeded := some (0, 2 ^ 30 + c, slot - 24) }

/-- The first record in ring order whose handler has not started. -/
def nextHandled (s : State) (f : Bool) : Option RingRec := (ringOf s f).find? (fun x => x.warp.isNone)

/-- TRAP_HANDLER_START on core `ev.core`, 130 or 131. -/
def execTrapHandlerStart (s : State) : Host.Outcome State Fault Refusal :=
  let f := s.ev.core == 131
  let c := ringCore f
  let ctl := if f then s.rg.ringfc else s.rg.ringsc
  match nextHandled s f, handlerSlot s c with
  | some x, some i =>
    if s.ev.core ≠ c ∨ !x.written ∨ !ringEn ctl ∨ !handlerRoom s c then .refused .notEnabled
    else
      let w := handlerWarp s f x i
      let s := s.updCore c (fun k => { k.updWarp i (fun _ => w) with pw := k.pw.filter (fun p => p.warp != i) })
      .next (setRing s f ((ringOf s f).map (fun y => if y = x then { y with warp := some i } else y)))
  | _, _ => .refused .notEnabled

/-- What a handler has decided acts on its record's owner (R380). -/
def actOn (s : State) (x : RingRec) (act : Nat) : State :=
  match x.own with
  | .none => s
  | .copy c q id => answerCopy s c q id act
  | .group h =>
    if (s.group h).status ≠ .held then s
    else if act = 0 then s.updGroup h (fun g => { g with status := .waiting, record := none })
    else killGroup s h
  | .warp c w =>
    match (s.warp c w).status with
    | .saved r =>
      if r.img ≠ x.rec_.img ∧ x.rec_.code ≠ .contextFault then s
      else if act = 0 then s.updWarp c w (fun v => { v with status := .resuming r })
      else if (s.warp c w).handlerOf.isSome then
        let s := freeSlot s c w
        setRing s (c == 131) ((ringOf s (c == 131)).filter (fun y => y.warp != some w))
      else if (tget? s.sched.groups (s.warp c w).handle.toNat).isSome then killGroup s (s.warp c w).handle.toNat
      else freeSlot s c w
    | _ => s

/-- ACT as the handler left it in the ring slot: 0 resumes, anything else kills (R377). -/
def readAct (s : State) (f : Bool) (x : RingRec) : Nat :=
  match readVa s (if f then .f else .s) (ringBase s f + 64 * x.slot + 3) 1 with
  | .ok [b] => b.toNat
  | _ => 1

/-- A trap-handler warp has ended: its record's business ends and its slot is free (R261, R376, R380). -/
def endHandler (s : State) (c wi : Nat) : State :=
  let f := c == 131
  let eret := (s.warp c wi).eret
  let s := freeSlot s c wi
  match (ringOf s f).find? (fun x => x.warp == some wi) with
  | some x =>
    let act := if eret then readAct s f x else 1
    actOn (setRing s f ((ringOf s f).erase x)) x act
  | none => s

/-! ## Retirement (R127) -/

/-- Whether a warp has no entry left and its pending writes have landed; a handler that ends by ERET waits for its
release (R261). -/
def canRetire (s : State) (c wi : Nat) : Bool :=
  let w := s.warp c wi
  w.status == .run && w.entries.isEmpty && w.spilled.isEmpty && w.susp == .none && ((s.core c).pwOf wi).isEmpty &&
    (!(w.eret && w.handlerOf.isSome) || (openIds s c wi).isEmpty) && decide ((s.core c).free ≤ s.gcc ∨ (s.core c).current ≠ some wi)

/-- A warp of a group retires; an arrival-handler warp gives back its slot, and what it has issued keeps a number of its own
(R127, R185, R227, R255, R281, R368). -/
def retireWarp (s : State) (c wi : Nat) : State :=
  let w := s.warp c wi
  let h := w.handle.toNat
  let s := orphan c s wi
  let s :=
    if w.wnum ≥ 16 then
      let n := parkedAs s wi
      let s := freeSlot (parkWarp s c wi) c n
      s.updGroup h (fun g => { g with handlers := g.handlers.filter (fun x => x.2 != n), past := g.past ++ [(c, n)] })
    else s.updCore c (fun k =>
      { k.updWarp wi (fun w => { w with status := .ended, map := [], results := [], ready := none, watch := none }) with
        current := if k.current = some wi then none else k.current })
  if (tget? s.sched.groups h).isSome then tryRole (barriersAfterExit s h) h else s

/-- WARP_RETIRE of warp `ev.warp` of core `ev.core`. -/
def execWarpRetire (s : State) : Host.Outcome State Fault Refusal :=
  let c := s.ev.core
  if !canRetire s c s.ev.warp then .refused .notEnabled
  else if (s.warp c s.ev.warp).handlerOf.isSome then .next (endHandler s c s.ev.warp)
  else .next (retireWarp s c s.ev.warp)

end Sys2Proof.Machine
end

