-- ==== Sys2Proof/Machine/Groups.lean ====
section
/-!
DEFINITION. The life of a group (R362 to R371, R382 to R385): admission with fresh or restored state, the change of a
core's carve, relocation, pre-emption by priority, the halt at a pre-emption, swap-out, and completion.
-/
namespace Sys2Proof.Machine

/-! ## Waiting lists (R362) -/

/-- The priority of a grid: that of its stream as last read (R355, R367). -/
def gridPrio (s : State) (i : Nat) : Nat :=
  match (s.grid i).stream with
  | some si => (tget Stream.reset s.sched.streams si).ctl.toNat % 8
  | none => (s.grid i).prio

/-- Whether a group comes before another one in a waiting list. -/
def groupBefore (s : State) (a b : Nat) : Bool :=
  let ga := s.group a
  let gb := s.group b
  let pa := gridPrio s ga.grid
  let pb := gridPrio s gb.grid
  let la := (s.grid ga.grid).l
  let lb := (s.grid gb.grid).l
  if pa ≠ pb then decide (pb < pa) else if la ≠ lb then decide (la < lb) else decide (ga.num < gb.num)

def firstGroup (s : State) : List Nat → Option Nat
  | [] => none
  | x :: r =>
    match firstGroup s r with
    | none => some x
    | some y => if groupBefore s y x then some y else some x

/-- The groups that wait at a core. -/
def waitingAt (s : State) (c : Nat) : List Nat :=
  (s.sched.groups.filter (fun x => x.2.core == c && x.2.status == .waiting)).map (·.1)

/-- The head of a core's waiting list. -/
def headAt? (s : State) (c : Nat) : Option Nat := firstGroup s (waitingAt s c)

/-- The members of a group's quad group that have not ended. -/
def quadMembers (s : State) (h : Nat) : List Nat :=
  let g := s.group h
  (s.sched.groups.filter (fun x => x.2.grid == g.grid && quadOf x.2.core == quadOf g.core &&
    x.2.status != .done && x.2.status != .killed)).map (·.1)

/-- Whether a member waits, behind nobody but members of its own quad group, and its swap area is closed. -/
def memberWaits (s : State) (ms : List Nat) (h : Nat) : Bool :=
  let g := s.group h
  g.status == .waiting && !g.open_ && (waitingAt s g.core).all (fun x => ms.contains x || groupBefore s h x)

/-! ## What a group takes (R363) -/

/-- The groups on a core that count, were the ones of a list gone. -/
def holders (s : State) (gone : List Nat) (c : Nat) : List Group :=
  ((s.residentOn c).filter (fun x => !gone.contains x.1)).map (·.2)

/-- The resident slots that are free. -/
def freeSlots (s : State) (gone : List Nat) (c : Nat) : List Nat :=
  let free := ((s.residentOn c).filter (fun x => gone.contains x.1)).foldl (fun l x => l ++ x.2.allSlots) []
  let held := (holders s gone c).flatMap Group.allSlots
  (List.range Config.residentSlots).filter (fun i => ((s.warp c i).status == .free || free.contains i) && !held.contains i)

/-- The lowest offset at which a region of `n` bytes fits. -/
def findRegion (used : List (Nat × Nat)) (limit n : Nat) : Option Nat :=
  ((0 :: used.map (fun x => x.1 + x.2)).filter (fun a =>
    decide (a + n ≤ limit) && used.all (fun x => decide (a + n ≤ x.1) || decide (x.1 + x.2 ≤ a)))).foldl
    (fun m a => match m with | some b => some (min a b) | none => some a) none

def Group.regionBytes (g : Group) : Nat := Sys2Proof.Machine.regionBytes g.allot g.warps

/-- The killed groups of a core whose send records are still to be read from their regions (R371, R401). -/
def lingering (s : State) (c : Nat) : List Group :=
  ((s.sched.groups.filter (fun x => x.2.core == c && x.2.status == .killed &&
    (tget [] s.fr.sends c).any (fun y => y.handle == BitVec.ofNat 32 x.1))).map (·.2))

/-- A place for a group's scratchpad region. -/
def regionFor (s : State) (gone : List Nat) (c : Nat) (g : Group) : Option Nat :=
  findRegion ((holders s gone c ++ lingering s c).map (fun x => (x.region, x.regionBytes))) (g.carve * 2 ^ 20) g.regionBytes

/-- Whether the pools of a group are free in every bank. -/
def poolsFit (s : State) (gone : List Nat) (c : Nat) (g : Group) : Bool :=
  (List.range 8).all (fun k =>
    decide (((holders s gone c).map (fun x => x.poolMax k)).foldl (· + ·) 0 + g.poolMax k ≤ Config.bankRegs))

/-- Whether the lease is free. -/
def leaseFree (s : State) (gone : List Nat) (c : Nat) : Bool :=
  (holders s gone c).all (fun x => !x.lease) &&
  match (engOf s c).holder with
  | none => true
  | some h => gone.contains h.toNat

/-- Whether the handler numbers of a group that returns are free: a core runs at most four handler warps, numbered 0 to 3, and a
saved one keeps its number (R281, R363). DEDUCED, log entry 109. -/
def handlersFree (s : State) (gone : List Nat) (c : Nat) (g : Group) : Bool :=
  g.handlers.all (fun x => (holders s gone c).all (fun y => (tget? y.handlers x.1).isNone))

/-- The swap area of a group, on its stream's pool, unless it has one; of an area taken before the pool moved, the part inside the
pool counts (R350, R363). -/
def swapFor (s : State) (g : Group) : Option Nat :=
  if g.swapLen ≠ 0 then some g.swap.toNat
  else match (s.grid g.grid).stream with
    | none => some 0
    | some si =>
      let st := tget Stream.reset s.sched.streams si
      (findRegion (st.used.map (fun x => (x.1 - st.swb.toNat, x.1 + x.2 - max x.1 st.swb.toNat))) st.swl.toNat g.areaBytes).map
        (· + st.swb.toNat)

/-- The starts that a core's handler queue holds (R281). -/
def handlerQueueCap : Nat := 16

/-- Whether a core's handler queue has room for `n` starts more, beside those of tiles that have just landed (R281, R401). -/
def queueRoom (s : State) (c n : Nat) : Bool :=
  let coming := (s.fr.tails.filter (fun t => t.tile.dst == c && t.tile.haddr.isSome)).length
  decide ((s.core c).hqueue.length + coming + n ≤ handlerQueueCap)

/-- Whether a group fits a core, were a list of groups gone. DESIGN CHOICE, log entry 117: a group that returns waits until the
core's handler queue has room for the starts saved with it. -/
def fitsOn (s : State) (gone : List Nat) (c : Nat) (g : Group) : Bool :=
  let k := s.core c
  coreThere s c && (quadState s (quadOf c)).st == 0 &&
    (k.carve == g.carve || (holders s gone c).isEmpty && !gone.isEmpty) &&
    decide (g.warps + g.handlers.length ≤ (freeSlots s gone c).length) && handlersFree s gone c g && poolsFit s gone c g &&
    (regionFor s gone c g).isSome && (!g.lease || leaseFree s gone c) && (swapFor s g).isSome &&
    (g.kept.hq.isEmpty || queueRoom s c g.kept.hq.length)

/-! ## Fresh state (R296, R363, R364) -/

/-- A warp of a newly admitted group. -/
def freshWarp (s : State) (h i : Nat) (g : Group) : Warp :=
  let x := s.grid g.grid
  let r := g.roles.getD 0 ⟨0, 0, []⟩
  let n := if i + 1 = g.warps ∧ g.lastn ≠ 0 then g.lastn else 128
  let d (n : Nat) : DWord := BitVec.ofNat 64 n
  { Warp.empty with
    status := .run, handle := BitVec.ofNat 32 h, wnum := i, prio := r.cls
    entries := [⟨r.entry, 0, maskOf (fun l => decide (l < n)), false, 0, .none, none⟩]
    segBase := [(1, d g.region), (3, x.const), (5, d g.region)]
    segLimit := [(0, d (2 ^ 57)), (1, d g.allot), (2, d (4 * g.allot)), (3, d x.constLen), (4, d (2 ^ 56)), (5, d g.allot)]
    seeded := some (x.seed, g.num, i) }

/-- Set a span of a scratchpad to zero. -/
def clearSpan (k : Core) (a n : Nat) : Core :=
  { k with
    scratch := k.scratch.filter (fun x => decide (x.1 < a) || decide (a + n ≤ x.1))
    semRel := k.semRel.filter (fun x => decide (x.1 < a) || decide (a + n ≤ x.1))
    spoison := k.spoison.filter (fun w => decide (4 * w < a) || decide (a + n ≤ 4 * w)) }

/-- The directory and the step words enter the lease from the image, as it stands at the admission (R195, R363). -/
def takeLease (s : State) (c h : Nat) (g : Group) : State :=
  if !g.lease then s
  else
    let b := areaRead s g.rtn (1024 + 8 * g.nword)
    updEng (countRead s 8 .s g.rtn (1024 + 8 * g.nword)) c (fun e => { e.idle with
      holder := some (BitVec.ofNat 32 h)
      store := (List.range g.nword).map (fun k => (k, BitVec.ofNat 64 (field b (1024 + 8 * k) 8)))
      dir := (List.range 256).map (fun k => (k, BitVec.ofNat 32 (field b (4 * k) 4))) })

/-- The warps of a newly admitted group. -/
def freshGroup (s : State) (h : Nat) : State :=
  let s := s.updGroup h (fun g => { g with
    role := 0, pools := (g.roles.getD 0 ⟨0, 0, []⟩).pools, arrivedRole := [], z := [], bars := [], fresh := false })
  let g := s.group h
  let s := takeLease (s.updCore g.core (fun k => clearSpan k g.region g.allot)) g.core h g
  g.slots.zipIdx.foldl (fun s x => s.updWarp g.core x.1 (fun _ => freshWarp s h x.2 g)) s

/-! ## Readmission (R371, R380, R384) -/

/-- Every time in an engine, moved. -/
def Engine.mapTime (f : Nat → Nat) (e : Engine) : Engine :=
  { e with
    fills := e.fills.map (fun x => { x with due := f x.due })
    queue := e.queue.map (fun x => match x with
      | .mcall m => .mcall { m with start := m.start.map f, at_ := f m.at_ }
      | x => x)
    run := e.run.map (fun r => { r with next := f r.next, done := f r.done, drain := r.drain.map (fun x => { x with start := x.start.map f }) })
    arrJob := e.arrJob.map (fun j => { j with next := f j.next })
    rowJob := e.rowJob.map (fun j => { j with next := f j.next })
    loadFree := f e.loadFree, arrayFree := f e.arrayFree, rowFree := f e.rowFree
    rows := e.rows.map (fun (x : Nat × Nat) => (x.1, f x.2))
    entered := f e.entered, lastEnd := f e.lastEnd, syncAt := e.syncAt.map f }

/-- The block of a warp in its group's image. -/
def imageBlock (s : State) (g : Group) (wi : Nat) : List Byte := areaRead s (blockAddr g (s.warp g.core wi).wnum) 0x20000

/-- Whether a warp without a slot takes its state from its block when its group returns: one captured under W has its own
restore, and one that has ended has none. -/
def fromImage (w : Warp) : Bool := w.status == .stopped

/-- The checks of R380 over a group's image. -/
def imageFits (s : State) (h : Nat) : Bool :=
  let g := s.group h
  let gb := areaRead s g.swap.toNat 4096
  let blocks := (g.allSlots.filter (fun w => fromImage (s.warp g.core w))).map (fun w => (w, imageBlock s g w))
  let held (k : Nat) (b : List Byte) : Nat := ((imageMap b).filter (fun x => x.1 % 8 == k)).length
  let saved (k : Nat) : Nat := (g.allSlots.map (fun w => match (s.warp g.core w).status with
    | .saved _ | .resuming _ => ((s.warp g.core w).toks.filter (fun t => t.2.1 % 8 == k)).length
    | _ => 0)).foldl (· + ·) 0
  let others (x : Nat × List Byte) (k : Nat) : Nat :=
    ((blocks.filter (fun y => y.1 != x.1)).map (fun y => held k y.2)).foldl (· + ·) (saved k)
  let pools (k : Nat) : Nat := (g.roles.getD (field gb 10 1) ⟨0, 0, []⟩).pools.getD k 0
  groupOk s g gb && decide (field gb 10 1 < g.roles.length) && blocks.all (fun x => blockOk pools g.poolMax (others x) x.2)

/-- A segment base moves with its group's region (R300). -/
def moveSegs (d : Int) (w : Warp) : Warp :=
  let put (t : Table DWord) (n : Nat) : Table DWord := tset t n (tget 0 t n + BitVec.ofInt 64 d)
  { w with segBase := put (put w.segBase 1) 5 }

/-- The bases in the image of a warp that was captured under W move too. -/
def moveImageSegs (s : State) (d : Int) (img : Nat) : State :=
  let at_ (n : Nat) : Nat := img + 0x2F0 + 16 * n
  let new (n : Nat) : List Byte := bytesOf 8 (BitVec.ofNat 64 (ofBytes (areaRead s (at_ n) 8)) + BitVec.ofInt 64 d).toNat
  match writeSpans [(at_ 1, new 1), (at_ 5, new 5)] s with
  | .ok t => t
  | .error _ => s

/-- The spilled entries of a warp in the frontier reserve of a saved region. -/
def reserveEntries (s : State) (g : Group) (w : Warp) (n : Nat) : List Entry :=
  (List.range n).map (fun i =>
    withBack w.spilled (.ofBytes (areaRead s (g.swap.toNat + g.scratchAt + align4k g.allot + 3584 * w.wnum + 32 * i) 32)))

/-- One warp returns to a resident slot. -/
def readmitWarp (g : Group) (d : Int) (s : State) (x : Nat × Nat) : State :=
  let c := g.core
  let w := s.warp c x.1
  let s := renumber s c x.1 x.2
  match w.status with
  | .stopped =>
    let b := areaRead s (blockAddr g w.wnum) 0x20000
    let old := if w.wnum < 16 then reserveEntries s g w (field b 0x50 4 / 512 % 128) else w.spilled
    let s := restoreBlock (s.updWarp c x.2 (fun w => { w with spilled := old })) g c x.2 b
    s.updWarp c x.2 (moveSegs d)
  | .saved _ | .resuming _ =>
    let s := bindImage c x.2 (fun _ _ => []) (w.toks.map (fun t => (t.2.1, t.2.2))) s
    moveImageSegs s d w.img.toNat
  | _ => s

/-- The bytes of a region, with the words that were poisoned. -/
def restoreRegion (s : State) (g : Group) (img : Nat) : State :=
  let b := areaRead s img g.regionBytes
  s.updCore g.core (fun k =>
    let k := spadWrite (clearSpan k g.region g.regionBytes) g.region b false
    { k with spoison := k.spoison ++ g.kept.poison.map (· + g.region / 4) })

/-- A list of arrivals of a given length: those known, then warps of the group that are not among them. -/
def arrivals (g : Group) (n : Nat) (l : List (Nat × Nat)) : List (Nat × Nat) :=
  (l ++ (g.slots.map (fun w => (g.core, w))).filter (fun x => !l.contains x)).take n

/-- A barrier as the group block says it stands: a handler may have written it (R384, R385). -/
def imageBar (g : Group) (v : Nat) (b : Bar) : Bar :=
  if v = barWord b then b
  else
    let n := v / 65536 % 128
    { b with expect := if n = 0 then none else some (BitVec.ofNat 32 (v % 65536)), arrived := arrivals g n b.arrived }

/-- The barriers of a group, and those of its quad group, come from its block. DEDUCED, log entry 134. -/
def imageBars (s : State) (h : Nat) (gb : List Byte) : State :=
  let s := (List.range 16).foldl (fun s n => barPut s false h n (imageBar (s.group h) (field gb (32 + 4 * n) 4) (barGet s false h n))) s
  (List.range 4).foldl (fun s n => barPut s true h n (imageBar (s.group h) (field gb (96 + 4 * n) 4) (barGet s true h n))) s

/-- The starts of the handler queue as the group block gives them; one whose entry has been cleared is gone (R384, R385). -/
def imageStarts (gb : List Byte) (l : List HStart) : List HStart :=
  (l.zipIdx.filter (fun x => !zeroAt gb (384 + 32 * x.2) 32)).map (fun x =>
    { x.1 with s := (List.range 7).map (fun i => BitVec.ofNat 32 (field gb (384 + 32 * x.2 + 4 * i) 4)) })

/-- A group returns to its core with its image. -/
def readmitGroup (s : State) (h : Nat) (old : Group) : State :=
  let g := s.group h
  let c := g.core
  let gb := areaRead s g.swap.toNat 4096
  let d : Int := (g.region : Int) - (field gb 24 4 : Int)
  let z (n : Nat) : ZDesc := ⟨field gb (128 + 16 * n) 4, field gb (132 + 16 * n) 4, field gb (136 + 16 * n) 4, field gb (140 + 16 * n) 4,
    (tget ZDesc.reset g.z n).send⟩
  let role := field gb 10 1
  let s := s.updGroup h (fun g => { g with
    role := role, pools := (g.roles.getD role ⟨0, 0, []⟩).pools, budget := BitVec.ofNat 64 (field gb 16 8), z := imageTable 16 z })
  let s := restoreRegion (countRead s 8 .s g.swap.toNat g.swapLen) g (g.swap.toNat + g.scratchAt)
  let s := (old.allSlots.zip g.allSlots).foldl (readmitWarp g d) s
  let g := s.group h
  let s := match g.kept.eng with
    | some e => updEng s c (fun x => { e.mapTime (· + (s.gcc - g.kept.at_)) with
      holder := some (BitVec.ofNat 32 h), ov := x.ov, rpl := x.rpl, flt := x.flt, fcode := x.fcode, fltStep := x.fltStep })
    | none => s
  let s := s.updCore c (fun k => { k with
    inbox := g.kept.inbox.foldl (fun t (x : Nat × InSlot) => if (tget? t x.1).isSome then t else tset t x.1 x.2) k.inbox
    red := k.red ++ g.kept.red, hqueue := k.hqueue ++ imageStarts gb g.kept.hq
    semRel := k.semRel ++ g.kept.sems.map (fun x => (x.1 + g.region, x.2)) })
  (imageBars s h gb).updGroup h (fun g => { g with kept := ⟨[], [], [], none, 0, [], []⟩, saved := false })

/-! ## Admission (R362, R363, R365, R367) -/

/-- A swap area is taken from the pool. -/
def takeSwap (s : State) (h : Nat) : State :=
  let g := s.group h
  if g.swapLen ≠ 0 then s
  else match (s.grid g.grid).stream, swapFor s g with
    | some si, some a =>
      let st := tget Stream.reset s.sched.streams si
      let s := { s with sched := { s.sched with streams := tset s.sched.streams si { st with used := st.used ++ [(a, g.areaBytes)] } } }
      s.updGroup h (fun g => { g with swap := BitVec.ofNat 64 a, swapLen := g.areaBytes })
    | _, _ => s

/-- A group takes its swap area, its region and its resident slots, were a list of groups gone. -/
def takePlace (s : State) (gone : List Nat) (h : Nat) : State :=
  let slots := freeSlots s gone (s.group h).core
  let s := takeSwap s h
  s.updGroup h (fun g => { g with
    status := .resident, record := none, region := (regionFor s gone g.core g).getD 0
    slots := slots.take g.warps
    handlers := (g.handlers.zip ((slots.drop g.warps).take g.handlers.length)).map (fun (x : (Nat × Nat) × Nat) => (x.1.1, x.2)) })

/-- A group takes its resources and its state. -/
def admitGroup (s : State) (h : Nat) : State :=
  let old := s.group h
  let s := takePlace s [] h
  addWhy (if old.fresh then freshGroup s h else readmitGroup s h old) old.core 6

/-- The members are admitted one after another while each fits. -/
def admitAll : List Nat → State → Option State
  | [], s => some s
  | h :: r, s => if fitsOn s [] (s.group h).core (s.group h) then admitAll r (admitGroup s h) else none

/-- A group whose image fails its checks stays out, and its record enters the S ring. -/
def failImage (s : State) (h : Nat) : State :=
  let g := s.group h
  let r := (g.record.getD (plainRecord s .contextFault 0 7 0xFF (BitVec.ofNat 32 h) 0))
  contextFault (s.updGroup h (fun g => { g with status := .held })) { r with handle := BitVec.ofNat 32 h } g.swap (.group h)

/-- Whether the members would fit together, were a list of groups gone (R367). -/
def wouldFit : List Nat → List Nat → State → Bool
  | [], _, _ => true
  | h :: r, gone, s =>
    let g := s.group h
    fitsOn s gone g.core g && wouldFit r gone ((takePlace s gone h).updCore g.core (fun k => { k with carve := g.carve }))

/-- Whether a resident group is pre-empted before another one. -/
def victimBefore (s : State) (a b : Nat) : Bool :=
  let pa := gridPrio s (s.group a).grid
  let pb := gridPrio s (s.group b).grid
  if pa ≠ pb then decide (pa < pb) else decide ((s.grid (s.group b).grid).l < (s.grid (s.group a).grid).l)

def insertVictim (s : State) (x : Nat) : List Nat → List Nat
  | [] => [x]
  | y :: r => if victimBefore s x y then x :: y :: r else y :: insertVictim s x r

/-- The resident groups of lower priority on the cores of the members, in the order in which they are pre-empted. -/
def victims (s : State) (ms : List Nat) (p : Nat) : List Nat :=
  let cs := (ms.map (fun h => (s.group h).core)).eraseDups
  let l := cs.foldl (fun l c => l ++ ((s.residentOn c).filter (fun x => x.2.status == .resident && decide (gridPrio s x.2.grid < p))).map (·.1)) []
  l.foldl (fun r x => insertVictim s x r) []

/-- Pre-empt one after another until the members would fit. -/
def preemptUntil (ms : List Nat) : List Nat → List Nat → State → State
  | [], _, s => s
  | v :: r, gone, s =>
    if wouldFit ms gone s then s
    else
      let all := quadGroup s v
      preemptUntil ms r (gone ++ all) (if (s.group v).status == .resident then groupLeaves s v .preemption none 16 else s)

/-- The groups that are leaving already. -/
def leavers (s : State) : List Nat := (s.sched.groups.filter (fun x => x.2.status == .leaving)).map (·.1)

/-- The members of the head's quad group when each of them waits at the head of its list. -/
def readyMembers (s : State) (c : Nat) : Option (List Nat) :=
  match headAt? s c with
  | none => none
  | some h =>
    let ms := quadMembers s h
    if ms.all (memberWaits s ms) then some ms else none

/-- What the head of a core's list does: a killed one is discarded; it is admitted with its quad group; its image fails;
or it pre-empts. -/
def admission (s : State) (c : Nat) : Option State :=
  match (waitingAt s c).find? (fun h => (s.group h).kill) with
  | some h => some (killGroup s h)
  | none =>
    match readyMembers s c with
    | none => none
    | some ms =>
      match ms.filter (fun h => !(s.group h).fresh && !imageFits s h) with
      | [] =>
        (match admitAll ms s with
        | some t => some t
        | none =>
          let p := ms.foldl (fun p h => max p (gridPrio s (s.group h).grid)) 0
          let vs := victims s ms p
          if wouldFit ms (leavers s) s || !wouldFit ms (leavers s ++ vs) s || vs.isEmpty then none
          else some (preemptUntil ms vs (leavers s) s))
      | bad => some (bad.foldl failImage s)

/-- GROUP_ADMISSION at core `ev.core`. -/
def execGroupAdmission (s : State) : Host.Outcome State Fault Refusal :=
  if inCheckpoint s then .refused .notEnabled
  else match admission s s.ev.core with
    | some t => .next t
    | none => .refused .notEnabled

/-! ## The carve (R365) -/

/-- A core cache is written back and emptied, and the core takes a carve. -/
def takeCarve (s : State) (c n : Nat) : State :=
  let s := (((s.core c).cache).map (·.1)).foldl (fun s ln => writeBack s c ln true) s
  s.updCore c (fun k => { k with carve := n })

/-- The carve that a core is to take: its head's, once no group is resident. -/
def carveDue (s : State) (c : Nat) : Option Nat :=
  match headAt? s c with
  | some h => if (s.group h).carve ≠ (s.core c).carve ∧ (s.residentOn c).isEmpty then some (s.group h).carve else none
  | none => none

/-- CARVE_CHANGE at core `ev.core`. -/
def execCarveChange (s : State) : Host.Outcome State Fault Refusal :=
  match carveDue s s.ev.core with
  | some n => .next (takeCarve s s.ev.core n)
  | none => .refused .notEnabled

/-! ## Relocation (R366) -/

/-- The die type of a core in the code of a placement entry: bit 0 G, 1 N, 2 H (R358). -/
def dieType (c : Nat) : Nat := if c < 64 then 0 else if c < 128 then 1 else 2

/-- Whether a group waits behind a carve change at its first admission, its own or that of a group before it in the
list, or to re-enter. -/
def mayMove (s : State) (h : Nat) : Bool :=
  let g := s.group h
  let change := !(s.residentOn g.core).isEmpty &&
    (waitingAt s g.core).any (fun x => (x == h || groupBefore s x h) && (s.group x).carve != (s.core g.core).carve)
  g.status == .waiting && g.reloc && !g.open_ && quadMembers s h == [h] && (!g.fresh || change)

/-- Whether a core takes a group that moves: one that holds no group takes it whether or not it fits now (R366). -/
def takesMover (s : State) (g : Group) (c : Nat) : Bool :=
  coreThere s c && quadOf c != 32 && (g.dt == 0 || g.dt.testBit (dieType c)) && (waitingAt s c).isEmpty &&
    (fitsOn s [] c g || (s.residentOn c).isEmpty)

/-- The core to which a group moves. -/
def moveTarget (s : State) (h : Nat) : Option Nat :=
  if mayMove s h then (List.range Config.cores).find? (fun c => c != (s.group h).core && takesMover s (s.group h) c) else none

/-- A group moves; its map entry takes the new core. -/
def relocate (s : State) (h c : Nat) : State :=
  let g := s.group h
  let s := if (s.core c).carve = g.carve then s else takeCarve s c g.carve
  let s := if g.fresh then s else g.allSlots.foldl (fun s w => moveWarp s g.core c w) s
  let key (q n : Nat) : Nat := (g.grid * 64 + q) * 4 + n
  let bars := (List.range 4).map (fun n => (n, tget Bar.reset s.sched.qbars (key (quadOf g.core) n)))
  let t := bars.foldl (fun t x => tset (tdel t (key (quadOf g.core) x.1)) (key (quadOf c) x.1) x.2) s.sched.qbars
  let s := { s with sched := { s.sched with qbars := t } }
  let s := s.updGroup h (fun g => { g with core := c, cores := g.core :: g.cores.filter (fun x => x != g.core) })
  match writeVa s .s ((s.grid g.grid).pmap.toNat + 2 * g.num) (bytesOf 1 c) with
  | .ok s => s
  | .error _ => s

/-- GROUP_RELOCATION of group `ev.idx`. -/
def execGroupRelocation (s : State) : Host.Outcome State Fault Refusal :=
  match moveTarget s s.ev.idx with
  | some c => .next (relocate s s.ev.idx c)
  | none => .refused .notEnabled

/-! ## The halt at a pre-emption (R225, R370, R382) -/

/-- The value of a status command (R205, R222). -/
def statusValue (s : State) (c : Nat) : EngOp → Option DWord
  | .mstat _ => some (mstatWord (engOf s c))
  | .wstat _ => some (wstatWord (engOf s c))
  | _ => none

/-- A status command reads the engine. -/
def readStatus (c : Nat) (s : State) (x : ECmd) : State :=
  match statusValue s c x.op with
  | some v => cmdDone (fillVals s c x.rid (putPair v)) c x.id
  | none => s

/-- The entry of a point, with the state of its warp: the parts that a division has left of it are one entry again. The
loop levels go back where no other entry can have changed them. -/
def backTo (p : Point) (e : Entry) (w : Warp) : Warp :=
  let part (x : Entry) : Bool := x.mask &&& ~~~p.mask == 0
  let alone := w.entries.all part && w.spilled.all part
  { w with
    entries := { e with pc := p.pc, prio := p.prio, mask := p.mask, wait := .none, back := none } :: w.entries.filter (fun x => !part x)
    spilled := w.spilled.filter (fun x => !part x)
    dl := p.dl, xfer := p.xfer, falls := p.falls, issuer := some p.mask
    loops := if alone || w.loops.length == p.loops.length + 1 then p.loops else w.loops }

/-- A warp whose every entry waits stands at the bundle of one of them: of the one within whose delay bundles it is, or the
first (R114, R386). -/
def unwait (age : Bool) (w : Warp) : Warp :=
  if w.entries.any (fun e => e.wait == .none) then w
  else
    match (if w.dl > 0 then w.entries.find? (fun e => some e.mask == w.issuer) else firstEntry age w.entries) with
    | some e => (match e.back with
      | some p => backTo p e w
      | none => { updEntry e.mask (fun e => { e with wait := .none }) w with issuer := some e.mask })
    | none => w

/-- The LAUNCHes of a warp that its entries still wait at. -/
def keepLaunch (wi : Nat) (k : Core) : Core :=
  let w := k.warp wi
  let still (x : LaunchWait) : Bool := (w.entries ++ w.spilled).any (fun e => e.wait == .launch && e.mask &&& ~~~x.mask == 0)
  { k with launchq := k.launchq.filter (fun x => x.warp != wi || still x) }

/-- One warp of a leaving group stops at its boundary (R71, R386). -/
def stopWarp (c : Nat) (s : State) (wi : Nat) : State :=
  let w := s.warp c wi
  if w.status ≠ .run ∧ w.status ≠ .halted then s
  else match w.after with
    | some (cause, sub, b) =>
      let cur := s.cur
      let s := { s with cur := { Cur.reset with core := c, warp := wi } }
      { takePending s cause sub b with cur := cur }
    | none =>
      let age := ageMode s w
      s.updCore c (fun k =>
        let k := haltAt s.gcc wi .stopped k
        let k := k.updWarp wi (fun w => unwait age (if w.susp = .none then w else backToSwitch w))
        { keepLaunch wi k with semWait := k.semWait.filter (fun x => x.1 != wi) })

/-- Whether the engine of a leaving group is still to be halted: it is told so once, and then stands at a boundary (R225). -/
def engDue (s : State) (h : Nat) : Bool :=
  let g := s.group h
  let e := engOf s g.core
  e.holder == some (BitVec.ofNat 32 h) && g.kept.eng.isNone && (!e.halting || engBoundary e s.gcc)

/-- Whether a leaving group is still to be halted, and stands at a boundary. -/
def haltDue (s : State) (h : Nat) : Bool :=
  let g := s.group h
  let k := s.core g.core
  g.status == .leaving && decide (g.due ≤ s.gcc) &&
    (g.kill || g.allSlots.any (fun w => (s.warp g.core w).status == .run || (s.warp g.core w).status == .halted) || engDue s h) &&
    (match k.current with | some w => !g.allSlots.contains w || atBoundary s g.core | none => true)

/-- An engine as it is kept: what has been under way has landed, but for the rows of a step still to come (R225). -/
def Engine.atRest (gcc : Nat) (e : Engine) : Engine :=
  let toCome (j : RowJob) : List Nat := (List.range (j.m - j.j)).map (fun i => rowKey j.bk (j.row + j.j + i))
  let keys := e.arrJob.toList.flatMap toCome ++ e.rowJob.toList.flatMap toCome
  { e with
    halting := false, rows := e.rows.filter (fun x => keys.contains x.1)
    run := e.run.map (fun r => if keys.isEmpty then { r with done := min r.done (gcc - 1) } else r) }

/-- The engine of a leaving group halts at its boundary, and its state is kept with the cycle at which it stood (R225). -/
def haltEngine (s : State) (h : Nat) : State :=
  let c := (s.group h).core
  let e := engOf s c
  if e.holder ≠ some (BitVec.ofNat 32 h) then s
  else if !engBoundary e s.gcc then updEng s c (fun e => { e with halting := true })
  else
    let s := ((s.core c).ecmds).foldl (readStatus c) s
    let s := s.updGroup h (fun g => { g with kept := { g.kept with eng := some (Engine.atRest s.gcc (engOf s c)), at_ := s.gcc } })
    updEng s c (fun e => { e.idle with holder := e.holder })

/-- PREEMPTION_HALT of group `ev.idx`. -/
def execPreemptionHalt (s : State) : Host.Outcome State Fault Refusal :=
  let h := s.ev.idx
  if !haltDue s h then .refused .notEnabled
  else if (s.group h).kill then .next (killGroup s h)
  else
    let g := s.group h
    .next (haltEngine (g.allSlots.foldl (stopWarp g.core) s) h)

/-! ## Swap-out (R370, R375, R383 to R385) -/

/-- The results that an engine at rest will bring when it runs again. -/
def Engine.rids (e : Engine) : List Nat :=
  e.fills.filterMap (·.rid) ++ (match e.run with | some r => r.rids ++ r.syncRid.toList | none => []) ++
    (e.queue.map (fun x => match x with | .mcall m => m.rids | .mpsw .. => [])).flatten

/-- Whether a swapped-out group still has work under way that will bring a result. -/
def stillOpen (s : State) (h : Nat) : Bool :=
  let g := s.group h
  let c := g.core
  let later := (match g.kept.eng with | some e => e.rids | none => []) ++ ((s.core c).ecmds.filter isHold).filterMap (·.rid)
  g.allSlots.any (fun wi =>
    (s.warp c wi).results.any (fun r => !r.arrived && !later.contains r.rid) ||
    s.ms.reqs.any (fun r => r.core == c && r.warp == wi) ||
    ((s.core c).pwOf wi).any isLate)

/-- Whether a warp is out of the way of a save. -/
def outOfWay (s : State) (c wi : Nat) : Bool :=
  (match (s.warp c wi).status with | .run | .captured _ | .halted => false | _ => true) &&
    s.cores.all (fun x => x.2.accs.all (fun a => !(a.src == c && a.warp == wi)) && x.2.winq.all (fun q => !(q.src == c && q.warp == wi)))

/-- Whether a leaving group has halted. -/
def atRest (s : State) (h : Nat) : Bool :=
  let g := s.group h
  g.status == .leaving && g.allSlots.all (outOfWay s g.core) && !(tget [] s.fr.sends g.core).any (fun x => x.handle == BitVec.ofNat 32 h) && !s.fr.tails.any (fun t => t.handle == h) &&
    ((s.core g.core).eng.holder != some (BitVec.ofNat 32 h) || g.kept.eng.isSome)

/-- The resume address of a stopped warp: where its issuing entry stands. -/
def resumeAt (s : State) (w : Warp) : DWord :=
  match issuingEntry s w with
  | some e => e.pc
  | none => (w.entries.head?.map (·.pc)).getD 0

/-- Save the warps of a group that are not saved yet. -/
def saveWarps (s : State) (g : Group) : List Nat → Except Nat State
  | [] => .ok s
  | wi :: r =>
    match (s.warp g.core wi).status with
    | .saved _ | .resuming _ => saveWarps s g r
    | _ =>
      match saveBlock s g wi [] (resumeAt s (s.warp g.core wi)) with
      | .ok t => saveWarps t g r
      | .error a => .error a

/-- The region of a group as its image holds it: the allotment and, in the reserve, the spilled entries (R273). -/
def savedRegion (s : State) (g : Group) : List Byte :=
  let m := memBytes (s.core g.core).scratch g.region g.regionBytes
  let put (b : List Byte) (wi : Nat) : List Byte :=
    let w := s.warp g.core wi
    let o := align4k g.allot + 3584 * w.wnum
    let l := (w.spilled.map Entry.bytes).flatten
    if w.wnum < 16 then b.take o ++ l ++ b.drop (o + l.length) else b
  g.slots.foldl put m

/-- Bytes of the device's own in the opaque areas that lie outside the blocks just written. -/
def opaqueTail (s : State) (g : Group) : State × List (Nat × List Byte) :=
  let handlersOut := (List.range 4).filter (fun i => (tget? g.handlers i).isNone)
  let spans := handlersOut.map (fun i => (blockAddr g (16 + i) + 0xB000, 0x11000)) ++ g.opaqueSpans.drop (g.warps + 4)
  spans.foldl (fun (r : State × List (Nat × List Byte)) x =>
    let (b, s) := opaqueBytes r.1 x.2
    (s, r.2 ++ [(x.1, b)])) (s, [])

/-- What a group's opaque areas hold, as the part keeps it. -/
def keptOf (s : State) (h : Nat) : Kept :=
  let g := s.group h
  let k := s.core g.core
  let last := (s.residentOn g.core).all (fun x => x.1 == h)
  { inbox := if last then k.inbox else []
    poison := (k.spoison.filter (fun w => decide (g.region ≤ 4 * w) && decide (4 * w < g.region + g.regionBytes))).map (· - g.region / 4)
    red := k.red.filter (fun e => e.handle.toNat == h)
    eng := g.kept.eng, at_ := g.kept.at_
    hq := k.hqueue.filter (fun x => x.handle.toNat == h)
    sems := (k.semRel.filter (fun x => decide (g.region ≤ x.1) && decide (x.1 < g.region + g.regionBytes))).map
      (fun x => (x.1 - g.region, x.2)) }

/-- Write the image of a group, or say at which address it cannot be written. -/
def saveImage (s : State) (h : Nat) : Except Nat State :=
  match saveWarps s (s.group h) (s.group h).allSlots with
  | .error a => .error a
  | .ok s =>
    let g := s.group h
    let base := g.swap.toNat
    let (s, tail) := opaqueTail s g
    match writeSpans ((base + g.scratchAt, savedRegion s g) :: tail) s with
    | .error a => .error a
    | .ok s =>
      let r := match g.record with | some r => ({ r with img := g.swap } : Record).bytes | none => []
      writeSpans [(base, groupBlock s h g true (areaCrc s g) r)] s

/-- The resources of a group that has been saved return to their owners, except the swap area. -/
def releaseSaved (s : State) (h : Nat) : State :=
  let kept := keptOf s h
  let s := s.updGroup h (fun g => { g with kept := kept })
  let g := s.group h
  let c := g.core
  let last := (s.residentOn c).all (fun x => x.1 == h)
  let s := g.allSlots.foldl (fun s w => parkWarp s c w) s
  let g := s.group h
  let s := s.updCore c (fun k =>
    { k with
      warps := k.warps.map (fun (x : Nat × Warp) => if g.allSlots.contains x.1 then (x.1, { x.2 with map := [] }) else x)
      inbox := if last then [] else k.inbox
      red := k.red.filter (fun e => e.handle.toNat != h)
      hqueue := k.hqueue.filter (fun x => x.handle.toNat != h)
      semRel := k.semRel.filter (fun x => decide (x.1 < g.region) || decide (g.region + g.regionBytes ≤ x.1)) })
  freeLease s c h

/-- Save one group, which rejoins its list or waits for its handler. -/
def swapGroup (s : State) (h : Nat) : State :=
  match saveImage s h with
  | .error a =>
    swapFault s (((s.group h).record).getD (plainRecord s .swapFault 0 7 5 (BitVec.ofNat 32 h) 0)) (.group h) a
  | .ok s =>
    let g := s.group h
    let s := releaseSaved s h
    let s := s.updGroup h (fun g => { g with
      status := if g.record.isSome then .held else .waiting, saved := true, fresh := false, open_ := true })
    match g.record with
    | some r => postHeld s false { r with img := g.swap } (.group h)
    | none => s

/-- SWAP_OUT of the quad group of group `ev.idx`. -/
def execSwapOut (s : State) : Host.Outcome State Fault Refusal :=
  let ms := (quadGroup s s.ev.idx).filter (fun h => (s.group h).status == .leaving)
  if ms.isEmpty || !ms.contains s.ev.idx || !ms.all (atRest s) || ms.any (fun h => (s.group h).kill) then .refused .notEnabled
  else .next (ms.foldl swapGroup s)

/-- SWAP_AREA_CLOSE of group `ev.idx`: FLG.OPEN falls. -/
def execSwapAreaClose (s : State) : Host.Outcome State Fault Refusal :=
  let h := s.ev.idx
  let g := s.group h
  if !g.open_ || !(g.status == .held || g.status == .waiting) || stillOpen s h then .refused .notEnabled
  else
    let s := s.updGroup h (fun g => { g with open_ := false })
    let fl := field (areaRead s (g.swap.toNat + 11) 1) 0 1
    match saveVa s .s (g.swap.toNat + 11) (bytesOf 1 (fl / 2 * 2)) with
    | .ok t => .next t
    | .error (_, a) => .next (swapFault s ((g.record).getD (plainRecord s .swapFault 0 7 5 (BitVec.ofNat 32 h) 0)) (.group h) a)

/-! ## Completion (R368, R369) -/

/-- Whether something that a group has issued has not been acknowledged or has not completed. -/
def outstanding (s : State) (h : Nat) : Bool :=
  let g := s.group h
  let c := g.core
  let k := s.core c
  let hw : Word := BitVec.ofNat 32 h
  let e := k.eng
  let mine (n w : Nat) : Bool := n == c && g.allSlots.contains w || g.past.contains (n, w)
  s.ms.reqs.any (fun r => mine r.core r.warp) || s.fr.tails.any (fun t => t.handle == h) ||
    s.cores.any (fun x => x.2.copyq.any (fun q => q.2.any (fun r => r.handle == hw)) || x.2.packets.any (fun p => p.handle == hw) ||
      x.2.accs.any (fun a => mine a.src a.warp) || x.2.winq.any (fun q => mine q.src q.warp)) ||
    k.ecmds.any (fun x => x.handle == hw) || e.holder == some hw && (e.run.isSome || !e.queue.isEmpty || !e.fills.isEmpty) ||
    s.sched.builds.any (fun b => b.handle == hw) || s.sched.incrs.any (fun i => i.handle == hw) ||
    s.ms.flushes.any (fun f => f.core == c && f.dest == s.hd.control.self.toNat) ||
    (tget [] s.fr.sends c).any (fun x => x.handle == hw)

/-- Drain one entry for the warp that allocated it. -/
def drainFor (c : Nat) (s : State) (e : RedEntry) : State :=
  let cur := s.cur
  let s := { s with cur := { Cur.reset with core := c, warp := e.warp } }
  { drainEntry none s e with cur := cur }

/-- The reduction-buffer entries that a group still holds drain as under FLUSHR. -/
def drainGroup (s : State) (h : Nat) : State :=
  let c := (s.group h).core
  let hw : Word := BitVec.ofNat 32 h
  let es := flushOrder s c hw
  es.foldl (drainFor c) (s.updCore c (fun k => { k with red := k.red.filter (fun e => e.handle != hw) }))

/-- What a completed group held returns to its owners. -/
def endGroup (s : State) (h : Nat) : State :=
  let g := s.group h
  let c := g.core
  let s := if (s.residentOn c).all (fun x => x.1 == h) then s.updCore c (fun k => { k with inbox := [] }) else s
  let s := g.slots.foldl (fun s w => freeSlot s c w) s
  let s := freeArea (freeLease s c h) h
  groupGone (s.updGroup h (fun g => { g with status := .done, gone := true })) g.grid false

/-- Whether every warp of a resident group has retired and no start of it waits. -/
def allRetired (s : State) (h : Nat) : Bool :=
  let g := s.group h
  g.status == .resident && g.slots.all (hasEnded s g.core) && g.handlers.isEmpty && (startsOf s g h).isEmpty

/-- GROUP_COMPLETION of group `ev.idx`: its entries drain; once everything has performed, it ends. A killed group counts
at its grid once what it issued has performed. -/
def execGroupCompletion (s : State) : Host.Outcome State Fault Refusal :=
  let h := s.ev.idx
  let g := s.group h
  if g.status = .killed ∧ !g.gone ∧ !outstanding s h then
    .next (groupGone ((freeLease s g.core h).updGroup h (fun g => { g with gone := true })) g.grid true)
  else if !allRetired s h || outstanding s h then .refused .notEnabled
  else if !(flushOrder s g.core (BitVec.ofNat 32 h)).isEmpty then .next (drainGroup s h)
  else .next (endGroup s h)

end Sys2Proof.Machine
end

