-- ==== Sys2Proof/Machine/Launch.lean ====
section
/-!
DEFINITION. The launch of a grid (R356 to R361): the packet, the kernel image and its tables, the launch check with its error
codes, the claim of phase trees, and the queueing of the groups.
-/
namespace Sys2Proof.Machine

/-! ## Packet and image -/

/-- A launch packet (R356). -/
structure Packet64 where
  img : Nat
  pmap : Nat
  param : Nat
  const : Nat
  seed : DWord
  evt : Nat
  pht : Nat
  ngrp : Nat
  plen : Nat
  reloc : Bool
  lastn : Nat
  ok : Bool
  deriving DecidableEq, Repr

def Packet64.parse (b : List Byte) : Packet64 :=
  let n := field b 56 4
  let plen := field b 60 2
  { img := field b 0 8, pmap := field b 8 8, param := field b 16 8, const := field b 24 8, seed := BitVec.ofNat 64 (field b 32 8)
    evt := field b 40 8, pht := field b 48 8, ngrp := n, plen := plen, reloc := field b 62 1 % 2 == 1, lastn := field b 63 1
    ok := field b 0 8 % 64 == 0 && field b 8 8 % 2 == 0 && field b 24 8 % 64 == 0 && field b 40 8 % 8 == 0 && field b 48 8 % 64 == 0 &&
      decide (1 ≤ n) && decide (n ≤ 65536) && field b 62 1 / 2 == 0 && decide (field b 63 1 < 128) && (plen != 0 || field b 16 8 == 0) }

/-- The header of a kernel image (R357). -/
structure Header where
  warps : Nat
  carve : Nat
  age : Bool
  nrole : Nat
  nstat : Nat
  scr : Nat
  plen : Nat
  dlen : Nat
  dofs : Nat
  budget : DWord
  roleofs : Nat
  statofs : Nat
  rtnofs : Nat
  nword : Nat
  nplace : Nat
  placeofs : Nat
  codeofs : Nat
  clen : Nat
  ok : Bool
  deriving DecidableEq, Repr

def Header.parse (b : List Byte) : Header :=
  let within (x lo hi : Nat) : Bool := decide (lo ≤ x) && decide (x ≤ hi)
  { warps := field b 2 1, carve := field b 3 1, age := field b 4 1 % 2 == 1, nrole := field b 5 1, nstat := field b 6 1
    scr := field b 8 4, plen := field b 12 4, dlen := field b 16 4, dofs := field b 20 4, budget := BitVec.ofNat 64 (field b 24 8)
    roleofs := field b 32 4, statofs := field b 36 4, rtnofs := field b 40 4, nword := field b 44 2, nplace := field b 46 2
    placeofs := field b 48 4, codeofs := field b 52 4, clen := field b 56 4
    ok := field b 0 2 == 1 && within (field b 2 1) 1 16 && within (field b 3 1) 2 15 && field b 4 1 / 2 == 0 &&
      within (field b 5 1) 1 8 && within (field b 6 1) 0 64 && field b 7 1 == 0 && within (field b 44 2) 0 8192 && field b 60 4 == 0 }

/-- A role record (R358). -/
def roleOf (img : Nat) (h : Header) (b : List Byte) : Role :=
  { entry := BitVec.ofNat 64 (img + h.codeofs + field b 0 4), cls := field b 4 1
    pools := (List.range 8).map (fun k => field b 6 10 / 2 ^ (10 * k) % 1024) }

/-- Whether a role record is valid; a pool beyond 512 is a matter of the sizes (R358, R360). -/
def roleOk (b : List Byte) : Bool :=
  decide (field b 4 1 ≤ 7) && field b 5 1 == 0

/-- A static-region record (R284). -/
def regionOf (img : Nat) (b : List Byte) : RegionRec :=
  { start := img + field b 0 4, stop := img + field b 4 4, len := field b 8 4, pol := field b 12 1 % 2 == 1, abs := field b 12 1 / 2 % 2 == 1
    aln := field b 13 1, gcc := field b 16 8 }

def regionOk (b : List Byte) : Bool :=
  let abs := field b 12 1 / 2 % 2 == 1
  decide (field b 0 4 < field b 4 4) && decide (1 ≤ field b 8 4) && decide (field b 8 4 ≤ 2 ^ 24) && field b 12 1 / 4 == 0 &&
    (if abs then field b 13 1 == 0 else decide (field b 13 1 ≤ 20) && field b 16 8 == 0) && field b 14 2 == 0 && field b 24 8 == 0

/-- Whether no two regions overlap. -/
def regionsApart : List RegionRec → Bool
  | [] => true
  | r :: l => l.all (fun x => decide (r.stop ≤ x.start) || decide (x.stop ≤ r.start)) && regionsApart l

/-- The pieces of `n` bytes of a list. -/
def chunks (n : Nat) : Nat → List Byte → List (List Byte)
  | 0, _ => []
  | k + 1, b => b.take n :: chunks n k (b.drop n)

/-! ## Access -/

/-- Whether a span translates for a need and holds no poisoned line. -/
def spanOk (s : State) (n : Need) (va len : Nat) : Bool :=
  len == 0 || (pageFirsts va len).all (fun a => match xlate s .s n a with
    | .ok pa =>
      let stop := min (va + len) (a / 65536 * 65536 + 65536) - a
      s.ms.poisoned.all (fun ln => decide (ln < pa / 128) || decide ((pa + stop - 1) / 128 < ln))
    | .error _ => false)

/-- Bytes that a check has found readable. -/
def spanRead (s : State) (va n : Nat) : List Byte := areaRead s va n

/-! ## The launch (R359, R360) -/

/-- What a launch names, once its packet is read. -/
structure Launch where
  pkt : Packet64
  hdr : Header
  trees : List (Nat × BitVec 144)
  deriving DecidableEq, Repr

/-- The records of a phase-tree table with a mask. -/
def treesOf (b : List Byte) : List (Nat × BitVec 144) :=
  (List.range 8).filterMap (fun t =>
    let m : BitVec 144 := BitVec.ofNat 144 (field b (32 * t) 18)
    if m = 0 then none else some (t, m))

/-- The packet at an address, or the code of the check it fails. -/
def packetAt (s : State) (va : Nat) : Except Nat (List Byte) :=
  if va % 64 ≠ 0 then .error 1 else if !spanOk s .read va 64 then .error 2 else .ok (spanRead s va 64)

/-- Read what the claim needs; a packet or table that cannot be read names nothing. -/
def readLaunch (s : State) (b : Except Nat (List Byte)) : Launch :=
  let p := Packet64.parse (match b with | .ok l => l | .error _ => List.replicate 64 0)
  { pkt := p, hdr := .parse (spanRead s p.img 64)
    trees := if p.ok ∧ p.pht ≠ 0 then treesOf (spanRead s p.pht 256) else [] }

/-- The lowest free grid index. -/
def freeIndex (s : State) : Option Nat := (List.range 1024).find? (fun i => !(s.grid i).live)

/-- Whether a live grid holds one of the trees. -/
def treesHeld (s : State) (l : List (Nat × BitVec 144)) : Bool :=
  s.sched.grids.any (fun x => x.2.live && x.2.trees.any (fun t => l.any (fun y => y.1 == t)))

/-- The placement entries of a launch. -/
def placesOf (s : State) (l : Launch) : List Nat :=
  let at_ := if l.pkt.pmap = 0 then l.pkt.img + l.hdr.placeofs else l.pkt.pmap
  let b := spanRead s at_ (2 * l.pkt.ngrp)
  (List.range l.pkt.ngrp).map (fun i => field b (2 * i) 2)

/-- The checks of code 2. -/
def readable (s : State) (l : Launch) : Bool :=
  let p := l.pkt
  let h := l.hdr
  spanOk s .read p.img 64 && (p.pmap == 0 || spanOk s .read p.pmap (2 * p.ngrp)) && spanOk s .read p.param p.plen &&
    (p.pht == 0 || spanOk s .read p.pht 256) && spanOk s .write p.const (p.plen + h.dlen) &&
    (!h.ok || spanOk s .read (p.img + h.roleofs) (16 * h.nrole) && spanOk s .read (p.img + h.statofs) (32 * h.nstat) &&
      (h.nword == 0 || spanOk s .read (p.img + h.rtnofs) (1024 + 8 * h.nword)) && spanOk s .read (p.img + h.placeofs) (2 * h.nplace) &&
      spanOk s .read (p.img + h.dofs) h.dlen && spanOk s .read (p.img + h.codeofs) h.clen)

/-- The static-region records and the role records of an image. -/
def roleBytes (s : State) (l : Launch) : List (List Byte) := chunks 16 l.hdr.nrole (spanRead s (l.pkt.img + l.hdr.roleofs) (16 * l.hdr.nrole))

def statBytes (s : State) (l : Launch) : List (List Byte) := chunks 32 l.hdr.nstat (spanRead s (l.pkt.img + l.hdr.statofs) (32 * l.hdr.nstat))

/-- The checks of code 3. -/
def headerValid (s : State) (l : Launch) : Bool :=
  l.hdr.ok && (roleBytes s l).all roleOk && (statBytes s l).all regionOk && regionsApart ((statBytes s l).map (regionOf l.pkt.img)) &&
    decide (l.hdr.codeofs + l.hdr.clen < 2 ^ 32)

/-- The check of code 4 for one placement entry. -/
def placeOk (s : State) (h : Header) (e : Nat) : Bool :=
  let c := e % 256
  let dt := e / 256 % 8
  e / 2 ^ 11 % 16 == 0 && coreThere s c && quadOf c != 32 && (dt == 0 || dt.testBit (dieType c)) &&
    decide (Config.carveMin c ≤ h.carve) && decide (h.carve ≤ Config.carveMax c)

/-- The largest pool of a bank in a role table (R277). -/
def largestPool (rs : List Role) (k : Nat) : Nat := (rs.map (fun r => r.pools.getD k 0)).foldl max 0

/-- The checks of code 5. -/
def sizesOk (rs : List Role) (h : Header) (places : List Nat) : Bool :=
  let region := regionBytes h.scr h.warps
  let cs := places.map (· % 256)
  let on (c : Nat) : Nat := (cs.filter (· == c)).length
  let inQuad (q : Nat) : Nat := (cs.filter (fun c => quadOf c == q)).length
  decide (region ≤ h.carve * 2 ^ 20) && (List.range 8).all (fun k => decide (largestPool rs k ≤ 512)) &&
    cs.eraseDups.all (fun c =>
      decide (inQuad (quadOf c) * h.warps ≤ 64) && decide (on c * h.warps ≤ 28) &&
      (List.range 8).all (fun k => decide (on c * largestPool rs k ≤ 512)) && decide (on c * region ≤ h.carve * 2 ^ 20) &&
      (h.nword == 0 || decide (on c ≤ 1)))

/-- The checks of code 7. -/
def treesOk (s : State) (l : Launch) (places : List Nat) : Bool :=
  l.pkt.pht == 0 ||
    (let b := spanRead s l.pkt.pht 256
     (List.range 8).all (fun t => zeroAt b (32 * t + 18) 14)) &&
    l.trees.all (fun t => (List.range 144).all (fun c => !t.2.getLsbD c || places.any (fun e => e % 256 == c)))

/-- The first check of R360 that fails, by its code. -/
def launchCode (s : State) (b : Except Nat (List Byte)) (l : Launch) : Option Nat :=
  let rs := (roleBytes s l).map (roleOf l.pkt.img l.hdr)
  match b with
  | .error e => some e
  | .ok _ =>
  if !l.pkt.ok then some 1
  else if !readable s l then some 2
  else if !headerValid s l then some 3
  else
    let places := placesOf s l
    if (l.pkt.pmap = 0 ∧ l.hdr.nplace < l.pkt.ngrp) ∨ !places.all (placeOk s l.hdr) then some 4
    else if !sizesOk rs l.hdr places then some 5
    else if l.pkt.plen ≠ l.hdr.plen then some 6
    else if !treesOk s l places then some 7
    else none

/-- Whether a launch can be taken up: an index is free and no live grid holds its trees. -/
def launchOpen (s : State) (l : Launch) : Bool := (freeIndex s).isSome && !treesHeld s l.trees

/-- The claim of a tree sets every core's previous phase to 0 (R187, R359). -/
def claimTree (s : State) (x : Nat × BitVec 144) : State :=
  let s := { s with cores := s.cores.map (fun (k : Nat × Core) => (k.1, { k.2 with phases := tdel k.2.phases x.1 })) }
  { s with sched := { s.sched with
    treeMask := tset s.sched.treeMask x.1 x.2, released := tset s.sched.released x.1 0 } }

/-- One group of a grid, waiting at its core. -/
def newGroup (s : State) (l : Launch) (i n e : Nat) : Group :=
  let h := l.hdr
  let rs := (roleBytes s l).map (roleOf l.pkt.img h)
  { Group.empty with
    status := .waiting, grid := i, num := n, core := e % 256, warps := h.warps, roles := rs
    pools := (rs.getD 0 ⟨0, 0, []⟩).pools, age := h.age, budget := h.budget, allot := h.scr
    stats := (statBytes s l).map (regionOf l.pkt.img), carve := h.carve, lease := h.nword != 0, reloc := l.pkt.reloc || e / 2 ^ 15 == 1
    dt := e / 256 % 8, lastn := l.pkt.lastn, rtn := l.pkt.img + h.rtnofs, nword := h.nword }

/-- Copy bytes at .sy for a launch. -/
def copySpan (s : State) (from_ dst n : Nat) : State :=
  match writeVa (countRead s 8 .s from_ n) .s dst (spanRead s from_ n) with
  | .ok t => t
  | .error _ => s

/-- The constants of a grid: the parameters are copied, and then the data of the image (R356). -/
def writeConst (s : State) (l : Launch) : State :=
  copySpan (copySpan s l.pkt.param l.pkt.const l.pkt.plen) (l.pkt.img + l.hdr.dofs) (l.pkt.const + l.pkt.plen) l.hdr.dlen

/-- A launch that has passed its check starts as grid `i`: the constants are copied and the groups queued. -/
def startGrid (s : State) (l : Launch) (i : Nat) (stream : Option Nat) (prio : Nat) : State :=
  let places := placesOf s l
  let gs := places.zipIdx.map (fun x => (i * 2 ^ 16 + x.2, newGroup s l i x.2 x.1))
  let s := writeConst s l
  let s := { s with sched := { s.sched with
    lNext := s.sched.lNext + 1
    qbars := s.sched.qbars.filter (fun x => x.1 / 256 != i)
    groups := gs.foldl (fun t (x : Nat × Group) => tset t x.1 x.2) (s.sched.groups.filter (fun x => x.2.grid != i)) } }
  s.updGrid i (fun _ =>
    { live := true, prio := prio, l := s.sched.lNext, stream := stream, evt := BitVec.ofNat 64 l.pkt.evt, trees := l.trees.map (·.1)
      ngrp := l.pkt.ngrp, left := l.pkt.ngrp, bad := false, const := BitVec.ofNat 64 l.pkt.const, constLen := l.pkt.plen + l.hdr.dlen
      seed := l.pkt.seed, pmap := BitVec.ofNat 64 (if l.pkt.pmap = 0 then l.pkt.img + l.hdr.placeofs else l.pkt.pmap)
      allot := l.hdr.scr, img := BitVec.ofNat 64 l.pkt.img, imgLen := l.hdr.codeofs + l.hdr.clen })

/-- The reads of a launch's header, tables and map, at their homes (R438). -/
def countLaunch (s : State) (l : Launch) : State :=
  let p := l.pkt
  let h := l.hdr
  let s := countRead (countRead s 8 .s p.img 64) 8 .s (if p.pmap = 0 then p.img + h.placeofs else p.pmap) (2 * p.ngrp)
  let s := countRead s 8 .s p.pht (if p.pht = 0 then 0 else 256)
  if h.ok then countRead (countRead s 8 .s (p.img + h.roleofs) (16 * h.nrole)) 8 .s (p.img + h.statofs) (32 * h.nstat) else s

/-- Take up a launch: the claim, then the check, then the start, or the code of the check that failed. -/
def launch (s : State) (b : Except Nat (List Byte)) (stream : Option Nat) (prio : Nat) : State × Option Nat × Nat :=
  let l := readLaunch s b
  let i := (freeIndex s).getD 0
  let s := countLaunch (l.trees.foldl claimTree s) l
  match launchCode s b l with
  | some e => (dropTrees s (l.trees.map (·.1)), some e, i)
  | none => (startGrid s l i stream prio, none, i)

end Sys2Proof.Machine
end

