-- ==== Sys2Proof/Machine/Commands.lean ====
section
/-!
DEFINITION. Command streams (R350 to R355, R361): the stream table, the choice of the next command, LAUNCH_GRID, WAIT_EVENT,
SIGNAL, COPY and NEXT, the polls of waiting streams, child grids (R372) and the doorbell (R459).
-/
namespace Sys2Proof.Machine

/-! ## The stream table (R350) -/

def streamOf (s : State) (i : Nat) : Stream := tget .reset s.sched.streams i

def setStream (s : State) (i : Nat) (f : Stream → Stream) : State :=
  { s with sched := { s.sched with streams := tset s.sched.streams i (f (streamOf s i)) } }

/-- The device writes HEAD, STATE and ERR of an entry; what cannot be written is not. -/
def postStream (s : State) (i : Nat) : State :=
  let x := streamOf s i
  let at_ := s.sched.streamTable.toNat + 32 * i
  let put (va : Nat) (b : List Byte) (s : State) : State := match writeVa s .s va b with | .ok t => t | .error _ => s
  put (at_ + 9) (x.state :: bytesOf 2 x.err.toNat) (put at_ (bytesOf 8 x.head.toNat) s)

/-- Change a stream and write its entry. -/
def moveStream (s : State) (i : Nat) (f : Stream → Stream) : State := postStream (setStream s i f) i

/-- A stream stops with an error code; its earlier commands run on (R361). -/
def failStream (s : State) (i code : Nat) : State := moveStream s i (fun x => { x with state := 4, err := BitVec.ofNat 16 code })

/-- One entry as the reread finds it: a bad one stops the stream; one that is on starts where it was off or had failed. -/
def rereadEntry (b : List Byte) (s : State) (i : Nat) : State :=
  let e := (b.drop (32 * i)).take 32
  let ctl := field e 8 1
  let s := setStream s i (fun x => { x with ctl := BitVec.ofNat 8 ctl, swb := BitVec.ofNat 64 (field e 16 8), swl := BitVec.ofNat 64 (field e 24 8) })
  let x := streamOf s i
  if ctl / 8 % 16 ≠ 0 ∨ field e 12 4 ≠ 0 ∨ field e 0 8 % 32 ≠ 0 ∨ field e 16 8 % 65536 ≠ 0 then failStream s i 1
  else if ctl < 128 then (if x.state = 0 then s else moveStream s i (fun x => { x with state := 0 }))
  else if x.state = 0 ∨ x.state = 4 then
    moveStream s i (fun x => { x with
      state := if x.waitEv.isSome then 3 else 1, err := 0, head := BitVec.ofNat 64 (field e 0 8) })
  else s

/-- Why an access of the command core failed, as cause and subcode. -/
def failCause (s : State) (n : Need) (va sub : Nat) : Cause × Nat :=
  match xlate s .s n va with
  | .error _ => (.translationFault, sub)
  | .ok _ => (.poisonedData, 0)

/-- The command core rereads the whole table; one that it cannot read changes nothing. -/
def rereadTable (s : State) : State :=
  match readVa s .s s.sched.streamTable.toNat 2048 with
  | .ok b => (List.range 64).foldl (rereadEntry b) (countRead s 8 .s s.sched.streamTable.toNat 2048)
  | .error (sub, va) =>
    let (c, n) := failCause s .read va sub
    postPlain s { plainRecord s c n 8 0 0xFFFFFFFF (BitVec.ofNat 64 va) with core := 128 }

/-- A host write of the stream-table register. -/
def writeStreamTable (s : State) (v : DWord) : State := rereadTable { s with sched := { s.sched with streamTable := v } }

def execStreamTableAddress (s : State) : Host.Outcome State Fault Refusal := .next (writeStreamTable s s.ev.val)

/-! ## The next command (R351, R353, R355) -/

/-- A command as read. -/
structure Command where
  op : Nat
  ser : Bool
  arg : Nat
  val : DWord
  sel : Nat
  ok : Bool
  deriving DecidableEq, Repr

/-- Where the operands of each opcode end (R352). -/
def argEnd (op : Nat) : Nat :=
  match op with
  | 2 => 24
  | 3 => 25
  | 4 | 5 | 6 => 17
  | _ => 16

/-- The alignment of the address of each opcode. -/
def argAlign (op : Nat) : Nat :=
  match op with
  | 2 | 3 => 8
  | 9 => 32
  | 1 | 4 => 64
  | _ => 1

def Command.parse (b : List Byte) : Command :=
  let op := field b 0 1
  let sel := field b 16 1
  let selOk := match op with
    | 3 => decide (field b 24 1 ≤ 1)
    | 4 | 5 | 6 => decide (sel ≤ 3)
    | _ => true
  { op := op, ser := field b 1 1 % 2 == 1, arg := field b 8 8, val := BitVec.ofNat 64 (field b 16 8)
    sel := if op = 3 then field b 24 1 else sel
    ok := decide (1 ≤ op) && decide (op ≤ 9) && field b 1 1 / 2 == 0 && zeroAt b 2 6 && zeroAt b (argEnd op) (32 - argEnd op) &&
      field b 8 8 % argAlign op == 0 && selOk }

/-- Whether the BIN and COVER of R396 let a COVER of a die start. -/
def coverFree (s : State) (i die : Nat) : Bool := (streamOf s i).cmds.all (fun c => !(c.op == 5 && c.die == die))

/-- Whether a command can be taken up now. A malformed one is, and stops its stream; a NEXT without an address waits. -/
def commandReady (s : State) (i : Nat) (c : Command) : Bool :=
  let x := streamOf s i
  if !c.ok then true
  else if (c.ser || c.op == 3) && !x.cmds.isEmpty then false
  else match c.op with
    | 1 => launchOpen s (readLaunch s (packetAt s c.arg))
    | 4 => decide ((tget [] (s.core 128).copyq c.sel).length < 16)
    | 6 => coverFree s i c.sel
    | _ => true

/-- The command at the head of a stream: none while the stream is off, waits or has failed, or while a checkpoint stops the
command core (R445). `some none` is one that cannot be read. -/
def headCommand (s : State) (i : Nat) : Option (Option Command) :=
  let x := streamOf s i
  if x.state ≠ 1 ∨ x.waitEv.isSome ∨ inCheckpoint s then none
  else match readVa s .s x.head.toNat 32 with
    | .ok b =>
      let c := Command.parse b
      if commandReady s i c then some (some c) else none
    | .error _ => some none

/-- Whether a stream goes before another: by PRIO, then cyclically from the one after the last served. -/
def streamBefore (s : State) (a b : Nat) : Bool :=
  let pa := (streamOf s a).ctl.toNat % 8
  let pb := (streamOf s b).ctl.toNat % 8
  let turn (i : Nat) : Nat := (i + 63 - s.sched.lastStream) % 64
  if pa ≠ pb then decide (pb < pa) else decide (turn a < turn b)

def firstStream (s : State) : List Nat → Option Nat
  | [] => none
  | x :: r =>
    match firstStream s r with
    | none => some x
    | some y => if streamBefore s y x then some y else some x

/-- The stream that the command core serves next. -/
def nextStream (s : State) : Option (Nat × Option Command) :=
  match firstStream s ((List.range 64).filter (fun i => (headCommand s i).isSome)) with
  | some i => (headCommand s i).map (fun c => (i, c))
  | none => none

/-- The step that takes up a command: one that cannot be read, or is none of R351, is found out as a launch is checked. -/
def commandOp (c : Option Command) : Nat :=
  match c with
  | none => 1
  | some c => if 1 ≤ c.op ∧ c.op ≤ 9 then c.op else 1

/-- Take up the next command of an opcode: a malformed one stops its stream with code 1, one that cannot be read with code 2. -/
def takeCommand (s : State) (op : Nat) (k : State → Nat → Command → State) : Host.Outcome State Fault Refusal :=
  match nextStream s with
  | none => .refused .notEnabled
  | some (i, c) =>
    if commandOp c ≠ op then .refused .notEnabled
    else
      let s := countRead { s with sched := { s.sched with lastStream := i } } 8 .s (streamOf s i).head.toNat 32
      match c with
      | none => .next (failStream s i 2)
      | some c => .next (if c.ok then k s i c else failStream s i 1)

/-- A command has started: HEAD passes it. -/
def passCommand (s : State) (i : Nat) : State := moveStream s i (fun x => { x with head := x.head + 32 })

/-- A command that has started runs on, under a number. -/
def runCommand (s : State) (i : Nat) (c : Cmd) : State := setStream s i (fun x => { x with cmds := x.cmds ++ [c] })

/-! ## The commands (R352) -/

def execLaunchGrid (s : State) : Host.Outcome State Fault Refusal :=
  takeCommand s 1 fun s i c =>
    match launch (countRead s 8 .s c.arg 64) (packetAt s c.arg) (some i) ((streamOf s i).ctl.toNat % 8) with
    | (s, some e, _) => failStream s i e
    | (s, none, g) => passCommand (runCommand { s with nextId := s.nextId + 1 } i ⟨1, s.nextId, some g, 0, 0, 0⟩) i

/-- The interval at which a waiting stream looks again (R354). -/
def pollBound (i : Nat) : Nat := if i < 32 then 1024 else 8192

/-- The next look of a waiting stream, within its interval. -/
def setPoll (s : State) (i : Nat) : State :=
  let (n, s) := s.draw
  setStream s i (fun x => { x with nextPoll := s.gcc + 1 + Config.freeNat n % pollBound i })

/-- A WAIT_EVENT reads its counter with LD.ACQ.sy: the stream goes on, waits, or fails. -/
def tryEvent (s : State) (i : Nat) : State :=
  match (streamOf s i).waitEv with
  | none => s
  | some (a, v) =>
    match readVa s .s a.toNat 8 with
    | .error _ => failStream (setStream s i (fun x => { x with waitEv := none })) i 2
    | .ok b =>
      let s := countRead s 8 .s a.toNat 8
      if v.toNat ≤ ofBytes b then moveStream s i (fun x => { x with waitEv := none, state := 1 })
      else if (streamOf s i).state = 3 then setPoll s i
      else setPoll (moveStream s i (fun x => { x with state := 3 })) i

def execWaitEvent (s : State) : Host.Outcome State Fault Refusal :=
  takeCommand s 2 fun s i c =>
    tryEvent (setStream (passCommand s i) i (fun x => { x with waitEv := some (BitVec.ofNat 64 c.arg, c.val) })) i

/-- Whether a waiting stream looks again now. -/
def pollDue (s : State) (i st : Nat) : Bool := (streamOf s i).state.toNat == st && decide ((streamOf s i).nextPoll ≤ s.gcc)

/-- WAIT_EVENT_POLL of stream `ev.idx`. -/
def execWaitEventPoll (s : State) : Host.Outcome State Fault Refusal :=
  if pollDue s s.ev.idx 3 then .next (tryEvent s s.ev.idx) else .refused .notEnabled

/-- SIGNAL: the add wraps, the set replaces; the line must be there and sound. -/
def execSignal (s : State) : Host.Outcome State Fault Refusal :=
  takeCommand s 3 fun s i c =>
    let r := if c.sel = 0 then addCounter s .s c.arg c.val
      else match writeVa s .s c.arg (bytesOf 8 c.val.toNat) with
        | .ok t => .ok t
        | .error (e, _) => .error (.translationFault, e)
    match r with
    | .ok t => passCommand t i
    | .error _ => failStream s i 2

/-- COPY: the record is read as it enters its queue on core 128. -/
def execCopyCommand (s : State) : Host.Outcome State Fault Refusal :=
  takeCommand s 4 fun s i c =>
    match readVa s .s c.arg 64 with
    | .error _ => failStream s i 2
    | .ok b =>
      let s := countRead s 8 .s c.arg 64
      let id := s.nextId
      let s := { s with nextId := id + 1 }
      let r : CopyRec :=
        { bytes := b, handle := 0xFFFFFFFF, core := 128, warp := 255, rid := none, stream := some i, row := 0, halted := false
          started := false, level := .s, leaves := [], id := id, due := s.gcc + 1, region := false, deps := [] }
      let s := s.updCore 128 (fun k => { k with copyq := tset k.copyq c.sel (tget [] k.copyq c.sel ++ [r]) })
      passCommand (runCommand s i ⟨4, id, none, 0, 0, 0⟩) i

/-- NEXT: HEAD takes the address; without one the stream waits. -/
def execNext (s : State) : Host.Outcome State Fault Refusal :=
  takeCommand s 9 fun s i c =>
    if c.arg ≠ 0 then moveStream s i (fun x => { x with head := BitVec.ofNat 64 c.arg })
    else setPoll (moveStream s i (fun x => { x with state := 2 })) i

/-- NEXT_POINTER_SEEN of stream `ev.idx`: it looks at the address again; a new one is taken, or found malformed. -/
def execNextPointerSeen (s : State) : Host.Outcome State Fault Refusal :=
  let i := s.ev.idx
  if !pollDue s i 2 then .refused .notEnabled
  else match readVa s .s ((streamOf s i).head.toNat + 8) 8 with
    | .error _ => .next (failStream s i 2)
    | .ok b =>
      let s := countRead s 8 .s ((streamOf s i).head.toNat + 8) 8
      let a := ofBytes b
      if a = 0 then .next (setPoll s i)
      else if a % 32 ≠ 0 then .next (failStream s i 1)
      else .next (moveStream s i (fun x => { x with state := 1, head := BitVec.ofNat 64 a }))

/-! ## Child grids (R372) -/

/-- The packet of a child as its LAUNCH read it; one that lay in a poisoned line cannot be read. -/
def Child.body (x : Child) : Except Nat (List Byte) := match x.pkt with | some b => .ok b | none => .error 2

/-- The record of a child that fails its check, with its tag. -/
def childRecord (s : State) (core : Nat) (c : Child) (code : Nat) : Record :=
  { plainRecord s .illegalOperand code 8 0xFF c.parent c.packet with
    core := core, warp := c.warp, lanes := 1#128 <<< c.lane, pc := c.seq.setWidth 64 }

/-- CHILD_TAKE of queue `ev.idx` of core `ev.core`: its head is checked, and started or dropped. -/
def execChildTake (s : State) : Host.Outcome State Fault Refusal :=
  let c := s.ev.core
  let q := s.ev.idx
  match (tget [] (s.core c).childq q) with
  | [] => .refused .notEnabled
  | x :: r =>
    let parent := gridOf x.parent
    if !launchOpen s (readLaunch s x.body) || inCheckpoint s then .refused .notEnabled
    else
      let s := s.updCore c (fun k => { k with childq := tset k.childq q r })
      let prio := match x.stream with | some si => (streamOf s si).ctl.toNat % 8 | none => (s.grid parent).prio
      match launch s x.body x.stream prio with
      | (s, none, _) => .next s
      | (s, some e, _) =>
        let s := s.updGrid parent (fun g => { g with bad := g.bad || g.live && g.l == x.l })
        .next (postPlain s (childRecord s c x e))

/-! ## The doorbell (R459) -/

/-- A write of the doorbell: a record with cause 31 enters the S ring. -/
def ringDoorbell (s : State) : State := postPlain s { plainRecord s .doorbell 0 6 0xFF 0xFFFFFFFF 0 with core := 128 }

/-- DOORBELL. -/
def execDoorbell (s : State) : Host.Outcome State Fault Refusal := .next (ringDoorbell s)

end Sys2Proof.Machine
end

