-- ==== Sys2Proof/Machine/Frames.lean ====
section
/-!
DEFINITION. The frame path (R393 to R408): BIN and COVER, guide tiles across Privet, the arrival-handler warps that tiles and
remote writes start (R279 to R281), and the governor.
-/
namespace Sys2Proof.Machine

/-! ## Coverage (R394) -/

/-- The vertices of a primitive record, or none when one is not finite. -/
def vertices (b : List Byte) : Option (List (Exact × Exact)) :=
  let xs := (List.range 6).map (fun i => finite (field b (4 * i) 4))
  match xs with
  | [some x0, some y0, some x1, some y1, some x2, some y2] => some [(x0, y0), (x1, y1), (x2, y2)]
  | _ => none

/-- Twice the signed area of the triangle of three points. -/
def area2 (a b c : Exact × Exact) : Exact :=
  ((b.1.sub a.1).mul (c.2.sub a.2)).sub ((c.1.sub a.1).mul (b.2.sub a.2))

/-- A triangle with its vertices in the order of positive area, or none when it covers nothing. -/
def oriented (b : List Byte) : Option (List (Exact × Exact)) :=
  match vertices b with
  | some [v0, v1, v2] =>
    let s := (area2 v0 v1 v2).sign
    if s = 0 then none else if s < 0 then some [v0, v2, v1] else some [v0, v1, v2]
  | _ => none

/-- Whether a centre lies inside an edge, the top and left ones included. -/
def insideEdge (a b c : Exact × Exact) : Bool :=
  let dy := b.2.sub a.2
  let dx := b.1.sub a.1
  let e := ((dx.mul (c.2.sub a.2)).sub (dy.mul (c.1.sub a.1))).sign
  let tl := decide (dy.sign < 0) || dy.sign == 0 && decide (dx.sign > 0)
  decide (e > 0) || e == 0 && tl

/-- The centre of a pixel. -/
def centre (x y : Nat) : Exact × Exact := (⟨2 * (x : Int) + 1, -1⟩, ⟨2 * (y : Int) + 1, -1⟩)

def coversPixel (t : Option (List (Exact × Exact))) (x y : Nat) : Bool :=
  match t with
  | some [a, b, c] =>
    let p := centre x y
    insideEdge a b p && insideEdge b c p && insideEdge c a p
  | _ => false

/-- The mask of a triangle over tile `(tx, ty)`, as 128 bytes. -/
def tileMask (t : Option (List (Exact × Exact))) (tx ty : Nat) : List Byte :=
  (List.range 128).map (fun i => BitVec.ofNat 8 ((List.range 8).foldl (fun m j =>
    let n := 8 * i + j
    if coversPixel t (32 * tx + n % 32) (32 * ty + n / 32) then m + 2 ^ j else m) 0))

def coversTile (t : Option (List (Exact × Exact))) (tx ty : Nat) : Bool := (tileMask t tx ty).any (· != 0)

/-! ## BIN and COVER (R393, R395, R396) -/

/-- The block of a BIN or COVER. -/
structure BinBlock where
  prim : Nat
  nprim : Nat
  capb : Nat
  wt : Nat
  ht : Nat
  bins : Nat
  out : Nat
  ok : Bool
  deriving DecidableEq, Repr

def BinBlock.parse (cover : Bool) (va : Nat) (b : List Byte) : BinBlock :=
  let within (x lo hi : Nat) : Bool := decide (lo ≤ x) && decide (x ≤ hi)
  let wt := field b 12 2
  let ht := field b 14 2
  if cover then
    let prim := field b 24 8
    { prim := prim, nprim := 0, capb := field b 8 4, wt := wt, ht := ht, bins := field b 0 8, out := field b 16 8
      ok := va % 64 == 0 && within (field b 8 4) 1 65536 && within wt 1 512 && within ht 1 512 && field b 0 8 % 64 == 0 &&
        field b 16 8 % 64 == 0 && prim % 32 == 0 && zeroAt b 32 32 }
  else
    { prim := field b 0 8, nprim := field b 8 4, capb := field b 24 4, wt := wt, ht := ht, bins := field b 16 8, out := 0
      ok := va % 64 == 0 && within (field b 8 4) 0 16777216 && within (field b 24 4) 1 65536 && within wt 1 512 && within ht 1 512 &&
        field b 0 8 % 32 == 0 && field b 16 8 % 64 == 0 && zeroAt b 28 36 }

/-- A read of a binner or a mask generator of a die (R396). -/
def binRead (s : State) (die va n : Nat) : State × Except Unit (List Byte) :=
  match readOn s die .s va n with
  | .ok b => (countRead s die .s va n, .ok b)
  | .error _ => (s, .error ())

/-- Whether the zero bytes of a primitive record are zero (R6, R393). -/
def primOk (b : List Byte) : Bool := zeroAt b 28 4

/-- The primitives of a BIN, in order. -/
def primsOf (s : State) (die : Nat) (d : BinBlock) : State × Except Unit (List (Option (List (Exact × Exact)))) :=
  match binRead s die d.prim (32 * d.nprim) with
  | (s, .ok b) =>
    let ps := chunks 32 d.nprim b
    (s, if ps.all primOk then .ok (ps.map oriented) else .error ())
  | (s, .error _) => (s, .error ())

/-- The bytes of the bin of one tile. -/
def binBytes (d : BinBlock) (ps : List (Option (List (Exact × Exact)))) (tx ty : Nat) : List Byte :=
  let l := (ps.zipIdx.filter (fun x => coversTile x.1 tx ty)).map (·.2)
  let kept := l.take d.capb
  bytesOf 4 (kept.length + (if d.capb < l.length then 2 ^ 31 else 0)) ++ List.replicate 60 0 ++ (kept.map (bytesOf 4)).flatten

/-- Write one area after another; the first that fails translation or finds a poisoned line stops the command, and the areas
before it keep what was written (R396). -/
def writeAreas (die : Nat) (f : State → Nat → State × Except Unit (Nat × List Byte)) : List Nat → State → State × Bool
  | [], s => (s, true)
  | b :: r, s =>
    match f s b with
    | (s, .error _) => (s, false)
    | (s, .ok (va, l)) =>
      match strictOn s die .s va l with
      | .ok t => writeAreas die f r t
      | .error _ => (s, false)

def binAreas (s : State) (die : Nat) (d : BinBlock) : State × Bool :=
  match primsOf s die d with
  | (s, .error _) => (s, false)
  | (s, .ok ps) =>
    writeAreas die (fun s b => (s, .ok (d.bins + b * (64 + 4 * d.capb), binBytes d ps (b % d.wt) (b / d.wt))))
      (List.range (d.wt * d.ht)) s

/-- The coverage records of the bin entries of one tile. -/
def coverRecords (die : Nat) (d : BinBlock) (tx ty : Nat) : List Nat → State → State × Except Unit (List Byte)
  | [], s => (s, .ok [])
  | i :: r, s =>
    match binRead s die (d.prim + 32 * i) 32 with
    | (s, .error _) => (s, .error ())
    | (s, .ok b) =>
      if !primOk b then (s, .error ())
      else match coverRecords die d tx ty r s with
        | (s, .ok l) => (s, .ok (bytesOf 4 (field b 24 4) ++ List.replicate 12 0 ++ tileMask (oriented b) tx ty ++ l))
        | (s, .error _) => (s, .error ())

/-- The coverage area of one tile. -/
def coverArea (die : Nat) (d : BinBlock) (s : State) (b : Nat) : State × Except Unit (Nat × List Byte) :=
  match binRead s die (d.bins + b * (64 + 4 * d.capb)) 64 with
  | (s, .error _) => (s, .error ())
  | (s, .ok h) =>
    let n := min (field h 0 4 % 2 ^ 31) d.capb
    match binRead s die (d.bins + b * (64 + 4 * d.capb) + 64) (4 * n) with
    | (s, .error _) => (s, .error ())
    | (s, .ok l) =>
      match coverRecords die d (b % d.wt) (b / d.wt) ((chunks 4 n l).map ofBytes) s with
      | (s, .ok r) => (s, .ok (d.out + b * (64 + 144 * d.capb), bytesOf 4 (field h 0 4) ++ List.replicate 60 0 ++ r))
      | (s, .error _) => (s, .error ())

def coverAreas (s : State) (die : Nat) (d : BinBlock) : State × Bool :=
  writeAreas die (coverArea die d) (List.range (d.wt * d.ht)) s

/-- A BIN or COVER of stream `i`: its areas are written, and it completes once they have performed. -/
def startBin (cover : Bool) (s : State) (i : Nat) (c : Command) : State :=
  match binRead s c.sel c.arg 64 with
  | (s, .error _) => failStream s i 8
  | (s, .ok b) =>
    let d := BinBlock.parse cover c.arg b
    if !d.ok then failStream s i 8
    else match (if cover then coverAreas s c.sel d else binAreas s c.sel d) with
      | (t, false) => failStream t i 8
      | (t, true) =>
        let id := t.nextId
        let t := runCommand { t with nextId := id + 1 } i ⟨c.op, id, none, 0, 0, c.sel⟩
        passCommand { t with fr := { t.fr with binCover := t.fr.binCover ++ [(i, id, c.sel)] } } i

def execBin (s : State) : Host.Outcome State Fault Refusal := takeCommand s 5 (startBin false)

def execCover (s : State) : Host.Outcome State Fault Refusal := takeCommand s 6 (startBin true)

/-- BIN_COVER_COMPLETION of command `ev.idx2` of stream `ev.idx`. -/
def execBinCoverCompletion (s : State) : Host.Outcome State Fault Refusal :=
  match s.fr.binCover.find? (fun x => x.1 == s.ev.idx && x.2.1 == s.ev.idx2) with
  | none => .refused .notEnabled
  | some x => .next (endCommand { s with fr := { s.fr with binCover := s.fr.binCover.erase x } } x.1 x.2.1)

/-! ## Guide tiles across Privet (R398 to R402) -/

/-- The group of a grid that is resident on a core, and not leaving. -/
def landGroup (s : State) (grid c : Nat) : Option (Nat × Group) :=
  if (quadState s (quadOf c)).st ≠ 0 then none
  else s.sched.groups.find? (fun x => x.2.core == c && x.2.grid == grid && (x.2.status == .resident || x.2.status == .leaving))

/-- A send record (R400). -/
structure SendRec where
  dcore : Nat
  hnd : Bool
  phc : Bool
  srco : Nat
  dsto : Nat
  semo : Option Nat
  tag0 : Word
  tag1 : Word
  ptag : Word
  doneo : Option Nat
  haddr : DWord
  ok : Bool
  deriving DecidableEq, Repr

def SendRec.parse (b : List Byte) : SendRec :=
  let opt (n : Nat) : Option Nat := if n = 0xFFFFFFFF then none else some n
  let word (o : Nat) : Word := BitVec.ofNat 32 (field b o 4)
  let fl := field b 2 1
  let sem := opt (field b 12 4)
  let done := opt (field b 28 4)
  let aligned (x : Option Nat) : Bool := match x with | some n => n % 4 == 0 | none => true
  { dcore := field b 1 1, hnd := fl % 2 == 1, phc := fl / 2 % 2 == 1, srco := field b 4 4, dsto := field b 8 4, semo := sem
    tag0 := word 16, tag1 := word 20, ptag := word 24, doneo := done, haddr := BitVec.ofNat 64 (field b 32 8)
    ok := field b 0 1 == 1 && decide (field b 1 1 < 16) && fl / 4 == 0 && field b 3 1 == 0 && zeroAt b 40 24 &&
      field b 4 4 % 64 == 0 && field b 8 4 % 64 == 0 && aligned sem && aligned done }

/-- The record of a send that is dropped (R392, R402). -/
def sendDropped (s : State) (core : Nat) (h : Word) (c : Cause) (ak : Nat) (addr : Nat) : State :=
  postPlain s { plainRecord s c 0 1 ak h (BitVec.ofNat 64 addr) with core := core }

/-- Whether a span of a scratchpad holds a poisoned word. -/
def spanPoison (k : Core) (a n : Nat) : Bool := k.spoison.any (fun w => decide (a / 4 ≤ w) && decide (4 * w < a + n))

/-- The increment of DONEO, where it lies in the group. -/
def countDone (s : State) (c : Nat) (g : Group) (r : SendRec) : State :=
  match r.doneo with
  | some o => if o % 4 = 0 ∧ o + 4 ≤ g.allot then s.updCore c (fun k => semAdd k (g.region + o) 1) else s
  | none => s

/-- The sender takes one record: the tile sets out, or the record is dropped; DONEO counts in both cases. -/
def sendGuide (s : State) (x : Send) (g : Group) : State :=
  let k := s.core x.core
  let b := memBytes k.scratch (g.region + x.off) 64
  let r := SendRec.parse b
  let at_ := g.region + r.srco
  let past := decide (g.allot < r.srco + 16384) || (match r.doneo with | some o => decide (g.allot < o + 4) | none => false)
  let t := countDone s x.core g r
  if spanPoison k (g.region + x.off) 64 then sendDropped t x.core x.handle .poisonedData 4 x.off
  else if !r.ok then sendDropped t x.core x.handle .illegalOperand 4 x.off
  else if past then sendDropped t x.core x.handle .segmentLimit 4 r.srco
  else if spanPoison k at_ 16384 then sendDropped t x.core x.handle .poisonedData 4 r.srco
  else
    let tile : Guide :=
      { src := x.core, dst := 16 * (dieOf x.core + 4) + r.dcore, handle := x.handle, dsto := r.dsto, semo := r.semo.getD 0xFFFFFFFF
        tag0 := r.tag0, tag1 := r.tag1, ptag := if r.phc then some r.ptag else none, haddr := if r.hnd then some r.haddr else none
        bytes := memBytes k.scratch at_ 16384 }
    { t with fr := { t.fr with guides := tset t.fr.guides (dieOf x.core) (tget [] t.fr.guides (dieOf x.core) ++ [tile]) } }

/-- The first record of a core's queue, when what it releases has performed and the window port is free. Its group stands on the
core until it has gone, also where it has been killed (R371, R399). -/
def sendHead (s : State) (c : Nat) : Option Send :=
  match tget [] s.fr.sends c with
  | [] => none
  | x :: _ => if (getReq s x.rel).isNone && sourceOpen s (.spad c 0) then some x else none

/-- The queue that the sender of a die serves next: cyclically in ascending local core order. -/
def nextSend (s : State) (die : Nat) : Option Send :=
  let from_ := tget 0 s.fr.sendNext die
  match (List.range 16).find? (fun i => (sendHead s (16 * die + (from_ + i) % 16)).isSome) with
  | some i => sendHead s (16 * die + (from_ + i) % 16)
  | none => none

/-- PRIVET_SEND on die `ev.idx`. -/
def execPrivetSend (s : State) : Host.Outcome State Fault Refusal :=
  match nextSend s s.ev.idx with
  | none => .refused .notEnabled
  | some x =>
    if dieOf x.core ≠ s.ev.idx ∨ 4 ≤ s.ev.idx then .refused .notEnabled
    else
      let s := { s with fr := { s.fr with
        sends := tset s.fr.sends x.core (tget [] s.fr.sends x.core).tail
        sendNext := tset s.fr.sendNext s.ev.idx ((x.core % 16 + 1) % 16) } }
      .next (sendGuide (takeSource s (.spad x.core 0)) x (s.group x.handle.toNat))

/-- Queue the start of a handler warp; its payload's last byte was written in cycle `at_` (R279). -/
def queueHandler (s : State) (c h : Nat) (haddr : DWord) (kind src part off len : Nat) (t0 t1 : Word) (at_ : Nat) : State :=
  let x : HStart :=
    { h := haddr, handle := BitVec.ofNat 32 h
      s := [BitVec.ofNat 32 (kind + src * 2 ^ 8 + part * 2 ^ 16), BitVec.ofNat 32 off, BitVec.ofNat 32 len, t0, t1,
        BitVec.ofNat 32 at_, BitVec.ofNat 32 (at_ / 2 ^ 32)] }
  s.updCore c (fun k => { k with hqueue := k.hqueue ++ [x] })

/-- The first tile that can land: none waits before it at the same core, and a start it brings finds room. -/
def landable (s : State) : List Nat → List Guide → Option Guide
  | _, [] => none
  | held, x :: r =>
    if held.contains x.dst || x.haddr.isSome && !queueRoom s x.dst 1 then landable s (x.dst :: held) r else some x

/-- What comes in the cycle after the last byte of a tile: the semaphore, the arrival and the start (R401). -/
def endGuide (s : State) (t : GuideTail) : State :=
  let x := t.tile
  let s := match t.sem with
    | none => s
    | some a => s.updCore x.dst (fun k => { semAdd k a 1 with semRel := k.semRel ++ [(a, none, .pk, 1)] })
  let s := match x.ptag with | some p => phaseArrival s x.dst p 1 | none => s
  match x.haddr with
  | some a => queueHandler s x.dst t.handle a 1 x.src s.hd.control.self.toNat x.dsto 16384 x.tag0 x.tag1 (t.due - 1)
  | none => s

/-- The tiles whose last byte landed in an earlier cycle. -/
def endGuides (s : State) : State :=
  let due := s.fr.tails.filter (fun t => decide (t.due ≤ s.gcc))
  due.foldl endGuide { s with fr := { s.fr with tails := s.fr.tails.filter (fun t => decide (s.gcc < t.due)) } }

/-- A tile lands: its payload is written, and the rest comes in the next cycle (R326, R401). -/
def landGuide (s : State) (x : Guide) : State :=
  match landGroup s (gridOf x.handle) x.dst with
  | none => sendDropped s x.src x.handle .segmentLimit 5 x.dsto
  | some (h, g) =>
    if g.allot < x.dsto + 16384 ∨ (x.semo ≠ 0xFFFFFFFF ∧ g.allot < x.semo + 4) then sendDropped s x.src x.handle .segmentLimit 5 x.dsto
    else
      let s := s.updCore x.dst (fun k => spadWrite k (g.region + x.dsto) x.bytes false)
      let tail : GuideTail := ⟨s.gcc + 1, h, if x.semo = 0xFFFFFFFF then none else some (g.region + x.semo), x⟩
      { s with fr := { s.fr with tails := s.fr.tails ++ [tail] } }

/-- PRIVET_LANDING from die `ev.idx`. -/
def execPrivetLanding (s : State) : Host.Outcome State Fault Refusal :=
  match landable s [] (tget [] s.fr.guides s.ev.idx) with
  | none => .refused .notEnabled
  | some x =>
    .next (landGuide { s with fr := { s.fr with guides := tset s.fr.guides s.ev.idx ((tget [] s.fr.guides s.ev.idx).erase x) } } x)

/-! ## Arrival-handler warps (R279, R281) -/

/-- The handler numbers in use on a core. -/
def handlerNumbers (s : State) (c : Nat) : List Nat := ((s.residentOn c).map (fun x => x.2.handlers.map (·.1))).flatten

/-- The state in which a handler warp of a group starts. -/
def arrivalWarp (s : State) (c h n : Nat) (g : Group) (x : HStart) : Warp :=
  let w := freshWarp s h 0 g
  let img := (s.grid g.grid).img.toNat
  { w with
    wnum := 16 + n, prio := 7, entries := [⟨x.h, 0, BitVec.allOnes 128, false, 0, .none, none⟩]
    s := x.s.zipIdx.map (fun (y : Word × Nat) => (y.2 + 1, y.1)), seeded := some ((s.grid g.grid).seed, 2 ^ 31 + c, n)
    after := if img ≤ x.h.toNat ∧ x.h.toNat < img + (s.grid g.grid).imgLen then none else some (.fetchFault, 0, x.h) }

/-- The first start of a core whose group stands there. -/
def nextStart (s : State) (c : Nat) : Option HStart := (s.core c).hqueue.find? (fun x => (s.group x.handle.toNat).status == .resident)

/-- ARRIVAL_HANDLER_START on core `ev.core`. -/
def execArrivalHandlerStart (s : State) : Host.Outcome State Fault Refusal :=
  let c := s.ev.core
  match nextStart s c, (List.range 4).find? (fun n => !(handlerNumbers s c).contains n), (freeSlots s [] c).head? with
  | some x, some n, some i =>
    if (s.core c).warps.any (fun w => w.2.region.isSome) then .refused .notEnabled
    else
      let h := x.handle.toNat
      let w := arrivalWarp s c h n (s.group h) x
      let s := s.updCore c (fun k => { k with warps := tset k.warps i w, hqueue := k.hqueue.erase x })
      .next (addWhy (s.updGroup h (fun g => { g with handlers := tset g.handlers n i })) c 6)
  | _, _, _ => .refused .notEnabled

/-! ## The governor (R404 to R408) -/

/-- A governor block (R405). -/
def govBlockOk (va : Nat) (b : List Byte) : Bool :=
  let lo := field b 4 1
  let hi := field b 5 1
  va % 64 == 0 && decide (1 ≤ lo) && decide (lo ≤ hi) && decide (hi ≤ 64) && zeroAt b 6 2 && field b 24 8 % 4 == 0 && zeroAt b 32 32

/-- The steps that still fit before the deadline (R406). -/
def stepsLeft (s : State) (f : Frame) : Nat :=
  let left : Int := (f.deadline - BitVec.ofNat 64 s.gcc - f.margin.setWidth 64 - f.compcyc.setWidth 64 : DWord).toInt
  if 0 < left then (left / (max 1 s.fr.stepcyc.toNat : Nat)).toNat else 0

/-- The governor writes entries 2 to 7, then entries 0 and 1, of an open frame with an acknowledgement. -/
def writeFrame (s : State) (f : Frame) (num : Word) (k : Nat) : State :=
  let s := govSend s 2 [f.deadline.extractLsb' 0 32, f.deadline.extractLsb' 32 32]
  let s := govSend s 4 [s.fr.stepcyc, f.margin]
  let s := govSend s 6 [f.compcyc, BitVec.ofNat 32 (f.trims * 2 ^ 16 + f.max * 2 ^ 8 + f.min)]
  govSend s 0 [num, BitVec.ofNat 32 (k * 2 ^ 16 + f.steps)]

/-- GOVERN: the frame opens with ack 0. -/
def startFrame (s : State) (i : Nat) (c : Command) : State :=
  match readVa s .s c.arg 64 with
  | .error _ => failStream s i 8
  | .ok b =>
    let s := countRead s 8 .s c.arg 64
    if !govBlockOk c.arg b then failStream s i 8
    else
      let f : Frame :=
        { stream := i, deadline := BitVec.ofNat 64 (field b 8 8), margin := BitVec.ofNat 32 (field b 16 4)
          compcyc := BitVec.ofNat 32 (field b 20 4), prog := BitVec.ofNat 64 (field b 24 8), k := 0, steps := 0
          min := field b 4 1, max := field b 5 1, trims := 0, t0 := s.gcc, num := BitVec.ofNat 32 (field b 0 4) }
      let f := { f with steps := min (max (stepsLeft s f) f.min) f.max }
      passCommand (writeFrame { s with fr := { s.fr with frame := some f } } f f.num 0) i

def execGovern (s : State) : Host.Outcome State Fault Refusal := takeCommand s 8 startFrame

/-- The next acknowledgement that PROG allows (R406). -/
def ackDue (s : State) : Option Frame :=
  match s.fr.frame with
  | none => none
  | some f =>
    if f.steps ≤ f.k then none
    else match readVa s .s f.prog.toNat 4 with
      | .ok b => if 4 * (f.k + 1) ≤ ofBytes b then some f else none
      | .error _ => none

/-- GOVERNOR_ACK: STEPS is computed anew, and the frame ends at the ack that equals it (R406, R408). -/
def execGovernorAck (s : State) : Host.Outcome State Fault Refusal :=
  match ackDue s with
  | none => .refused .notEnabled
  | some f =>
    let k := f.k + 1
    let n := min f.steps (max (max (k + stepsLeft s f) f.min) k)
    let f' : Frame := { f with k := k, steps := n, trims := if n < f.steps then f.trims + 1 else f.trims }
    let s := writeFrame { s with fr := { s.fr with frame := some f' } } f' f.num k
    if k = n then
      let cyc : Word := BitVec.ofNat 32 ((3 * (max 1 s.fr.stepcyc.toNat) + (s.gcc - f.t0) / k) / 4)
      .next (govSend { s with fr := { s.fr with stepcyc := cyc, frame := none } } 4 [cyc])
    else .next s

end Sys2Proof.Machine
end

