-- ==== Sys2Proof/Machine/Hedgerow.lean ====
section
/-!
DEFINITION. Hedgerow compositing (R409 to R423, R460): sessions, tile packets, merging, fills, delivery, and the scan-out
heads; the control block (R411) and ports going down (R409, R426).
-/
namespace Sys2Proof.Machine

/-! ## The session descriptor (R413) -/

/-- The fields of a session descriptor. -/
structure SDesc where
  sess : Nat
  ncon : Nat
  op : Nat
  hole : Nat
  frame0 : Nat
  period : Nat
  deadline0 : Nat
  fwd : Nat
  llo : Nat
  lhi : Nat
  parent : Nat
  dest : Nat
  wt : Nat
  ht : Nat
  child : List (Nat × Nat × Nat)
  out : Nat
  hist : Nat
  deriving DecidableEq, Repr

def SDesc.parse (b : List Byte) : SDesc :=
  let entry (i : Nat) : Nat × Nat × Nat := (field b (36 + 3 * i) 1, field b (37 + 3 * i) 1, field b (38 + 3 * i) 1)
  { sess := field b 0 4, ncon := field b 4 2, op := field b 6 1, hole := field b 7 1, frame0 := field b 8 4, period := field b 12 4
    deadline0 := field b 16 8, fwd := field b 24 4, llo := field b 28 1, lhi := field b 29 1, parent := field b 30 1
    dest := field b 31 1, wt := field b 32 2, ht := field b 34 2
    child := ([0, 1, 2, 3].map entry).filter (fun x => x.1 != 0xFF), out := field b 48 8, hist := field b 56 8 }

/-- The subtree interval: the local ranks and those of the children. -/
def SDesc.ranks (d : SDesc) : List Nat :=
  (List.range 256).filter (fun r => decide (d.llo ≤ r) && decide (r ≤ d.lhi) ||
    d.child.any (fun x => decide (x.2.1 ≤ r) && decide (r ≤ x.2.2)))

def SDesc.lo (d : SDesc) : Nat := d.ranks.headD 0

def SDesc.hi (d : SDesc) : Nat := d.ranks.getLastD 0

def SDesc.isRoot (d : SDesc) : Bool := d.parent == 0xFF

def SDesc.depth (d : SDesc) : Bool := decide (d.op < 2)

/-- The bytes of a payload (R415). -/
def SDesc.size (d : SDesc) : Nat := if d.depth then 3072 else 2048

/-- Whether a descriptor can be opened, its place and its number apart. -/
def SDesc.ok (d : SDesc) (b : List Byte) : Bool :=
  let within (x lo hi : Nat) : Bool := decide (lo ≤ x) && decide (x ≤ hi)
  zeroAt b 64 64 && d.sess != 0 && within d.ncon 1 256 && decide (d.op ≤ 3) && decide (d.hole ≤ 2) && decide (65536 ≤ d.period) &&
    within d.wt 1 480 && within d.ht 1 270 && d.child.all (fun x => decide (x.2.1 ≤ x.2.2)) && (d.hole == 1 || d.hist == 0) &&
    !d.ranks.isEmpty && decide (d.hi < d.ncon) && d.ranks.length == d.hi - d.lo + 1 &&
    (if d.isRoot then (decide (d.dest < 8) || d.dest == 0x80) && d.lo == 0 && d.hi == d.ncon - 1
      else d.dest == 0 && d.out == 0)

/-- The deadline of a frame. -/
def SDesc.deadline (d : SDesc) (f : Nat) : Nat := d.deadline0 + (f - d.frame0) * d.period

/-- The frames whose time, `lead` cycles before their deadline or `lag` after it, has come. -/
def SDesc.passed (d : SDesc) (now lead lag : Nat) : Nat :=
  if now + lead < d.deadline0 + lag then 0 else (now + lead - d.deadline0 - lag) / d.period + 1

def CSess.d (x : CSess) : SDesc := SDesc.parse x.desc

/-- The open session of a number. -/
def sessOf (s : State) (n : Nat) : Option CSess := s.hd.csess.find? (fun x => x.sess.toNat == n)

def updSess (s : State) (n : Nat) (f : CSess → CSess) : State :=
  { s with hd := { s.hd with csess := s.hd.csess.map (fun x => if x.sess.toNat = n then f x else x) } }

/-- What CMPQ reads of a session (R259). -/
def CSess.status (x : CSess) : DWord :=
  BitVec.ofNat 64 (x.lfr.toNat * 2 ^ 32 + min x.late 0xFFFF * 2 ^ 16 + (if x.nodes.isEmpty then x.st else 2))

/-- CMPQ's word for a session number: an open one, one that was closed, or none. -/
def sessStatus (s : State) (n : Nat) : DWord :=
  match sessOf s n with
  | some x => x.status
  | none => tget 0 s.hd.closed n

/-! ## Sessions (R413) -/

/-- A session opens: it holds nothing, no history is written, and its frames run from the first whose times are to come. -/
def openSess (s : State) (b : List Byte) : State :=
  let d := SDesc.parse b
  let x : CSess :=
    { sess := BitVec.ofNat 32 d.sess, desc := b, nodes := [], sent := [], holes := [], tiles := [], filled := d.passed s.gcc d.fwd 0
      written := [], outq := [], vs := d.passed s.gcc 0 2000, lfr := 0, late := 0, st := 1 }
  { s with hd := { s.hd with csess := s.hd.csess ++ [x], closed := tdel s.hd.closed d.sess } }

/-- NCON = 0 closes the session and discards what it holds. -/
def closeSess (s : State) (n : Nat) : State :=
  match sessOf s n with
  | none => s
  | some x =>
    let w := (({ x with nodes := [], st := 4 } : CSess)).status
    { s with hd := { s.hd with
        csess := s.hd.csess.filter (fun y => y.sess != x.sess), closed := tset s.hd.closed n w
        heads := s.hd.heads.map (fun (h : Nat × Head) => (h.1, { h.2 with
          next := h.2.next.filter (fun t => t.1 != x.sess), badFrames := h.2.badFrames.filter (fun y => y.1 != n) })) } }

/-! ## The canonical tree (R417) -/

/-- The interval of node (j, k). -/
def nodeAt (n j k : Nat) : Nat × Nat := (k * 2 ^ j, min ((k + 1) * 2 ^ j - 1) (n - 1))

/-- The highest level at which an interval is a canonical node. -/
def nodeLevel (n lo hi : Nat) : Option Nat :=
  ((List.range 9).filter (fun j => lo % 2 ^ j == 0 && nodeAt n j (lo / 2 ^ j) == (lo, hi))).getLast?

/-- The parent of a canonical node, or none for the root. -/
def nodeParent (n lo hi : Nat) : Option (Nat × Nat) :=
  if lo = 0 ∧ hi = n - 1 then none
  else (nodeLevel n lo hi).map (fun j => nodeAt n (j + 1) (lo / 2 ^ (j + 1)))

/-- Whether a node is maximal in a part's subtree interval (R419). -/
def SDesc.maximal (d : SDesc) (lo hi : Nat) : Bool :=
  match nodeParent d.ncon lo hi with
  | none => true
  | some p => decide (p.1 < d.lo) || decide (d.hi < p.2)

/-! ## combine (R418) -/

/-- Whether the upper interval's depth wins. -/
def depthWins (gt : Bool) (l u : Nat) : Bool :=
  let x := decodeF .f32 l
  let y := decodeF .f32 u
  if y.isNan then false
  else if x.isNan then true
  else if gt then fLess false x y else fLess false y x

/-- An exact sum of FP16 elements, rounded to FP32 and then to FP16. -/
def twice (nans : List FVal) (bad : Bool) (ts : List FVal) : Nat :=
  let r := (sumTerms .f32 .plain .rne false nans bad ts).1
  (toFloat .h16 true .plain .rne (decodeF .f32 r) 0).1

/-- 1 − A, exactly. -/
def oneMinus : FVal → FVal
  | .nan s m q => .nan s m q
  | .inf s => .inf !s
  | .num s m e =>
    let x := Exact.add ⟨1, 0⟩ ⟨if s then (m : Int) else -(m : Int), e⟩
    .num (decide (x.n < 0)) x.n.natAbs x.e

/-- One channel of OVER or ADD. -/
def blend (cover : Bool) (la l u : Nat) : Nat :=
  let a := oneMinus (decodeF .h16 la)
  let x := decodeF .h16 l
  let y := decodeF .h16 u
  if cover then
    let p := prodTerm a y
    twice [a, x, y] p.1 (x :: p.2)
  else twice [x, y] false [x, y]

/-- The colour bytes of two pixels combined. -/
def blendPixel (cover : Bool) (l u : List Byte) : List Byte :=
  (List.range 4).foldl (fun r i => r ++ bytesOf 2 (blend cover (field l 6 2) (field l (2 * i) 2) (field u (2 * i) 2))) []

/-- The value of a node of two children, pixel by pixel. -/
def combine (op : Nat) (l u : List Byte) : List Byte :=
  if op < 2 then
    let win := (List.range 256).map (fun q => depthWins (op == 1) (field l (4 * q) 4) (field u (4 * q) 4))
    let pick (o n : Nat) : List Byte :=
      (win.zipIdx.map (fun (x : Bool × Nat) => ((if x.1 then u else l).drop (o + n * x.2)).take n)).flatten
    pick 0 4 ++ pick 1024 8
  else
    ((List.range 256).map (fun q => blendPixel (op == 2) ((l.drop (8 * q)).take 8) ((u.drop (8 * q)).take 8))).flatten

/-- The tile of a missing leaf under TRANSPARENT (R420). -/
def emptyTile (op : Nat) : List Byte :=
  let depth : List Byte := match op with
    | 0 => (List.replicate 256 (bytesOf 4 0x7F800000)).flatten
    | 1 => (List.replicate 256 (bytesOf 4 0xFF800000)).flatten
    | _ => []
  depth ++ List.replicate 2048 0

/-! ## What leaves (R415, R419, R422, R423) -/

/-- The port that leads to a part, when there is one and it is up. -/
def portTo (s : State) (part : Nat) : Option Nat :=
  let p := (s.hd.control.route.getD part 0xFF).toNat
  if p < 12 ∧ (tget Port.reset s.hd.ports p).up then some p else none

/-- The header flit of a node. -/
def nodeHeader (d : SDesc) (n : CNode) : List Byte :=
  let h := bytesOf 4 d.sess ++ bytesOf 4 n.frame ++ bytesOf 2 n.tx ++ bytesOf 2 n.ty ++ bytesOf 1 n.lo ++ bytesOf 1 n.hi ++
    bytesOf 1 d.op ++ bytesOf 1 (if d.depth then 3 else 1) ++ List.replicate 8 0 ++ bytesOf 32 n.miss
  h ++ bytesOf 4 (crc32 (h ++ n.payload)).toNat ++ List.replicate 196 0

/-- A maximal node is forwarded to PARENT; without a way there it is lost. -/
def forward (s : State) (d : SDesc) (n : CNode) : State :=
  match portTo s d.parent with
  | none => s
  | some p =>
    let m : OutMsg := .comp d.parent ⟨s.hd.control.self.toNat, p, nodeHeader d n, n.payload⟩
    { s with hd := { s.hd with outbox := s.hd.outbox ++ [(p, m)] } }

/-- Put a write behind those of its merge engine. -/
def queueOut (s : State) (n : Nat) (t : OutTile) : State := updSess s n (fun x => { x with outq := x.outq ++ [t] })

def headOf (s : State) (h : Nat) : Head := tget .reset s.hd.heads h

def setHead (s : State) (h : Nat) (x : Head) : State := { s with hd := { s.hd with heads := tset s.hd.heads h x } }

/-- The size of a head in tiles. -/
def Head.wt (x : Head) : Nat := (x.mode.extractLsb' 4 9).toNat

def Head.ht (x : Head) : Nat := (x.mode.extractLsb' 13 9).toNat

/-- A tile of a frame lies outside its head: it is dropped, with one record for the frame (R392, R460). -/
def badTile (s : State) (h sess frame : Nat) : State :=
  let hd := headOf s h
  if hd.badFrames.contains (sess, frame) then s
  else postPlain (setHead s h { hd with badFrames := hd.badFrames ++ [(sess, frame)] })
    { plainRecord s .segmentLimit 0 5 5 0xFFFFFFFF 0 with core := 128 }

/-- The colours of a final tile go to its head: outside its size it is dropped with one record a frame, after its vsync it is
late. -/
def toHead (s : State) (d : SDesc) (n : CNode) : State :=
  let hd := headOf s d.dest
  let vs := match sessOf s d.sess with | some x => x.vs | none => 0
  if hd.wt ≤ n.tx ∨ hd.ht ≤ n.ty then
    badTile s d.dest d.sess n.frame
  else if n.frame < d.frame0 + vs then updSess s d.sess (fun x => { x with late := x.late + 1 })
  else setHead s d.dest { hd with
    next := hd.next ++ [(BitVec.ofNat 32 d.sess, n.frame, n.ty * 512 + n.tx, n.payload.drop (if d.depth then 1024 else 0))] }

/-- The root delivers a final tile: to memory through a merge engine, or to its head; FLAG withholds one with a missing rank. -/
def deliver (s : State) (d : SDesc) (n : CNode) : State :=
  let idx := n.ty * d.wt + n.tx
  let held := d.hole == 2 && n.miss != 0
  let (e, s) := s.draw
  let eng := Config.freeNat e % 4
  let miss : List Byte := bytesOf 32 n.miss
  if d.dest = 0x80 then
    let s := if held then s else queueOut s d.sess ⟨eng, n.frame, d.out + idx * d.size, n.payload, false⟩
    queueOut s d.sess ⟨eng, n.frame, d.out + d.wt * d.ht * d.size + 32 * idx, miss, true⟩
  else
    let s := if d.out = 0 then s else queueOut s d.sess ⟨eng, n.frame, d.out + 32 * idx, miss, false⟩
    if held then s else toHead s d n

/-! ## Merging (R419) -/

/-- The lower child of two siblings that are both held, with its sibling and their parent. -/
def readyPair (d : SDesc) (l : List CNode) (n : CNode) : Option (CNode × Nat × Nat) :=
  if d.maximal n.lo n.hi then none
  else match nodeParent d.ncon n.lo n.hi with
    | some (a, b) =>
      if a ≠ n.lo then none
      else (l.find? (fun u => u.frame == n.frame && u.tx == n.tx && u.ty == n.ty && u.lo == n.hi + 1 && u.hi == b)).map
        (fun u => (u, a, b))
    | none => none

/-- Combine until no tile holds two siblings. -/
def mergeNodes (d : SDesc) : Nat → List CNode → List CNode
  | 0, l => l
  | k + 1, l =>
    match l.findSome? (fun n => (readyPair d l n).map (fun x => (n, x))) with
    | none => l
    | some (n, u, a, b) =>
      let p : CNode := { n with lo := a, hi := b, miss := n.miss ||| u.miss, payload := combine d.op n.payload u.payload }
      mergeNodes d k ((l.filter (fun x => x != n && x != u)) ++ [p])

/-- A maximal node that is held leaves. -/
def sendNode (d : SDesc) (s : State) (n : CNode) : State :=
  let s := updSess s d.sess (fun x => { x with
    nodes := x.nodes.filter (fun y => y != n), sent := x.sent ++ [(n.frame, n.tx, n.ty, n.lo, n.hi)] })
  if d.isRoot then deliver s d n else forward s d n

/-- The engines of a session do what its nodes allow. -/
def settleSess (s : State) (n : Nat) : State :=
  match sessOf s n with
  | none => s
  | some x =>
    let d := x.d
    let l := mergeNodes d x.nodes.length x.nodes
    (l.filter (fun y => d.maximal y.lo y.hi)).foldl (sendNode d) (updSess s n (fun x => { x with nodes := l }))

/-! ## Leaves and fills (R414, R420) -/

/-- Whether a rank of a tile is in a node held or sent. -/
def CSess.covered (x : CSess) (f tx ty lo hi : Nat) : Bool :=
  let meet (a b : Nat) : Bool := decide (a ≤ hi) && decide (lo ≤ b)
  x.nodes.any (fun n => n.frame == f && n.tx == tx && n.ty == ty && meet n.lo n.hi) ||
    x.sent.any (fun t => t.1 == f && t.2.1 == tx && t.2.2.1 == ty && meet t.2.2.2.1 t.2.2.2.2)

/-- Whether a rank of a tile was filled here. -/
def CSess.holed (x : CSess) (f tx ty lo hi : Nat) : Bool :=
  x.holes.any (fun t => t.1 == f && t.2.1 == tx && t.2.2.1 == ty && decide (lo ≤ t.2.2.2) && decide (t.2.2.2 ≤ hi))

/-- The number of a history slot and its address (R414). -/
def SDesc.slot (d : SDesc) (r tx ty : Nat) : Nat := (r - d.llo) * (d.wt * d.ht) + ty * d.wt + tx

/-- The tile of a missing leaf. -/
def holeTile (s : State) (x : CSess) (tx ty r : Nat) : List Byte :=
  let d := x.d
  if d.hole = 1 ∧ d.llo ≤ r ∧ r ≤ d.lhi ∧ x.written.contains (d.slot r tx ty) then
    match readVa s .s (d.hist + d.slot r tx ty * d.size) d.size with
    | .ok b => b
    | .error _ => emptyTile d.op
  else emptyTile d.op

/-- The reads of history are counted at their homes (R438). -/
def countHole (s : State) (d : SDesc) (x : CSess) (tx ty r : Nat) : State :=
  if d.hole = 1 ∧ d.llo ≤ r ∧ r ≤ d.lhi ∧ x.written.contains (d.slot r tx ty) then
    countRead s 8 .s (d.hist + d.slot r tx ty * d.size) d.size
  else s

/-- Fill one rank of one tile, unless a node covers it. -/
def fillRank (n f tx ty : Nat) (s : State) (r : Nat) : State :=
  match sessOf s n with
  | none => s
  | some x =>
    if x.covered f tx ty r r then s
    else
      let c : CNode := ⟨f, tx, ty, r, r, 2 ^ r, holeTile s x tx ty r⟩
      updSess (countHole s x.d x tx ty r) n (fun x => { x with nodes := x.nodes ++ [c], holes := x.holes ++ [(f, tx, ty, r)] })

/-- Fill ranks in every tile of a frame. -/
def fillFrame (n f : Nat) (rs : List Nat) (s : State) : State :=
  match sessOf s n with
  | none => s
  | some x =>
    let d := x.d
    settleSess ((List.range (d.wt * d.ht)).foldl (fun s i => rs.foldl (fillRank n f (i % d.wt) (i / d.wt)) s) s) n

/-- The four lowest frames whose fill time has not passed (R416). -/
def CSess.openFrames (x : CSess) : List Nat := (List.range 4).map (fun i => x.d.frame0 + x.filled + i)

/-! ## Ranks behind a route that is down (R409, R420) -/

/-- Whether the port of the route to a part is down. -/
def routeDown (s : State) (part : Nat) : Bool :=
  let p := (s.hd.control.route.getD part 0xFF).toNat
  decide (p < 12) && !(tget Port.reset s.hd.ports p).up

/-- The ranks of a session behind a route that is down. -/
def ranksDown (s : State) (d : SDesc) : List Nat :=
  d.ranks.filter (fun r => d.child.any (fun x => routeDown s x.1 && decide (x.2.1 ≤ r) && decide (r ≤ x.2.2)))

/-- Ranks behind a route that is down are missing at once from every open frame of a session. -/
def missDown (s : State) (n : Nat) : State :=
  match sessOf s n with
  | none => s
  | some x =>
    let rs := ranksDown s x.d
    if rs.isEmpty then s else x.openFrames.foldl (fun s f => fillFrame n f rs s) s

/-- The same of every session. -/
def missAll (s : State) : State := (s.hd.csess.map (fun x => x.sess.toNat)).foldl missDown s

/-! ## COMPOSE (R413) -/

def startCompose (s : State) (i : Nat) (c : Command) : State :=
  match readVa s .s c.arg 128 with
  | .error _ => failStream s i 9
  | .ok b =>
    let s := countRead s 8 .s c.arg 128
    let d := SDesc.parse b
    if c.arg % 64 ≠ 0 then failStream s i 9
    else if d.ncon = 0 then
      if d.sess ≠ 0 ∧ zeroAt b 64 64 then passCommand (closeSess s d.sess) i else failStream s i 9
    else if !d.ok b || (sessOf s d.sess).isSome || decide (16 ≤ s.hd.csess.length) then failStream s i 9
    else passCommand (missDown (openSess s b) d.sess) i

def execCompose (s : State) : Host.Outcome State Fault Refusal := takeCommand s 7 startCompose

/-! ## Frames -/

/-- Where a frame stands: late, too early, or open. -/
inductive FrameState where
  | late | early | isOpen
  deriving DecidableEq, Repr

def CSess.frameState (x : CSess) (f : Nat) : FrameState :=
  let low := x.d.frame0 + x.filled
  if f < x.d.frame0 ∨ low + 4 ≤ f then .early else if f < low then .late else .isOpen

/-- Whether the fill time of a session's next frame has come. -/
def fillDue (s : State) (x : CSess) : Bool := decide (x.filled < x.d.passed s.gcc x.d.fwd 0)

/-- The fill time of a session's next frame: what is missing is filled and leaves; the frame that comes into reach misses the
ranks behind a route that is down. -/
def passFill (s : State) (n : Nat) : State :=
  match sessOf s n with
  | none => s
  | some x =>
    let f := x.d.frame0 + x.filled
    let s := fillFrame n f x.d.ranks s
    let s := updSess s n (fun x => { x with
      filled := x.filled + 1, nodes := x.nodes.filter (fun y => y.frame != f), sent := x.sent.filter (fun t => t.1 != f)
      holes := x.holes.filter (fun t => t.1 != f) })
    let rs := ranksDown s x.d
    if rs.isEmpty then s else fillFrame n (f + 4) rs s

/-- FILL_TIME of the first session whose next frame is due. -/
def execFillTime (s : State) : Host.Outcome State Fault Refusal :=
  match s.hd.csess.find? (fillDue s) with
  | none => .refused .notEnabled
  | some x => .next (passFill s x.sess.toNat)

/-! ## Submits and packets (R415, R416) -/

/-- A leaf or node joins its session. -/
def addNode (s : State) (n : Nat) (c : CNode) : State := settleSess (updSess s n (fun x => { x with nodes := x.nodes ++ [c] })) n

def countLate (s : State) (n : Nat) : State := updSess s n (fun x => { x with late := x.late + 1 })

/-- The record of a submit or packet that the engines reject (R392). -/
def rejected (s : State) (core : Nat) (h : Word) (ak : Nat) : State :=
  postPlain s { plainRecord s .illegalOperand 0 5 ak h 0 with core := core }

/-- The payload of a submit, as the Hedgerow path reads it. -/
def submitPayload (s : State) (x : ECmd) (d : SDesc) (b : List Byte) : Option (List Byte) :=
  if field b 14 1 = 2 then some []
  else match readVa s x.level (field b 16 8) d.size with
    | .ok l => some l
    | .error _ => none

/-- A rank's tile is merged in time, and its history is written (R414). -/
def mergeLeaf (s : State) (d : SDesc) (f tx ty r : Nat) (l : List Byte) : State :=
  let s := if d.hole = 1 then
    match writeVa s .s (d.hist + d.slot r tx ty * d.size) l with
    | .ok t => updSess t d.sess (fun x => { x with written := d.slot r tx ty :: x.written.filter (· != d.slot r tx ty) })
    | .error _ => s
    else s
  addNode s d.sess ⟨f, tx, ty, r, r, 0, l⟩

/-- What the engines do with a submit record. -/
def submit (s : State) (c : Nat) (x : ECmd) (b : List Byte) : State :=
  let reject (s : State) : State := rejected s c x.handle 4
  match sessOf s (field b 0 4) with
  | none => reject s
  | some t =>
    let d := t.d
    let f := field b 4 4
    let tx := field b 8 2
    let ty := field b 10 2
    let r := field b 12 2
    let k := field b 14 1
    if r < d.llo ∨ d.lhi < r ∨ (k ≠ 2 ∧ (k == 1) ≠ d.depth) ∨ d.wt ≤ tx ∨ d.ht ≤ ty then reject s
    else
    let s := if k = 2 then s else countRead s 8 x.level (field b 16 8) d.size
    match submitPayload s x d b, t.frameState f with
      | _, .late => countLate s d.sess
      | _, .early => reject s
      | none, _ => reject s
      | some l, .isOpen =>
        if t.holed f tx ty r r && k != 2 then countLate s d.sess
        else if t.covered f tx ty r r then reject s
        else if k = 2 then settleSess (fillRank d.sess f tx ty s r) d.sess
        else mergeLeaf s d f tx ty r l

/-- Whether a packet is one that the session takes (R416). -/
def packetOk (d : SDesc) (p : CompPacket) : Bool :=
  let h := p.header
  let lo := field h 12 1
  let hi := field h 13 1
  let k := field h 16 1
  h.length == 256 && zeroAt h 17 7 && zeroAt h 60 196 && decide (k ≤ 1) && p.payload.length == (if k = 1 then 0 else d.size) &&
    field h 56 4 == (crc32 (h.take 56 ++ p.payload)).toNat && field h 14 1 == d.op && field h 15 1 == (if d.depth then 3 else 1) &&
    decide (field h 8 2 < d.wt) && decide (field h 10 2 < d.ht) && decide (lo < d.ncon) && (nodeLevel d.ncon lo hi).isSome &&
    d.child.any (fun x => x.1 == p.src && decide (x.2.1 ≤ lo) && decide (hi ≤ x.2.2))

/-- A packet from another part. -/
def takePacket (s : State) (p : CompPacket) : State :=
  let reject (s : State) : State := rejected s 128 0xFFFFFFFF 0xFF
  let h := p.header
  let f := field h 4 4
  let tx := field h 8 2
  let ty := field h 10 2
  let lo := field h 12 1
  let hi := field h 13 1
  match sessOf s (field h 0 4) with
  | none => reject s
  | some t =>
    let d := t.d
    if !packetOk d p then reject s
    else if inCheckpoint s then countLate s d.sess
    else match t.frameState f with
      | .late => countLate s d.sess
      | .early => reject s
      | .isOpen =>
        if t.holed f tx ty lo hi && field h 16 1 == 0 then countLate s d.sess
        else if t.covered f tx ty lo hi then reject s
        else if field h 16 1 = 1 then
          settleSess ((List.range (hi - lo + 1)).foldl (fun s i => fillRank d.sess f tx ty s (lo + i)) s) d.sess
        else addNode s d.sess ⟨f, tx, ty, lo, hi, field h 24 32, p.payload⟩

/-- COMPOSITE_PACKET_RECEIPT: packet `ev.pkt` of another part, or the submit that command `ev.idx` of core `ev.core` brings. -/
def execCompositePacketReceipt (s : State) : Host.Outcome State Fault Refusal :=
  match s.ev.pkt with
  | some p => if portUp s p.port then .next (takePacket s p) else .refused .notEnabled
  | none =>
    match (s.core s.ev.core).ecmds.find? (fun x => x.id == s.ev.idx) with
    | some x =>
      match x.op with
      | .cmpt b => if cmdOpen s x then .next (cmdDone (submit s s.ev.core x b) s.ev.core x.id) else .refused .notEnabled
      | _ => .refused .notEnabled
    | none => .refused .notEnabled

/-! ## The writes of the merge engines (R321, R422) -/

/-- LFR becomes a frame once all its tiles are written or withheld. -/
def tileWritten (n f : Nat) (s : State) : State :=
  updSess s n (fun x =>
    let k := tget 0 x.tiles f + 1
    if k = x.d.wt * x.d.ht then { x with tiles := tdel x.tiles f, lfr := BitVec.ofNat 32 f, st := 3 }
    else { x with tiles := tset x.tiles f k })

/-- The first write that waits at a merge engine, with its session. -/
def nextOut (s : State) (eng : Nat) : Option (Nat × OutTile) :=
  s.hd.csess.findSome? (fun x => (x.outq.find? (fun t => t.eng == eng)).map (fun t => (x.sess.toNat, t)))

/-- A merge engine writes at its position of the wheel. -/
def tickMerge (s : State) (eng : Nat) : State :=
  if !wheelOpen s (144 + eng) then s
  else match nextOut s eng with
    | none => s
    | some (n, t) =>
      let s := updSess (wheelTake s (144 + eng)) n (fun x => { x with outq := x.outq.erase t })
      let s := match writeVa s .s t.va t.bytes with | .ok u => u | .error _ => s
      if t.last then tileWritten n t.frame s else s

/-! ## Scan-out heads (R423, R460) -/

/-- A channel as a head emits it: round(sat(c, 0, 1) × 1023, rne), and 0 for a NaN. -/
def tenBits (c : Nat) : Nat :=
  match decodeF .h16 c with
  | .nan .. => 0
  | .inf s => if s then 0 else 1023
  | .num s m e =>
    if s then 0
    else min 1023 (roundInt .rne false (m * 1023) e 0).1

/-- R, G and B of the 256 pixels of a tile's colours. -/
def emitTile (b : List Byte) : List Nat :=
  ((List.range 256).map (fun q => [0, 2, 4].map (fun i => tenBits (field b (8 * q + i) 2)))).flatten

/-- The session that names a head and whose next vsync has come. -/
def vsyncDue (s : State) (h : Nat) : Option CSess :=
  s.hd.csess.find? (fun x => x.d.isRoot && x.d.dest == h && decide (x.vs < x.d.passed s.gcc 0 2000))

/-- VSYNC of head `ev.idx`: a size change takes effect, the frame's tiles are shown, and the head emits its picture. -/
def execVsync (s : State) : Host.Outcome State Fault Refusal :=
  match vsyncDue s s.ev.idx with
  | none => .refused .notEnabled
  | some x =>
    let h := s.ev.idx
    let f := x.d.frame0 + x.vs
    let hd := headOf s h
    let hd : Head := match hd.pending with | some m => { hd with mode := m, pending := none, tiles := [] } | none => hd
    let due := hd.next.filter (fun t => t.1 == x.sess && t.2.1 == f)
    let fits (t : Word × Nat × Nat × List Byte) : Bool := decide (t.2.2.1 % 512 < hd.wt) && decide (t.2.2.1 / 512 < hd.ht)
    let mine := due.filter fits
    let s := if due.all fits then s else badTile s h x.sess.toNat f
    let hd : Head := { hd with
      badFrames := (headOf s h).badFrames
      tiles := mine.foldl (fun t y => tset t y.2.2.1 y.2.2.2) hd.tiles
      next := hd.next.filter (fun t => t.1 != x.sess || decide (f < t.2.1)), shown := some f }
    let hd : Head := if hd.mode.extractLsb' 0 2 = 1#2 then
      { hd with emitted := hd.tiles.map (fun (t : Nat × List Byte) => (t.1, emitTile t.2)) } else hd
    .next (updSess (setHead s h hd) x.sess.toNat (fun x => { x with vs := x.vs + 1, lfr := BitVec.ofNat 32 f, st := 3 }))

/-- A write of so.mode: a change of the size waits for the next vsync of the head (R460). -/
def writeSoMode (s : State) (h : Nat) (v : Word) : State :=
  let hd := headOf s h
  let v := v &&& (if h < 2 then 0x003FFFFF else 0x003FFFFB)
  let wt := (v.extractLsb' 4 9).toNat
  let ht := (v.extractLsb' 13 9).toNat
  let en := v.extractLsb' 0 2
  if 2 ≤ en.toNat ∨ (en = 1 ∧ (wt = 0 ∨ ht = 0 ∨ 480 < wt ∨ 270 < ht)) then s
  else
    let same := v.extractLsb' 4 18 = hd.mode.extractLsb' 4 18
    setHead s h { hd with mode := (hd.mode &&& 0xFFFFFFF0) ||| (v &&& 0xF), pending := if same then none else some v }

/-- SO_MODE: a write of `ev.val` to so.mode of head `ev.idx`. -/
def execSoMode (s : State) : Host.Outcome State Fault Refusal :=
  if s.ev.idx < 8 then .next (writeSoMode s s.ev.idx (s.ev.val.extractLsb' 0 32)) else .refused .notEnabled

/-! ## The control block (R411) -/

/-- Whether a landing range of the block is well formed (R427). -/
def landOk (b : List Byte) (i : Nat) : Bool :=
  let o := 768 + 32 * i
  field b o 8 / 2 ^ 57 == 0 && field b o 8 / 4 % 2 ^ 14 == 0 && decide (field b (o + 8) 4 ≤ 2 ^ 24) && field b (o + 16) 4 % 4 == 0

def controlOk (b : List Byte) : Bool :=
  zeroAt b 5 3 && zeroAt b 24 488 && zeroAt b 1280 2816 && field b 8 8 % 65536 == 0 && field b 16 8 % 65536 == 0 &&
    decide (field b 16 8 ≤ 2 ^ 48) && ((b.drop 512).take 256).all (fun r => decide (r.toNat < 12) || r == 0xFF) &&
    (List.range 16).all (landOk b)

/-- CONTROL_BLOCK_RELOAD: the H-die rereads the block whose first word is 1, and answers in that word. -/
def execControlBlockReload (s : State) : Host.Outcome State Fault Refusal :=
  let a := Config.controlAddr
  match readVa s .s a 4096 with
  | .error _ => .refused .notEnabled
  | .ok b =>
    if field b 0 4 ≠ 1 then .refused .notEnabled
    else
      let s := countRead s 8 .s a 4096
      let answer (v : Nat) (s : State) : State := match writeVa s .s a (bytesOf 4 v) with | .ok t => t | .error _ => s
      if controlOk b then
        let c : Control :=
          { self := BitVec.ofNat 8 (field b 4 1), exbase := BitVec.ofNat 64 (field b 8 8), exlen := BitVec.ofNat 64 (field b 16 8)
            route := (b.drop 512).take 256, land := (b.drop 768).take 512 }
        .next (missAll (answer 0 { s with hd := { s.hd with control := c } }))
      else .next (postPlainF (answer 2 s)
        { plainRecord s .illegalOperand 0 5 4 0xFFFFFFFF (BitVec.ofNat 64 a) with core := 128 })

/-! ## Ports (R409, R420, R426) -/

/-- A remote request in flight on a port that goes down completes as a remote fault. -/
def failRequest (s : State) (id : Nat) : State :=
  match getReq s id with
  | some r => remoteFault s r
  | none => s

/-- The flush records of this part that the port was to carry: their results complete, and their session is in error wherever this part
holds a record of the contribution. -/
def failFlush (s : State) (f : FlushRec) : State :=
  let s := { s with ms := { s.ms with flushes := s.ms.flushes.filter (fun x => x.id != f.id) } }
  let m : LostMark := ⟨f.home1.2, f.sid, f.part, f.core, f.rid⟩
  let s := { s with ms := { s.ms with
    flushes := s.ms.flushes.map (fun x => if m.of x then { x with err := true } else x)
    sessions := s.ms.sessions.map (fun x => if x.recs.any m.of then { x with err := true } else x) } }
  if s.ms.flushes.any (fun x => x.rid == f.rid && x.core == f.core) then s else arriveResult s f.core f.rid

/-- A session open here whose records of other parts come by a port may have lost one with it, and completes in error: which records the
port carried is open (R426). DESIGN CHOICE, log entry 120. -/
def loseAt (p : Nat) (s : State) (x : Session) : State :=
  let (n, s) := s.draw
  let others := s.hd.control.route.zipIdx.any (fun r => r.1.toNat == p && r.2 != s.hd.control.self.toNat)
  if others && Config.freeBool n then
    sessionDone { s with ms := { s.ms with sessions := s.ms.sessions.filter (fun y => y != x) } } x.recs 0x100000000
  else s

/-- A port goes down: what is in flight on it is lost. -/
def portDown (s : State) (p : Nat) : State :=
  let port := tget Port.reset s.hd.ports p
  let lost := s.ms.flushes.filter (fun f => f.dest != s.hd.control.self.toNat && f.port == p)
  let s := { s with hd := { s.hd with
    ports := tset s.hd.ports p ⟨false, []⟩, outbox := s.hd.outbox.filter (fun x => x.1 != p) } }
  let s := lost.foldl failFlush (port.inflight.foldl failRequest s)
  missAll (s.ms.sessions.foldl (loseAt p) s)

/-- PORT_DOWN of port `ev.idx`. -/
def execPortDown (s : State) : Host.Outcome State Fault Refusal :=
  let p := s.ev.idx
  if 12 ≤ p ∨ !(tget Port.reset s.hd.ports p).up then .refused .notEnabled else .next (portDown s p)

/-! ## Frequency changes (R16, R412) -/

/-- Whether the part shares a domain with another one. -/
def inDomain (s : State) : Bool :=
  s.hd.joined || s.hd.control.route.zipIdx.any (fun x => decide (x.1.toNat < 12) && x.2 != s.hd.control.self.toNat)

/-- The package takes a frequency. A part whose frequency then differs from its domain's takes its ports down. -/
def takeFreq (s : State) (f : Nat) (agreed : Bool) : State :=
  let t := { s with pt := { s.pt with freq := f, freqReq := none } }
  if agreed || f == s.pt.freq || !inDomain s then t
  else ((List.range 12).filter (fun p => (tget Port.reset s.hd.ports p).up)).foldl portDown t

/-- A package frequency change to `ev.val`, agreed in the domain if `ev.write`: at once between phases, held otherwise; a held
request takes effect when the phase has ended. DESIGN CHOICE (log entry 110): of several requests held, the last one takes
effect. -/
def execFrequencyChange (s : State) : Host.Outcome State Fault Refusal :=
  if phaseOpen s then .next { s with pt := { s.pt with freqReq := some (s.ev.val.toNat, s.ev.write) } }
  else .next (takeFreq s s.ev.val.toNat s.ev.write)

end Sys2Proof.Machine
end

