-- ==== Sys2Proof/Machine/Remote.lean ====
section
/-!
DEFINITION. Remote memory operations (R424 to R428): what a request of another part does here, landing ranges included; and
joining a domain (R412).
-/
namespace Sys2Proof.Machine

/-! ## Landing ranges (R427, R428) -/

/-- A landing range of the control block. -/
structure LandRange where
  olo : Nat
  len : Nat
  phc : Bool
  hnd : Bool
  handle : Nat
  dsto : Nat
  ptag : Word
  haddr : DWord
  deriving DecidableEq, Repr

def landRange (b : List Byte) (i : Nat) : LandRange :=
  let o := 32 * i
  let w := field b o 8
  { olo := w / 65536 * 65536, len := field b (o + 8) 4, phc := w % 2 == 1, hnd := w / 2 % 2 == 1, handle := field b (o + 12) 4
    dsto := field b (o + 16) 4, ptag := BitVec.ofNat 32 (field b (o + 20) 4), haddr := BitVec.ofNat 64 (field b (o + 24) 8) }

def LandRange.holds (r : LandRange) (ofs : Nat) : Bool := decide (r.olo ≤ ofs) && decide (ofs < r.olo + r.len)

/-- The range that governs a packet: the lowest that holds one of its lanes. -/
def governing (s : State) (q : RemoteReq) : Option LandRange :=
  ((List.range 16).map (landRange s.hd.control.land)).find? (fun r => q.lanes.any (fun x => r.holds x.ofs))

/-- The bytes of a remote store that may land: an ST.REL is none of ST.b32, ST.n16 and ST.n8 (R428). -/
def storeBytes : RemoteOp → Option Nat
  | .store t false => some t.bytes
  | _ => none

/-- The group of a range, when a packet of `n`-byte stores can land in it. -/
def landTarget (s : State) (q : RemoteReq) (r : LandRange) (n : Nat) : Option Group :=
  let g := s.group r.handle
  if (g.status == .resident || g.status == .leaving) && (quadState s (quadOf g.core)).st == 0 &&
      q.lanes.all (fun x => decide (r.olo ≤ x.ofs) && decide (x.ofs + n ≤ r.olo + r.len) && decide (x.ofs < s.hd.control.exlen.toNat) &&
        decide (r.dsto + (x.ofs - r.olo) + n ≤ g.allot)) then some g
  else none

/-- A packet lands: its stores, then the arrival and the start in the same cycle. The tag words of a start by a remote
write are free. -/
def land (s : State) (q : RemoteReq) (r : LandRange) (g : Group) (n : Nat) : State :=
  let off (x : RemoteLane) : Nat := r.dsto + (x.ofs - r.olo)
  let s := q.lanes.foldl (fun s x => s.updCore g.core (fun k => spadWrite k (g.region + off x) (bytesOf n x.x.toNat) false)) s
  let s := if r.phc then phaseArrival s g.core r.ptag 5 else s
  if r.hnd then
    let (a, s) := s.draw
    let (b, s) := s.draw
    queueHandler s g.core r.handle r.haddr 2 0xFF q.src (off ((q.lanes.head?).getD ⟨0, 0, 0, 0⟩)) (n * q.lanes.length)
      (Config.freeWord a) (Config.freeWord b) s.gcc
  else s

/-! ## Memory (R424) -/

/-- What one lane does, and answers: its value, whether it is poisoned, and whether it faulted. -/
structure LaneDone where
  val : DWord
  poison : Bool
  fault : Bool
  deriving DecidableEq, Repr

def LaneDone.bad : LaneDone := ⟨0, false, true⟩

/-- An atomic or a reduction element that finds its line poisoned is skipped (R162). -/
def skipped (s : State) (x : RemoteLane) : State × LaneDone :=
  (postPlain s { plainRecord s .poisonedData 0 5 2 0xFFFFFFFF (s.hd.control.exbase + BitVec.ofNat 64 x.ofs) with core := 128 }, ⟨0, true, false⟩)

/-- One lane at its home. -/
def remoteLane (op : RemoteOp) (s : State) (x : RemoteLane) : State × LaneDone :=
  match windowPa s (match op with | .load _ => .read | _ => .write) x.ofs with
  | .error _ => (s, .bad)
  | .ok pa =>
    let poisoned := s.ms.poisoned.contains (lineOf pa)
    match op with
    | .load t =>
      if poisoned then (s, .bad) else (s, ⟨(t.extend (memRead s.ms.mem pa t.bytes)).setWidth 64, false, false⟩)
    | .store t _ => (homeWrite s pa (bytesOf t.bytes x.x.toNat), ⟨0, false, false⟩)
    | .atom a =>
      if poisoned then skipped s x
      else
        let m : DWord := BitVec.ofNat 64 (memRead s.ms.mem pa a.bytes)
        (homeWrite s pa (bytesOf a.bytes (a.apply m x.x x.y).toNat), ⟨m, false, false⟩)
    | .red a =>
      if poisoned then skipped s x
      else
        let m : Word := BitVec.ofNat 32 (memRead s.ms.mem pa 4)
        (homeWrite s pa (bytesOf 4 (a.apply m (x.x.setWidth 32)).toNat), ⟨0, false, false⟩)

/-- The lanes of a packet in order, with their answers. -/
def remoteLanesDo (op : RemoteOp) : List RemoteLane → State → State × List (RemoteLane × LaneDone)
  | [], s => (s, [])
  | x :: r, s =>
    let (s, d) := remoteLane op s x
    let (s, l) := remoteLanesDo op r s
    (s, (x, d) :: l)

/-- The lanes of a store, line by line: a line that they cover loses its poison (R443). A lane that does not translate faults. -/
def remoteStores (t : StTy) (l : List RemoteLane) (s : State) : State × List (RemoteLane × LaneDone) :=
  let at_ (x : RemoteLane) : Except Nat Nat := windowPa s .write x.ofs
  let good := l.filterMap (fun x => match at_ x with | .ok pa => some { laneReq x.lane 0 pa with x := x.x } | .error _ => none)
  let put (s : State) (g : Nat × List LaneReq) : State :=
    let (bs, m) := storeLanes t g.2 ((homeLine s g.1).bytes, 0)
    homeMerge s g.1 bs m (m == BitVec.allOnes 128)
  ((splitLines 0 good).foldl put s, l.map (fun x => (x, match at_ x with | .ok _ => ⟨0, false, false⟩ | .error _ => .bad)))

/-- What the lanes of a packet do, with their answers. -/
def remoteAll (op : RemoteOp) (l : List RemoteLane) (s : State) : State × List (RemoteLane × LaneDone) :=
  match op with
  | .store t _ => remoteStores t l s
  | _ => remoteLanesDo op l s

/-- The lines that a packet asks for, each counted once at its home (R438). -/
def countLines (s : State) (q : RemoteReq) : State :=
  let lines := (q.lanes.filterMap (fun x => match windowPa s .read x.ofs with | .ok pa => some (lineOf pa) | .error _ => none)).eraseDups
  netAll s lines

/-- The answer of a packet's lanes. -/
def answerOf (l : List (RemoteLane × LaneDone)) : RemoteAns :=
  let mask (f : LaneDone → Bool) : Mask := l.foldl (fun m x => if f x.2 then m ||| (1#128 <<< x.1.lane) else m) 0
  ⟨l.map (fun x => x.2.val), mask (fun d => d.poison), mask (fun d => d.fault)⟩

/-- Every lane of a packet is a remote fault. -/
def allFault (q : RemoteReq) : RemoteAns := answerOf (q.lanes.map (fun x => (x, LaneDone.bad)))

/-- The answer travels back over the port on which the request came. -/
def answerRemote (s : State) (q : RemoteReq) (a : RemoteAns) : State :=
  { s with hd := { s.hd with outbox := s.hd.outbox ++ [(q.port, .answer q.src q.id a)] } }

/-- What a packet does, with its answer: a landing range takes stores and faults atomics and reductions; a load reads memory
(R427, R428). -/
def remoteDo (s : State) (q : RemoteReq) : State × RemoteAns :=
  let plain : State × RemoteAns :=
    let (s, l) := remoteAll q.op q.lanes (countLines s q)
    (s, answerOf l)
  match governing s q, q.op with
  | none, _ | _, .load _ => plain
  | some r, op =>
    match storeBytes op with
    | none => (s, allFault q)
    | some n =>
      match landTarget s q r n with
      | none => (s, allFault q)
      | some g => (land s q r g n, answerOf (q.lanes.map (fun x => (x, ⟨0, false, false⟩))))

/-- Whether a packet that brings a start finds the handler queue full (R281). -/
def startHeld (s : State) (q : RemoteReq) : Bool :=
  match governing s q with
  | some r =>
    match storeBytes q.op with
    | some n =>
      match landTarget s q r n with
      | some g => r.hnd && !queueRoom s g.core 1
      | none => false
    | none => false
  | none => false

/-- REMOTE_ACCESS: packet `ev.req` of another part; a checkpoint holds it at the port (R446). -/
def execRemoteAccess (s : State) : Host.Outcome State Fault Refusal :=
  match s.ev.req with
  | none => .refused .notEnabled
  | some q =>
    if inCheckpoint s || startHeld s q || decide (12 ≤ q.port) || !(tget Port.reset s.hd.ports q.port).up then .refused .notEnabled
    else
      let (s, a) := remoteDo s q
      .next (answerRemote s q a)

/-! ## Joining a domain (R412) -/

/-- The cycles named in a warp, moved. -/
def Warp.mapTime (f : Nat → Nat) (w : Warp) : Warp :=
  let susp (x : Susp) : Susp := match x with
    | .twait d m wa p n c => .twait (f d) m wa p n c
    | .wfw d m r => .wfw (d.map f) m r
    | x => x
  { w with ready := w.ready.map f, susp := susp w.susp, also := w.also.map susp, region := w.region.map (fun r => { r with s := f r.s }) }

/-- The cycles named in a core. -/
def Core.mapTime (f : Nat → Nat) (k : Core) : Core :=
  { k with
    warps := k.warps.map (fun (x : Nat × Warp) => (x.1, x.2.mapTime f))
    free := f k.free, wake := f k.wake, winFree := f k.winFree, halt := k.halt.map f
    accs := k.accs.map (fun a => { a with bun := f a.bun })
    winq := k.winq.map (fun q => { q with bun := f q.bun, arrive := f q.arrive, due := f q.due })
    packets := k.packets.map (fun p => { p with due := f p.due })
    copyq := k.copyq.map (fun (x : Nat × List CopyRec) => (x.1, x.2.map (fun r => { r with due := f r.due })))
    ecmds := k.ecmds.map (fun x => { x with due := f x.due }), eng := k.eng.mapTime f }

/-- The cycles named in the memory system. -/
def MemSys.mapTime (f : Nat → Nat) (m : MemSys) : MemSys :=
  { m with
    reqs := m.reqs.map (fun r => { r with
      due := f r.due, scKey := r.scKey.map f, behind := r.behind.map (fun x => (f x.1, x.2)) })
    misses := m.misses.map (fun x => { x with due := f x.due })
    walks := m.walks.map (fun x => { x with due := f x.due })
    wheel := m.wheel.map (fun (x : Nat × Nat) => (x.1, f x.2))
    ports := m.ports.map (fun (x : Nat × Nat) => (x.1, f x.2)) }

/-- The cycles named by the scheduler. -/
def Sched.mapTime (f : Nat → Nat) (d : Sched) : Sched :=
  { d with
    groups := d.groups.map (fun (x : Nat × Group) =>
      (x.1, { x.2 with due := f x.2.due, kept := { x.2.kept with at_ := f x.2.kept.at_, eng := x.2.kept.eng.map (Engine.mapTime f) } }))
    streams := d.streams.map (fun (x : Nat × Stream) => (x.1, { x.2 with nextPoll := f x.2.nextPoll }))
    incrs := d.incrs.map (fun x => { x with due := f x.due }), builds := d.builds.map (fun x => { x with due := f x.due }) }

/-- Every cycle that the state names, moved with the counter. -/
def shiftTimes (f : Nat → Nat) (s : State) : State :=
  { s with
    cores := s.cores.map (fun (x : Nat × Core) => (x.1, x.2.mapTime f)), ms := s.ms.mapTime f, sched := s.sched.mapTime f
    fr := { s.fr with
      govWrites := s.fr.govWrites.map (fun x => (f x.1, x.2))
      frame := s.fr.frame.map (fun x => { x with t0 := f x.t0 })
      tails := s.fr.tails.map (fun x => { x with due := f x.due }) }
    pt := { s.pt with
      quads := s.pt.quads.map (fun (x : Nat × Quad) => (x.1, { x.2 with railDue := x.2.railDue.map f }))
      channels := s.pt.channels.map (fun (x : Nat × Channel) => (x.1, { x.2 with
        window := f x.2.window, replays := x.2.replays.map (fun y => { y with due := f y.due }), errs := x.2.errs.map (fun (y : Nat × List Nat) => (y.1, y.2.map f)) })) } }

/-- DOMAIN_JOIN: GCC is set once from the reference part's, `ev.val`, to within 4 cycles. -/
def execDomainJoin (s : State) : Host.Outcome State Fault Refusal :=
  if s.hd.joined then .refused .notEnabled
  else
    let (n, s) := s.draw
    let g := s.ev.val.toNat + Config.freeNat n % 9 - 4
    let f (t : Nat) : Nat := t + g - s.gcc
    .next { shiftTimes f s with gcc := g, hd := { s.hd with joined := true } }

end Sys2Proof.Machine
end

