-- ==== Sys2Proof/Machine/Tiers.lean ====
section
/-!
DEFINITION. The tiers over hours (R438 to R449): access counters, error windows and the patrol scrubber, checkpoints, the
capability list (R458), and the repair of HBM lanes.
-/
namespace Sys2Proof.Machine

/-! ## Access counters (R438, R439) -/

/-- Whether an address lies in the area of a die's counters. -/
def inCounters (d a : Nat) : Bool := decide (counterBase d ≤ a) && decide (a < counterBase d + 2 * diePages d)

/-- Every counter of a die's pages becomes zero. -/
def clearCounters (s : State) (d : Nat) : State :=
  { s with ms := { s.ms with mem := s.ms.mem.filter (fun x => !inCounters d x.1) } }

/-- PACTL_CLR of die `ev.idx`. -/
def execPactlClr (s : State) : Host.Outcome State Fault Refusal :=
  if s.ev.idx < 9 then .next (clearCounters s s.ev.idx) else .refused .notEnabled

/-! ## Errors (R444) -/

def dieRegs (s : State) (d : Nat) : Die := tget Die.reset s.pt.dies d

def setDie (s : State) (d : Nat) (x : Die) : State := { s with pt := { s.pt with dies := tset s.pt.dies d x } }

/-- The windows of 2^31 cycles that have ended. -/
def windowsPast (s : State) : Nat := s.gcc / 2 ^ 31

/-- ECC_RATE_WINDOW of die `ev.idx`: the count of corrected errors starts anew. -/
def execEccRateWindow (s : State) : Host.Outcome State Fault Refusal :=
  let d := s.ev.idx
  let x := dieRegs s d
  if 9 ≤ d ∨ windowsPast s ≤ x.win then .refused .notEnabled
  else .next (setDie s d { x with win := windowsPast s, ecc := x.ecc &&& 0xFFFF0000 })

/-- PATROL_SCRUB of line `ev.idx` of HBM: `ev.idx2` tells of an error that it finds. -/
def execPatrolScrub (s : State) : Host.Outcome State Fault Refusal :=
  match homeDie (s.ev.idx * 128) with
  | some d => if d < 8 then .next (eccAt s s.ev.idx s.ev.idx2) else .refused .notEnabled
  | none => .refused .notEnabled

/-! ## Checkpoints (R445 to R447) -/

/-- ckpt.stat.ST and VALID. -/
def ckptSt (s : State) : Nat := (s.pt.ckptStat.extractLsb' 0 3).toNat

def ckptValid (s : State) : Bool := s.pt.ckptStat.getLsbD 3

/-- ckpt.stat with ST and VALID changed. -/
def setCkpt (s : State) (st : Nat) (valid : Bool) : State :=
  { s with pt := { s.pt with
    ckptStat := (s.pt.ckptStat &&& 0xFFFF0000) ||| BitVec.ofNat 32 (st + (if valid then 8 else 0)) } }

/-- Whether start-up reserved the checkpoint region: its step was not skipped (R451). -/
def ckptPresent (s : State) : Bool := s.pt.start.journal.getD 21 0 != 4

/-- The groups that stand on a core. -/
def standing (s : State) : List Nat :=
  (s.sched.groups.filter (fun x => x.2.status == .resident || x.2.status == .leaving)).map (·.1)

/-- ckpt.ctl.START. -/
def startCheckpoint (s : State) : State :=
  if !ckptPresent s || !(ckptSt s == 0 || ckptSt s == 3) then s
  else (standing s).foldl (fun s h =>
    if (s.group h).status == .resident then groupLeaves s h .preemption none 16 else s) (setCkpt s 1 false)

/-- CHECKPOINT_START. -/
def execCheckpointStart (s : State) : Host.Outcome State Fault Refusal := .next (startCheckpoint s)

/-- Whether a core's engine queues have drained; a MARKW that waits for its group holds no engine. -/
def drained (k : Core) : Bool :=
  k.copyq.all (fun x => x.2.isEmpty) && k.ecmds.all isHold && k.eng.queue.isEmpty && k.eng.run.isNone && k.eng.fills.isEmpty

/-- Whether the quiesce has come to its end. -/
def quiesced (s : State) : Bool :=
  ckptSt s == 1 && (standing s).isEmpty && s.sched.groups.all (fun x => !x.2.open_) && s.cores.all (fun x => drained x.2) &&
    s.sched.builds.isEmpty && s.pt.channels.all (fun x => !x.2.held)

/-- Every dirty line of every core cache is written back. -/
def flushCaches (s : State) : State :=
  (s.cores.map (·.1)).foldl (fun s c => (((s.core c).cache).map (·.1)).foldl (fun s ln => writeBack s c ln true) s) s

/-- Whether an address of the fast tier is copied: its die is there. -/
def copied (s : State) (a : Nat) : Bool := decide (a < 2 ^ 40) && present s a

/-- Move the bytes, and the poison, of the copied ranges from one base to another. -/
def moveImage (s : State) (src dst : Nat) : State :=
  let isIn (b a : Nat) : Bool := decide (b ≤ a) && copied s (a - b)
  let got := s.ms.mem.filter (fun x => isIn src x.1)
  let kept := s.ms.mem.filter (fun x => !isIn dst x.1)
  let bad := s.ms.poisoned.filter (fun ln => isIn src (128 * ln))
  let sound := s.ms.poisoned.filter (fun ln => !isIn dst (128 * ln))
  { s with ms := { s.ms with
    mem := got.foldl (fun m x => memSet m (x.1 - src + dst) x.2) kept
    poisoned := sound ++ bad.map (fun ln => lineOf (128 * ln - src + dst)) } }

/-- UE counts each uncorrectable line that the copy reads. -/
def countBad (s : State) : State :=
  (s.ms.poisoned.filter (fun ln => copied s (128 * ln))).foldl (fun s ln => eccAt s ln 2) s

/-- The warps that wait with their groups. -/
def parkedWarps (s : State) : Table (Table Warp) :=
  s.cores.map (fun (x : Nat × Core) => (x.1, x.2.warps.filter (fun w => decide (32 ≤ w.1))))

/-- Bytes written by physical address by the copy engines: a line that they cover whole loses its poison (R443). -/
def copyWrite (s : State) (pa : Nat) (l : List Byte) : State :=
  let whole (ln : Nat) : Bool := decide (pa ≤ 128 * ln) && decide (128 * ln + 128 ≤ pa + l.length)
  { s with ms := { s.ms with mem := memWrite s.ms.mem pa l, poisoned := s.ms.poisoned.filter (fun ln => !whole ln) } }

/-- The device state area: its place and its bytes, at most 32 GiB of a layout of the device's own (R445). -/
def areaBase : Nat := Config.ckptBase + 0x10000000000

def areaBytes (n : Nat) : List Byte := (Config.stateArea n).take 0x800000000

/-- The header: its place in the last 32 GiB of the region, and its 4 KiB with their CRC-32 at the end (R445). -/
def headerBase : Nat := Config.ckptBase + 0x10800000000 + 4096 * (Config.headerPlace % 0x800000)

def headerBytes (n : Nat) : List Byte :=
  let l := (List.range 4092).map (Config.headerByte n)
  l ++ bytesOf 4 (crc32 l).toNat

/-- Whether the header of the region carries its CRC. -/
def headerOk (s : State) : Bool :=
  decide ((crc32 (memBytes s.ms.mem headerBase 4092)).toNat = memRead s.ms.mem (headerBase + 4092) 4)

/-- CHECKPOINT_COPY: HBM and the state area go to the region; with `ev.write` a write to the region fails. -/
def execCheckpointCopy (s : State) : Host.Outcome State Fault Refusal :=
  if !quiesced s then .refused .notEnabled
  else if s.ev.write then .next (setCkpt s 4 false)
  else
    let s := moveImage (countBad (flushCaches s)) 0 Config.ckptBase
    let (n, s) := s.draw
    let x : Ckpt :=
      { sched := s.sched, fr := s.fr, csess := s.hd.csess, closed := s.hd.closed, root := s.ms.root, ptrl := s.ms.ptrl, ptrh := s.ms.ptrh, parked := parkedWarps s,
        area := n }
    let s := copyWrite s areaBase (areaBytes n)
    .next (setCkpt { s with pt := { s.pt with ckptState := some x } } 2 false)

/-- CHECKPOINT_SEAL: the header, VALID, and the next GEN; with `ev.write` the write of the header fails (R446). -/
def execCheckpointSeal (s : State) : Host.Outcome State Fault Refusal :=
  if ckptSt s ≠ 2 then .refused .notEnabled
  else if s.ev.write then .next (setCkpt s 4 false)
  else
    let (n, s) := s.draw
    .next (setCkpt { copyWrite s headerBase (headerBytes n) with
      pt := { s.pt with ckptStat := s.pt.ckptStat + 0x10000 } } 3 true)

/-- The caches hold nothing. -/
def dropCaches (s : State) : State :=
  { s with
    cores := s.cores.map (fun (x : Nat × Core) => (x.1, { x.2 with cache := [], texCache := [], tlb := [] }))
    ms := { s.ms with l2 := [], rdc := [], tcache := [] } }

/-- The state area is reloaded, and saved groups stand in their lists again. -/
def reload (s : State) (x : Ckpt) : State :=
  let back (y : Nat × Core) : Nat × Core :=
    (y.1, { y.2 with warps := y.2.warps.filter (fun w => decide (w.1 < 32)) ++ tget [] x.parked y.1 })
  { s with
    sched := x.sched, fr := x.fr, hd := { s.hd with csess := x.csess, closed := x.closed }, ms := { s.ms with root := x.root, ptrl := x.ptrl, ptrh := x.ptrh }
    cores := s.cores.map back }

/-- ckpt.ctl.RESTORE: with an image and no group resident, HBM is copied back, the header's CRC is checked, and the state area
is reloaded. What the area holds once software has changed it is open: the restore then fails, or reloads it as it was. -/
def restoreCheckpoint (s : State) : State :=
  if !ckptPresent s || !ckptValid s || inCheckpoint s || !(standing s).isEmpty then s
  else
    let (n, s) := s.draw
    let s := dropCaches (moveImage (flushCaches s) Config.ckptBase 0)
    match s.pt.ckptState with
    | some x =>
      let sound := memBytes s.ms.mem areaBase (areaBytes x.area).length == areaBytes x.area
      if headerOk s && (sound || Config.freeBool n) then reload s x else setCkpt s 4 true
    | none => setCkpt s 4 true

/-- CHECKPOINT_RESTORE. -/
def execCheckpointRestore (s : State) : Host.Outcome State Fault Refusal := .next (restoreCheckpoint s)

/-! ## The capability list (R458) -/

/-- Bits of a list of Bools as bytes. -/
def bitBytes (n : Nat) (f : Nat → Bool) : List Byte :=
  (List.range n).map (fun i => BitVec.ofNat 8 ((List.range 8).foldl (fun m j => if f (8 * i + j) then m + 2 ^ j else m) 0))

/-- The bodies of the records, in list order; those of an absent feature are left out (DESIGN CHOICE, log entry 111: the fields
of records 3, 4 and 5 take eight bytes each, a bit for each head and each output, and record 8 ends with one bit for each of 128
channels). -/
def capBodies (s : State) : List (Nat × List Byte) :=
  let skipped (i : Nat) : Bool := s.pt.start.journal.getD (i - 1) 0 == 4
  [(1, bytesOf 4 ((if Config.feature 0 then 1 else 0) + (if Config.feature 1 then 2 else 0) + (if skipped 22 then 0 else 4))),
   (2, ((List.range 144).map (fun a => (List.range 144).map (fun b => BitVec.ofNat 8 (routeLat a b)))).flatten),
   (3, bytesOf 8 (((List.range 12).map (fun p => if (tget Port.reset s.hd.ports p).up then 2 ^ p else 0)).foldl (· + ·) 0) ++
     bytesOf 8 Config.controlAddr)] ++
  (if skipped 20 then [] else [(4, bytesOf 8 0xFF ++ bytesOf 8 0x03)]) ++
  [(5, bytesOf 8 (2 ^ 41) ++ bytesOf 8 Config.ckptBase), (6, bitBytes 18 Config.ovok),
   (7, ((List.range 144).map (fun c => [BitVec.ofNat 8 (Config.carveMin c), BitVec.ofNat 8 (Config.carveMax c)])).flatten),
   (8, bitBytes 18 (fun c => !(s.core c).enabled) ++ bitBytes 2 (fun d => decide (d < 9) && !(tget Die.reset s.pt.dies d).present) ++
     bitBytes 16 (fun n => (tget Channel.reset s.pt.channels n).degraded))]

/-- The records from an address on, each 8-byte aligned. -/
def capBytes (va : Nat) : List (Nat × List Byte) → List Byte
  | [] => []
  | (id, b) :: r =>
    let n := 16 + (b.length + 7) / 8 * 8
    bytesOf 2 id ++ bytesOf 2 (Config.capVersion id) ++ bytesOf 4 b.length ++ bytesOf 8 (if r.isEmpty then 0 else va + n) ++ b ++
      List.replicate (n - 16 - b.length) 0 ++ capBytes (va + n) r

/-- Where the capability list stands, 8-byte aligned (R458): the address that the host reads, and the physical one. -/
def capVa : DWord := Config.capAddr &&& ~~~7#64

def capPa : Nat := Config.capPhys / 8 * 8

/-- The capability list as bytes. -/
def capList (s : State) : List Byte := capBytes capVa.toNat (capBodies s)

/-! ## HBM lane repair (R448, R449) -/

def chanOf (s : State) (n : Nat) : Channel := tget Channel.reset s.pt.channels n

def setChan (s : State) (n : Nat) (x : Channel) : State := { s with pt := { s.pt with channels := tset s.pt.channels n x } }

/-- A channel is degraded, and its bit is set in the capability list (R449, R458). -/
def degrade (s : State) (n : Nat) : State :=
  let a := capPa + (capList s).length - 20 + n / 8
  let s := setChan s n { chanOf s n with degraded := true }
  homeWrite s a [memGet s.ms.mem a ||| BitVec.ofNat 8 (2 ^ (n % 8))]

/-- A lane is to be repaired; a channel without spares is degraded. -/
def startRepair (s : State) (n lane : Nat) : State :=
  if (chanOf s n).spares = 0 then (if (chanOf s n).degraded then s else degrade s n) else setChan s n { chanOf s n with repairing := some lane }

/-- The errors of a lane within the last 2^24 cycles. -/
def recentErrs (s : State) (n lane : Nat) : List Nat :=
  (tget [] (chanOf s n).errs lane).filter (fun t => decide (s.gcc < t + 2 ^ 24))

/-- Count an error of a lane; the sixteenth within 2^24 cycles starts a repair, one at a time on a channel. -/
def countCrc (s : State) (n lane : Nat) : State :=
  let l := recentErrs s n lane ++ [s.gcc]
  let s := setChan s n { chanOf s n with errs := tset (chanOf s n).errs lane l }
  if l.length < 16 ∨ (chanOf s n).repairing.isSome then s else startRepair s n lane

/-- A lane whose errors came while another one was repaired is repaired next. -/
def nextRepair (s : State) (n : Nat) : State :=
  match (chanOf s n).errs.find? (fun x => decide (16 ≤ (recentErrs s n x.1).length)) with
  | some x => startRepair s n x.1
  | none => s

/-- A burst fails its fourth retry: under repair it is abandoned, to be issued again; else its line is poisoned, and on a
channel without spares a record names its page (R449). -/
def burstFails (s : State) (n ln : Nat) : State :=
  let x := chanOf s n
  if x.repairing.isSome then setChan s n { x with abandoned := x.abandoned ++ [ln] }
  else
    let s := eccAt s ln 2
    if x.degraded || x.spares == 0 then
      postPlain s { plainRecord s .poisonedData 0 7 0 noGroup (BitVec.ofNat 64 (ln * 128 / 65536 * 65536)) with
        core := 16 * (homeDie (ln * 128)).getD 0 }
    else s

/-- A burst of a line fails its link CRC on a lane: it is replayed, up to four times (R448). -/
def crcError (s : State) (n ln lane : Nat) : State :=
  let s := countCrc s n lane
  let x := chanOf s n
  let open_ := x.replays.filter (fun r => decide (s.gcc ≤ r.due))
  let rest := open_.filter (fun r => r.line != ln)
  let k := match open_.find? (fun r => r.line == ln) with | some r => r.n | none => 0
  if k < 4 then
    let (f, s) := s.draw
    setChan s n { x with replays := rest ++ [⟨ln, lane, k + 1, s.gcc + 1 + Config.freeNat f⟩] }
  else burstFails (setChan s n { x with replays := rest }) n ln

/-- HBM_CRC_ERROR on a burst of line `ev.idx`, on lane `ev.idx2`. -/
def execHbmCrcError (s : State) : Host.Outcome State Fault Refusal :=
  match homeDie (s.ev.idx * 128) with
  | some d =>
    if d < 8 then .next (crcError s (Config.channelOf s.ev.idx) s.ev.idx s.ev.idx2) else .refused .notEnabled
  | none => .refused .notEnabled

/-- LANE_REMAP of channel `ev.idx`, at its refresh window, when no replay is outstanding on the lane: a spare takes the lane's place,
and reads are held. -/
def execLaneRemap (s : State) : Host.Outcome State Fault Refusal :=
  let x := chanOf s s.ev.idx
  match x.repairing with
  | none => .refused .notEnabled
  | some l =>
    if x.held || x.replays.any (fun r => r.lane == l && decide (s.gcc ≤ r.due)) then .refused .notEnabled
    else .next (setChan s s.ev.idx { x with
      spares := x.spares - 1, remap := x.remap ++ [(l, 2 - x.spares)], held := true, window := s.gcc, errs := tdel x.errs l })

/-- The longest that reads are held. -/
def repairWindow : Nat := 2048

/-- REPAIR_WINDOW_END of channel `ev.idx`: the abandoned bursts are issued again, before the requests held. -/
def execRepairWindowEnd (s : State) : Host.Outcome State Fault Refusal :=
  let x := chanOf s s.ev.idx
  if !x.held then .refused .notEnabled
  else
    let (k, s) := s.draw
    let due (m : Miss) : Miss :=
      if Config.channelOf m.line ≠ s.ev.idx ∨ m.arrived then m
      else if x.abandoned.contains m.line then { m with due := max m.due (s.gcc + 1 + Config.freeNat k) }
      else { m with due := max m.due (s.gcc + 2 + Config.freeNat k) }
    let s := { s with ms := { s.ms with misses := s.ms.misses.map due } }
    .next (nextRepair (setChan s s.ev.idx { x with held := false, repairing := none, abandoned := [] }) s.ev.idx)

end Sys2Proof.Machine
end

