-- ==== Sys2Proof/Machine/Security.lean ====
section
/-!
DEFINITION. Start-up and security (R450 to R458): the steps of a start under its journal, recovery, the capability list, the
life cycle, and the attestation mailbox with the SHA-256 that its digests use.
-/
namespace Sys2Proof.Machine

/-! ## SHA-256 -/

/-- The constants of the rounds. -/
def shaK : List Word :=
  [0x428A2F98, 0x71374491, 0xB5C0FBCF, 0xE9B5DBA5, 0x3956C25B, 0x59F111F1, 0x923F82A4, 0xAB1C5ED5,
   0xD807AA98, 0x12835B01, 0x243185BE, 0x550C7DC3, 0x72BE5D74, 0x80DEB1FE, 0x9BDC06A7, 0xC19BF174] ++
  [0xE49B69C1, 0xEFBE4786, 0x0FC19DC6, 0x240CA1CC, 0x2DE92C6F, 0x4A7484AA, 0x5CB0A9DC, 0x76F988DA,
   0x983E5152, 0xA831C66D, 0xB00327C8, 0xBF597FC7, 0xC6E00BF3, 0xD5A79147, 0x06CA6351, 0x14292967] ++
  [0x27B70A85, 0x2E1B2138, 0x4D2C6DFC, 0x53380D13, 0x650A7354, 0x766A0ABB, 0x81C2C92E, 0x92722C85,
   0xA2BFE8A1, 0xA81A664B, 0xC24B8B70, 0xC76C51A3, 0xD192E819, 0xD6990624, 0xF40E3585, 0x106AA070] ++
  [0x19A4C116, 0x1E376C08, 0x2748774C, 0x34B0BCB5, 0x391C0CB3, 0x4ED8AA4A, 0x5B9CCA4F, 0x682E6FF3,
   0x748F82EE, 0x78A5636F, 0x84C87814, 0x8CC70208, 0x90BEFFFA, 0xA4506CEB, 0xBEF9A3F7, 0xC67178F2]

/-- The initial hash value. -/
def shaInit : List Word :=
  [0x6A09E667, 0xBB67AE85, 0x3C6EF372, 0xA54FF53A, 0x510E527F, 0x9B05688C, 0x1F83D9AB, 0x5BE0CD19]

/-- The next word of a message schedule, which is held with the latest word first. -/
def shaNext (w : List Word) : Word :=
  let g (i : Nat) : Word := w.getD i 0
  let s0 := (g 14).rotateRight 7 ^^^ (g 14).rotateRight 18 ^^^ (g 14 >>> 3)
  let s1 := (g 1).rotateRight 17 ^^^ (g 1).rotateRight 19 ^^^ (g 1 >>> 10)
  g 15 + s0 + g 6 + s1

def shaExtend : Nat → List Word → List Word
  | 0, w => w
  | n + 1, w => shaExtend n (shaNext w :: w)

/-- One round. -/
def shaRound (h : List Word) (kw : Word) : List Word :=
  match h with
  | [a, b, c, d, e, f, g, i] =>
    let t1 := i + (e.rotateRight 6 ^^^ e.rotateRight 11 ^^^ e.rotateRight 25) + ((e &&& f) ^^^ (~~~e &&& g)) + kw
    let t2 := (a.rotateRight 2 ^^^ a.rotateRight 13 ^^^ a.rotateRight 22) + ((a &&& b) ^^^ (a &&& c) ^^^ (b &&& c))
    [t1 + t2, a, b, c, d + t1, e, f, g]
  | h => h

/-- Four bytes of a block as a word, the first byte highest. -/
def shaWord (b : List Byte) (i : Nat) : Word := BitVec.ofNat 32 (ofBytes ((b.drop (4 * i)).take 4).reverse)

/-- One block of 64 bytes. -/
def shaBlock (h : List Word) (b : List Byte) : List Word :=
  let w := shaExtend 48 (((List.range 16).map (shaWord b)).reverse)
  let r := ((w.reverse.zip shaK).map (fun x => x.1 + x.2)).foldl shaRound h
  (h.zip r).map (fun x => x.1 + x.2)

/-- The message with its padding. -/
def shaPad (l : List Byte) : List Byte :=
  l ++ [0x80] ++ List.replicate ((119 - l.length % 64) % 64) 0 ++ (bytesOf 8 (8 * l.length)).reverse

def sha256 (l : List Byte) : List Byte :=
  let p := shaPad l
  (((chunks 64 (p.length / 64) p).foldl shaBlock shaInit).map (fun w => (bytesOf 4 w.toNat).reverse)).flatten

/-! ## Start-up (R450 to R452) -/

/-- What a step of the start does when it failed in the last one. -/
inductive StartAlt where
  | none | die | quad | hbm | port | retrain | skip
  deriving DecidableEq, Repr

/-- The alternative of step `i + 1` (R451). -/
def startAlt (i : Nat) : StartAlt :=
  match i + 1 with
  | 5 | 6 | 9 | 12 | 17 => .die
  | 11 => .quad
  | 18 => .port
  | 7 | 8 | 10 | 19 => .retrain
  | 20 | 22 => .skip
  | _ => .none

/-- The firmware image in the flash. -/
def firmware (s : State) : List Byte := s.pt.start.image.getD Config.flashImage

def updStart (s : State) (f : Start → Start) : State := { s with pt := { s.pt with start := f s.pt.start } }

/-- Switch cores off for good. -/
def disableCores (s : State) (cs : List Nat) : State := cs.foldl (fun s c => s.updCore c (fun k => { k with enabled := false })) s

/-- The alternative of a step, on what the start finds failing. -/
def runAlt (s : State) (i n : Nat) : State :=
  match startAlt i with
  | .die =>
    let d := if i = 16 then n % 4 else n % 8
    setDie (disableCores s ((List.range 16).map (fun k => 16 * d + k))) d { dieRegs s d with present := false }
  | .quad => disableCores s (quadCores (n % 36))
  | .port => { s with hd := { s.hd with ports := tset s.hd.ports (n % 12) ⟨false, []⟩ } }
  | _ => s

/-- A step that failed in the last start ends by its alternative; the others end done. -/
def stepStatus (was : Byte) (i : Nat) : Byte :=
  if was ≠ 2 then 1
  else match startAlt i with
    | .none => 1
    | .skip => 4
    | _ => 3

/-- The step at which this start fails: the image check fails by its signature, any other as the part finds it. -/
def failsAt (s : State) (n i : Nat) : Bool := if i = 2 then !Config.signatureOk (firmware s) else Config.freeNat n % 25 == i

/-- The alternatives of a start that has come to its end. -/
def runAlts (was : List Byte) : List Nat → State → State
  | [], s => s
  | i :: r, s =>
    if was.getD i 0 = 2 then
      let (n, s) := s.draw
      runAlts was r (runAlt s i (Config.freeNat n))
    else runAlts was r s

/-- A firmware warp. DESIGN CHOICE (log entry 112): it has no launch seed, and its noise takes two boot words for one, with group 0
and its core's number for its warp's. -/
def firmwareWarp (c : Nat) : Warp :=
  { Warp.empty with
    status := .run, level := .f, handle := noGroup, entries := [⟨Config.fwEntry c, 0, BitVec.allOnes 128, false, 0, .none, none⟩]
    segLimit := [(0, BitVec.ofNat 64 (2 ^ 57)), (4, BitVec.ofNat 64 (2 ^ 56))], seeded := some (Config.bootWord 16 ++ Config.bootWord 17, 0, c) }

/-- The cores 130 and 131 start at level F. -/
def startFirmware (s : State) : State :=
  let s := [130, 131].foldl (fun s c => s.updCore c (fun k => { k with warps := tset k.warps 0 (firmwareWarp c) })) s
  updStart s (fun x => { x with fwPools := [130, 131].map (fun c => (c, (List.range 8).map (Config.fwPool c))) })

/-- The translation root and the rings. -/
def startRoots (s : State) : State :=
  let w := Config.bootWord
  { s with
    ms := { s.ms with ptrl := lowAddr (w 0), ptrh := highAddr (w 1), root := highAddr (w 1) ++ lowAddr (w 0) }
    rg := { s.rg with
      ringsl := lowAddr (w 2), ringsh := highAddr (w 3), ringsc := w 4 &&& 0x1F, ringfl := lowAddr (w 5), ringfh := highAddr (w 6)
      ringfc := w 7 &&& 0x1F, tvsl := lowAddr (w 8), tvsh := highAddr (w 9), tvfl := lowAddr (w 10), tvfh := highAddr (w 11) } }

/-- What a start leaves that has come to its end; VALID is checked (R445, R451). -/
def startPart (s : State) (was : List Byte) : State :=
  let s := runAlts was (List.range 24) { s with gcc := 0, hd := { s.hd with ports := [] } }
  let s := if s.pt.start.wipe then updStart { s with ms := { s.ms with mem := [], poisoned := [] } } (fun x => { x with wipe := false }) else s
  let s := startRoots (startFirmware s)
  let s := if ckptPresent s then setCkpt s 0 (ckptValid s && headerOk s) else s
  let s := { s with ms := { s.ms with mem := memWrite s.ms.mem capPa (capList s) }, pt := { s.pt with capList := capVa }
                    fr := { s.fr with gov := Frames.reset.gov } }
  updStart { s with hd := { s.hd with outbox := s.hd.outbox ++ [(hostPort, .ready)] } } (fun x => { x with started := true })

/-- Recovery mode: the H-die and the Huabin link come up alone (R452). -/
def enterRecovery (s : State) : State :=
  let s := (List.range 8).foldl (fun (s : State) d =>
    setDie (disableCores s ((List.range 16).map (fun k => 16 * d + k))) d { dieRegs s d with present := false }) s
  updStart { s with hd := { s.hd with ports := (List.range 12).map (fun p => (p, ⟨false, []⟩)) } } (fun x => { x with recovery := true })

/-- A start that fails at step `i + 1`: it is counted, and the third failure in a row, or a bad image, enters recovery mode. -/
def failStart (s : State) (i : Nat) : State :=
  let j := (List.range 24).map (fun k => if k < i then stepStatus (s.pt.start.journal.getD k 0) k else if k = i then 2 else 0)
  let n := s.pt.start.counts.getD i 0 + 1
  let counts := (List.range 24).map (fun k => if k = i then n else 0)
  let s := updStart s (fun x => { x with journal := j, counts := counts })
  if i = 2 ∨ 3 ≤ n then enterRecovery s else s

/-- Whether the dies 0 to 7 are at rest: no warp stands on their cores, and nothing that they sent is under way. -/
def diesRest (s : State) : Bool :=
  (standing s).all (fun h => decide (128 ≤ (s.group h).core)) && s.ms.reqs.all (fun r => decide (128 ≤ r.core)) &&
    (List.range 128).all (fun c => drained (s.core c))

/-- The dies 0 to 7 are reset: their cores, caches, registers and memory lose what they held. The H-die and the capacity tier,
a power domain of their own, keep theirs (R17). -/
def resetDies (s : State) : State :=
  let out (a : Nat) : Bool := match homeDie a with | some d => decide (8 ≤ d) | none => true
  let die (d : Nat) : Die := { Die.reset with present := (dieRegs s d).present, win := (dieRegs s d).win }
  { s with
    cores := s.cores.map (fun (x : Nat × Core) =>
      if x.1 < 128 then (x.1, x.2.lost) else x)
    pt := { s.pt with dies := (List.range 8).foldl (fun t d => tset t d (die d)) s.pt.dies }
    ms := { s.ms with
      mem := s.ms.mem.filter (fun x => out x.1), poisoned := s.ms.poisoned.filter (fun ln => out (128 * ln))
      l2 := s.ms.l2.filter (fun ln => out (128 * ln)), rdc := s.ms.rdc.filter (fun x => decide (8 ≤ x.1)) } }

/-- The part is started anew: it stands as at reset, with what its flash and its fuses hold, and its memory, channels and checkpoint
image as they were. DESIGN CHOICE, log entry 114. -/
def restart (s : State) : State :=
  { State.reset with
    drawn := s.drawn, nextId := s.nextId, agenda := s.agenda
    ms := { MemSys.reset with mem := s.ms.mem, poisoned := s.ms.poisoned }
    pt := { Plant.reset with
      channels := s.pt.channels, ckptStat := s.pt.ckptStat, ckptState := s.pt.ckptState
      start := { s.pt.start with started := false, recovery := false, nonce := [], unlocked := none, fwPools := [] } } }

/-- POWER_ON_START: the steps run in order; a step may fail, which ends this start. On a part that runs it starts the part anew, or
with `ev.write` it is a reset of the eight dies. DESIGN CHOICE (log entry 114): that reset comes from outside, while these dies
are at rest. -/
def execPowerOnStart (s : State) : Host.Outcome State Fault Refusal :=
  if s.pt.start.started then
    if !s.ev.write then .next (restart s) else if diesRest s then .next (resetDies s) else .refused .notEnabled
  else if s.pt.start.recovery then .refused .notEnabled
  else
    let (n, s) := s.draw
    match (List.range 24).find? (failsAt s n) with
    | some i => .next (failStart s i)
    | none =>
      let was := s.pt.start.journal
      let s := updStart s (fun x => { x with
        journal := (List.range 24).map (fun k => stepStatus (was.getD k 0) k), counts := List.replicate 24 0 })
      let t := startPart s was
      .next (if (t.core 128).enabled then t else enterRecovery s)

/-- RECOVERY_IMAGE_LOAD: a new image `ev.data` that passes its check clears the journal, and the part starts again. -/
def execRecoveryImageLoad (s : State) : Host.Outcome State Fault Refusal :=
  if !s.pt.start.recovery then .refused .notEnabled
  else if !Config.signatureOk s.ev.data then .next s
  else .next (updStart (restart s) (fun x => { x with
    image := some s.ev.data, journal := List.replicate 24 0, counts := List.replicate 24 0 }))

/-! ## Life cycle and attestation (R453 to R455) -/

/-- Provisioning generates the device identity key and takes the vendor's certificate of it (R453). -/
def provision (s : State) : State :=
  let (k, s) := s.draw
  updStart s (fun x => { x with ident := some k, cert := Config.certificate k })

/-- LIFE_CYCLE_TRANSITION: one state onwards; Provisioned has its key written, and Returned has memory zeroed before the next start is
ready (R453). -/
def execLifeCycleTransition (s : State) : Host.Outcome State Fault Refusal :=
  let n := s.pt.start.lifecycle
  if 3 ≤ n then .refused .notEnabled
  else
    let s := if n = 0 then provision s else s
    .next (updStart s (fun x => { x with lifecycle := n + 1, wipe := x.wipe || n == 2 }))

/-- Bytes of the mailbox. -/
def mailRead (s : State) (o n : Nat) : List Byte := memBytes s.pt.mailbox o n

def mailWrite (s : State) (o : Nat) (b : List Byte) : State := { s with pt := { s.pt with mailbox := memWrite s.pt.mailbox o b } }

/-- The command is taken, with a status. -/
def mailDone (s : State) (status : Nat) : State := mailWrite (mailWrite s 0 (bytesOf 4 0)) 4 (bytesOf 4 status)

/-- The debug state of the part: the highest of its cores. -/
def debugState (s : State) : Nat := (s.cores.map (fun x => (x.2.dbg.extractLsb' 5 2).toNat)).foldl max 0

/-- The body of a report. -/
def reportBody (s : State) : List Byte :=
  [1, BitVec.ofNat 8 s.pt.start.lifecycle, BitVec.ofNat 8 (debugState s), 0] ++ List.replicate 12 0 ++ mailRead s 8 32 ++
    sha256 (firmware s) ++ sha256 (s.pt.start.journal ++ s.pt.start.counts.map (BitVec.ofNat 8)) ++ sha256 (memBytes s.ms.mem capPa (capList s).length)

/-- CMD 1: a report signed with the identity key, or status 3 while there is none. -/
def attest (s : State) : State :=
  match s.pt.start.ident with
  | none => mailDone s 3
  | some k =>
    let body := reportBody s
    let sig := (Config.sign k body ++ List.replicate 384 0).take 384
    let s := mailWrite (mailWrite s 64 body) 208 sig
    mailDone (updStart s (fun x => { x with nonce := mailRead s 8 32 })) 2

/-- CMD 2: an unlock token over the nonce of the latest report. -/
def unlock (s : State) : State :=
  let body := mailRead s 64 144
  if body.getD 3 0 = 1 ∧ (body.drop 16).take 32 = s.pt.start.nonce ∧ Config.signatureOk (body ++ mailRead s 208 384) then
    mailDone (updStart s (fun x => { x with unlocked := some (field body 2 1) })) 4
  else mailDone s 5

/-- The command in the mailbox. -/
def mailCmd (s : State) : Nat := field (mailRead s 0 4) 0 4

/-- ATTEST. -/
def execAttest (s : State) : Host.Outcome State Fault Refusal := if mailCmd s = 1 then .next (attest s) else .refused .notEnabled

/-- UNLOCK. -/
def execUnlock (s : State) : Host.Outcome State Fault Refusal := if mailCmd s = 2 then .next (unlock s) else .refused .notEnabled

end Sys2Proof.Machine
end

