-- ==== Sys2Proof/Machine/Adapter.lean ====
section
/-!
DEFINITION. The Huabin adapter (R328, R459): host accesses to device memory, and reads and writes of the register window by the host and by level F.
-/
namespace Sys2Proof.Machine

/-! ## Memory (R328) -/

/-- The physical addresses of a span, or the first failure. -/
def hostSpan (s : State) (n : Need) : Nat → Nat → Except (Nat × Nat) (List Nat)
  | _, 0 => .ok []
  | va, k + 1 =>
    match xlate s .s n va with
    | .error e => .error (e, va)
    | .ok pa =>
      match hostSpan s n (va + 1) k with
      | .ok r => .ok (pa :: r)
      | .error e => .error e

/-- The bytes of a span, line by line. -/
def lineParts : List (Nat × Byte) → List (Nat × List Byte)
  | [] => []
  | (pa, b) :: r =>
    match lineParts r with
    | (q, l) :: t => if q = pa + 1 ∧ lineOf q = lineOf pa then (pa, b :: l) :: t else (pa, [b]) :: (q, l) :: t
    | [] => [(pa, [b])]

/-- A host write at its home. -/
def hostStore (s : State) (pas : List Nat) (bs : List Byte) : State :=
  (lineParts (pas.zip bs)).foldl (fun s x => homeWrite (netAccess s (lineOf x.1)) x.1 x.2) s

/-- The bytes that a host read returns: a byte of a poisoned line is free. -/
def hostBytes (s : State) : List Nat → State × List Byte
  | [] => (s, [])
  | pa :: r =>
    let (n, s) := s.draw
    let b := if s.ms.poisoned.contains (lineOf pa) then Config.freeByte n else memGet s.ms.mem pa
    let (s, l) := hostBytes s r
    (s, b :: l)

/-- Data for the host leaves the part. -/
def toHost (s : State) (stream : Nat) (l : List Byte) : State :=
  { s with hd := { s.hd with outbox := s.hd.outbox ++ [(hostPort, .hostData stream l)] } }

/-- The record of a host access that fails (R392). -/
def hostRecord (s : State) (sub ak va : Nat) : State :=
  postPlain s { plainRecord s .translationFault sub 6 ak noGroup (BitVec.ofNat 64 va) with core := 128 }

/-- A host write of `bs`; one that fails is dropped. -/
def hostWrite (s : State) (va : Nat) (bs : List Byte) : State :=
  match hostSpan s .write va bs.length with
  | .ok pas => hostStore s pas bs
  | .error (e, a) => hostRecord s e 1 a

/-- A host read of `n` bytes; one that fails completes with all ones. -/
def hostRead (s : State) (stream va n : Nat) : State :=
  match hostSpan s .read va n with
  | .ok pas =>
    let s := netAll s (pas.map lineOf).eraseDups
    let (s, l) := hostBytes s pas
    toHost s stream l
  | .error (e, a) => toHost (hostRecord s e 0 a) stream (List.replicate n 0xFF)

/-- Whether a span lies, in part, in lines that a repair window holds (R448). -/
def hostHeld (s : State) (va n : Nat) : Bool :=
  match hostSpan s .read va n with
  | .ok pas => pas.any (fun pa => readHeld s (lineOf pa))
  | .error _ => false

/-- An access of the host on request stream `m` to device memory: it writes `bs`, or reads `n` bytes. A sequential one takes its
position of the wheel (R321, R459); a checkpoint holds writes (R446). -/
def hostAccess (s : State) (sc write : Bool) (m va n : Nat) (bs : List Byte) : Host.Outcome State Fault Refusal :=
  if 8 ≤ m ∨ (write ∧ inCheckpoint s) ∨ (sc ∧ !wheelOpen s (152 + m)) ∨ hostHeld s va (if write then bs.length else n) then
    .refused .notEnabled
  else
    let s := if sc then wheelTake s (152 + m) else s
    .next (if write then hostWrite s va bs else hostRead s m va n)

/-- Where the SC aperture begins in the window (R459). -/
def scBase : Nat := 0x2000000

/-- Where an offset of the SC aperture leads. DESIGN CHOICE, log entry 121. -/
def scPlace (o : Nat) : Nat := (Config.scAddr (o - scBase)).toNat

/-! ## The register window (R459) -/

/-- A write of mem.pactl: THR, IE and EN are set, CLR acts, OVF clears by 1. -/
def writePactl (s : State) (d : Nat) (v : Word) : State :=
  let x := dieRegs s d
  let s := setDie s d { x with pactl := (v &&& 0xFFFF0003) ||| (x.pactl &&& 4 &&& ~~~v) }
  if v.getLsbD 3 then clearCounters s d else s

/-- A write of mem.ecc: RTHR is set, UE and RATE clear by 1, CEW stays. -/
def writeEcc (s : State) (d : Nat) (v : Word) : State :=
  let x := dieRegs s d
  setEcc s d ((x.ecc &&& 0xFF800000 &&& ~~~v) ||| (v &&& 0x007F0000) ||| (x.ecc &&& 0xFFFF))

/-- A write of one of a die's registers, at its offset within them. -/
def writeDieReg (s : State) (d o : Nat) (v : DWord) : State :=
  match o with
  | 0x00 => writePactl s d (v.extractLsb' 0 32)
  | 0x08 => setDie s d { dieRegs s d with mqbase := v }
  | 0x18 => setDie s d { dieRegs s d with mqtail := v.extractLsb' 0 32 }
  | 0x20 => writeEcc s d (v.extractLsb' 0 32)
  | _ => s

/-- A write of ckpt.ctl. -/
def writeCkptCtl (s : State) (v : Word) : State :=
  let s := if v.getLsbD 0 then startCheckpoint s else s
  if v.getLsbD 1 then restoreCheckpoint s else s

/-- A write of the mailbox: NONCE, and BODY and SIG for a token, are the host's; a write of CMD 1 or 2 starts it, which leaves the
mailbox busy until the device takes it, and any other CMD is rejected. -/
def writeMailbox (s : State) (o : Nat) (b : List Byte) : State :=
  let s := b.zipIdx.foldl (fun (s : State) (x : Byte × Nat) =>
    let a := o + x.2
    if a < 4 ∨ (8 ≤ a ∧ a < 40) ∨ (64 ≤ a ∧ a < 592) then mailWrite s a [x.1] else s) s
  if 4 ≤ o then s else if mailCmd s = 1 ∨ mailCmd s = 2 then mailWrite s 4 (bytesOf 4 1) else mailDone s 5

/-- A write of a register of the window at an offset. -/
def writeWindow (s : State) (o : Nat) (v : DWord) (b : List Byte) : State :=
  if 0x100 ≤ o ∧ o < 0x400 then writeMailbox s (o - 0x100) b
  else if 0x1000 ≤ o ∧ o < 0x1000 + 0x40 * 9 then writeDieReg s ((o - 0x1000) / 0x40) (o % 0x40) v
  else if o = 0x2000 then writeCkptCtl s (v.extractLsb' 0 32)
  else if 0x3000 ≤ o ∧ o < 0x3080 ∧ o % 16 = 0 then writeSoMode s ((o - 0x3000) / 16) (v.extractLsb' 0 32)
  else if o = 0 then writeStreamTable s v
  else if o = 8 then ringDoorbell s
  else if o = 0x400 then setWake s (v.extractLsb' 0 32)
  else s

/-- The register of 64 bits of the window that an offset lies in (R350, R439). -/
def wideReg (o : Nat) : Option Nat :=
  let b := o / 8 * 8
  if b = 0 ∨ b = 0x10 ∨ (0x1000 ≤ b ∧ b < 0x1000 + 0x40 * 9 ∧ b % 0x40 = 8) then some b else none

/-- A register of the window as a read returns it: a field that is written only reads as zero (R5). -/
def windowReg (s : State) (o : Nat) : DWord :=
  if o = 0 then s.sched.streamTable
  else if o = 0x10 then s.pt.capList
  else if 0x1000 ≤ o ∧ o < 0x1000 + 0x40 * 9 then
    let x := dieRegs s ((o - 0x1000) / 0x40)
    match o % 0x40 with
    | 0x00 => x.pactl.setWidth 64
    | 0x08 => x.mqbase
    | 0x10 => x.mqhead.setWidth 64
    | 0x18 => x.mqtail.setWidth 64
    | 0x20 => x.ecc.setWidth 64
    | _ => 0
  else if o = 0x2004 then s.pt.ckptStat.setWidth 64
  else if 0x3000 ≤ o ∧ o < 0x3080 ∧ o % 16 = 0 then (headOf s ((o - 0x3000) / 16)).mode.setWidth 64
  else 0

/-- The bytes that a load at an offset of the window returns. -/
def readWindow (s : State) (o n : Nat) : Nat :=
  if 0x100 ≤ o ∧ o < 0x400 then memRead s.pt.mailbox (o - 0x100) n
  else match wideReg o with
    | some b => (windowReg s b).toNat / 2 ^ (8 * (o - b)) % 2 ^ (8 * n)
    | none => (windowReg s o).toNat % 2 ^ (8 * n)

/-- A store of `n` bytes at an offset of the window: half of a register of 64 bits keeps the other half. -/
def storeWindow (s : State) (o n : Nat) (v : DWord) : State :=
  match wideReg o with
  | some b =>
    let old := (windowReg s b).toNat
    let sh := 2 ^ (8 * (o - b))
    let new := old - old / sh % 2 ^ (8 * n) * sh + v.toNat % 2 ^ (8 * n) * sh
    writeWindow s b (BitVec.ofNat 64 new) (bytesOf 8 new)
  | none => writeWindow s o (BitVec.ofNat 64 (v.toNat % 2 ^ (8 * n))) (bytesOf n v.toNat)

/-- One lane of an access of level F to the window (R5, R439). -/
def deviceLane (k : ReqKind) (s : State) (x : LaneReq) : State × LaneReq :=
  let o := x.pa - deviceBase
  match k with
  | .load t => (s, { x with val := (t.extend (readWindow s o t.bytes)).setWidth 64 })
  | .store t => (storeWindow s o t.bytes x.x, x)
  | .atom op =>
    let m : DWord := BitVec.ofNat 64 (readWindow s o op.bytes)
    (storeWindow s o op.bytes (op.apply m x.x x.y), { x with val := m })
  | .red op =>
    let m : Word := BitVec.ofNat 32 (readWindow s o 4)
    (storeWindow s o 4 ((op.apply m (x.x.setWidth 32)).setWidth 64), { x with val := m.setWidth 64 })
  | .fill _ | .acquire _ | .release _ => (s, x)

/-- An access of a core at level F to the window performs there. -/
def performDevice (s : State) (r : Req) : State :=
  let s := match r.acq with | some sc => acquireCaches s r.core sc | none => s
  let s := match r.rel with | some sc => releaseCaches s r.core sc | none => s
  let (s, ls) := eachLane (deviceLane r.kind) r.lanes s
  let (n, s) := s.draw
  setReq s { r with lanes := ls, stage := .answered, due := s.gcc + 1 + Config.freeNat n }

/-- HOST_MEMORY_ACCESS of request stream `ev.idx` at `ev.addr`: with `ev.write` it writes `ev.data`, else it reads `ev.idx2` bytes;
with `ev.val` 1 it is sequential. With `ev.val` 2 it reads the register window at offset `ev.addr`, whose SC aperture leads to
memory (R439, R455, R459). -/
def execHostMemoryAccess (s : State) : Host.Outcome State Fault Refusal :=
  let a := s.ev.addr.toNat
  if s.ev.val ≠ 2 then hostAccess s (s.ev.val != 0) s.ev.write s.ev.idx a s.ev.idx2 s.ev.data
  else if s.ev.write ∨ 8 ≤ s.ev.idx then .refused .notEnabled
  else if scBase ≤ a then hostAccess s true false s.ev.idx (scPlace a) s.ev.idx2 []
  else .next (toHost s s.ev.idx (bytesOf s.ev.idx2 (readWindow s a s.ev.idx2)))

/-- HOST_REGISTER_WRITE at window offset `ev.addr`: of the register there by `ev.val`, or of the bytes `ev.data`, which may be half of
a register or part of the mailbox. In the SC aperture it is a sequential write of memory on request stream `ev.idx`. -/
def execHostRegisterWrite (s : State) : Host.Outcome State Fault Refusal :=
  let o := s.ev.addr.toNat
  if scBase ≤ o then hostAccess s true true s.ev.idx (scPlace o) 0 s.ev.data
  else if s.ev.data.isEmpty || (decide (0x100 ≤ o) && decide (o < 0x400)) then .next (writeWindow s o s.ev.val s.ev.data)
  else .next (storeWindow s o s.ev.data.length (BitVec.ofNat 64 (ofBytes s.ev.data)))

end Sys2Proof.Machine
end

