-- ==== Sys2Proof/Machine/Dispatch.lean ====
section
/-!
DEFINITION. The dispatch: one arm for each constructor of Instr, in the order of spec/opcode_table.json.
-/
namespace Sys2Proof.Machine

def exec (i : Instr) (s : State) : Host.Outcome State Fault Refusal :=
  match i with
  | .bundleIssue b => Sys2Proof.Machine.execBundleIssue b s
  | .idleBundle head => Sys2Proof.Machine.execIdleBundle head s
  | .iadd o => Sys2Proof.Machine.execIadd o s
  | .isub o => Sys2Proof.Machine.execIsub o s
  | .imul o => Sys2Proof.Machine.execImul o s
  | .imulh o uns => Sys2Proof.Machine.execImulh o uns s
  | .imad o c => Sys2Proof.Machine.execImad o c s
  | .idiv o uns => Sys2Proof.Machine.execIdiv o uns s
  | .irem o uns => Sys2Proof.Machine.execIrem o uns s
  | .iand o => Sys2Proof.Machine.execIand o s
  | .ior o => Sys2Proof.Machine.execIor o s
  | .ixor o => Sys2Proof.Machine.execIxor o s
  | .iandn o => Sys2Proof.Machine.execIandn o s
  | .shl o => Sys2Proof.Machine.execShl o s
  | .shr o => Sys2Proof.Machine.execShr o s
  | .shra o => Sys2Proof.Machine.execShra o s
  | .rot o => Sys2Proof.Machine.execRot o s
  | .clz o => Sys2Proof.Machine.execClz o s
  | .popc o => Sys2Proof.Machine.execPopc o s
  | .brev o => Sys2Proof.Machine.execBrev o s
  | .bfx o w sgn => Sys2Proof.Machine.execBfx o w sgn s
  | .bfi o w => Sys2Proof.Machine.execBfi o w s
  | .imin o uns => Sys2Proof.Machine.execImin o uns s
  | .imax o uns => Sys2Proof.Machine.execImax o uns s
  | .icmp g fd a b c => Sys2Proof.Machine.execIcmp g fd a b c s
  | .sel o fl neg => Sys2Proof.Machine.execSel o fl neg s
  | .movi g d imm => Sys2Proof.Machine.execMovi g d imm s
  | .limmB32 g d w => Sys2Proof.Machine.execLimmB32 g d w s
  | .limmB64 g d w => Sys2Proof.Machine.execLimmB64 g d w s
  | .movsRf g d => Sys2Proof.Machine.execMovsRf g d s
  | .movsWf g a => Sys2Proof.Machine.execMovsWf g a s
  | .movsLc g d n => Sys2Proof.Machine.execMovsLc g d n s
  | .movsRp g d p j => Sys2Proof.Machine.execMovsRp g d p j s
  | .movsWp g p j a => Sys2Proof.Machine.execMovsWp g p j a s
  | .movsRm g d j => Sys2Proof.Machine.execMovsRm g d j s
  | .aadd o => Sys2Proof.Machine.execAadd o s
  | .alea o k z => Sys2Proof.Machine.execAlea o k z s
  | .flop g fd fa fb t => Sys2Proof.Machine.execFlop g fd fa fb t s
  | .rdgcc g d => Sys2Proof.Machine.execRdgcc g d s
  | .rdid g d sel => Sys2Proof.Machine.execRdid g d sel s
  | .bru g off => Sys2Proof.Machine.execBru g off s
  | .brv p off => Sys2Proof.Machine.execBrv p off s
  | .brd g off p pft ptk => Sys2Proof.Machine.execBrd g off p pft ptk s
  | .jmp g off => Sys2Proof.Machine.execJmp g off s
  | .call g off link => Sys2Proof.Machine.execCall g off link s
  | .ret g a => Sys2Proof.Machine.execRet g a s
  | .chk off v => Sys2Proof.Machine.execChk off v s
  | .loop g b body => Sys2Proof.Machine.execLoop g b body s
  | .lstr g d b level reg => Sys2Proof.Machine.execLstr g d b level reg s
  | .yield g => Sys2Proof.Machine.execYield g s
  | .exit g => Sys2Proof.Machine.execExit g s
  | .waita g mask n => Sys2Proof.Machine.execWaita g mask n s
  | .twait g pred num h mask watch => Sys2Proof.Machine.execTwait g pred num h mask watch s
  | .bar g b num arrive => Sys2Proof.Machine.execBar g b num arrive s
  | .barq g b num arrive => Sys2Proof.Machine.execBarq g b num arrive s
  | .phase g a b => Sys2Proof.Machine.execPhase g a b s
  | .phwait g b => Sys2Proof.Machine.execPhwait g b s
  | .trap g b => Sys2Proof.Machine.execTrap g b s
  | .sys g b => Sys2Proof.Machine.execSys g b s
  | .eret g => Sys2Proof.Machine.execEret g s
  | .ctlr g d b => Sys2Proof.Machine.execCtlr g d b s
  | .ctlw g a b => Sys2Proof.Machine.execCtlw g a b s
  | .segw g a seg limit => Sys2Proof.Machine.execSegw g a seg limit s
  | .prmt g d a kill => Sys2Proof.Machine.execPrmt g d a kill s
  | .wfw o => Sys2Proof.Machine.execWfw o s
  | .launch g d a q => Sys2Proof.Machine.execLaunch g d a q s
  | .role g b => Sys2Proof.Machine.execRole g b s
  | .wdogRd g d => Sys2Proof.Machine.execWdogRd g d s
  | .wdogLower g a => Sys2Proof.Machine.execWdogLower g a s
  | .wdogSet g a => Sys2Proof.Machine.execWdogSet g a s
  | .govr g d b => Sys2Proof.Machine.execGovr g d b s
  | .govrP g d b => Sys2Proof.Machine.execGovrP g d b s
  | .govrW g a b => Sys2Proof.Machine.execGovrW g a b s
  | .govrWp g a b => Sys2Proof.Machine.execGovrWp g a b s
  | .fadd o => Sys2Proof.Machine.execFadd o s
  | .fsub o => Sys2Proof.Machine.execFsub o s
  | .fmul o => Sys2Proof.Machine.execFmul o s
  | .ffma o => Sys2Proof.Machine.execFfma o s
  | .ffmak o => Sys2Proof.Machine.execFfmak o s
  | .fmin o => Sys2Proof.Machine.execFmin o s
  | .fmax o => Sys2Proof.Machine.execFmax o s
  | .fclass o => Sys2Proof.Machine.execFclass o s
  | .frnd o m => Sys2Proof.Machine.execFrnd o m s
  | .fcmp o c => Sys2Proof.Machine.execFcmp o c s
  | .hadd2 o f => Sys2Proof.Machine.execHadd2 o f s
  | .hmul2 o f => Sys2Proof.Machine.execHmul2 o f s
  | .hfma2 o f => Sys2Proof.Machine.execHfma2 o f s
  | .hdot2 o f => Sys2Proof.Machine.execHdot2 o f s
  | .vadd o => Sys2Proof.Machine.execVadd o s
  | .vsub o => Sys2Proof.Machine.execVsub o s
  | .vmul o => Sys2Proof.Machine.execVmul o s
  | .vmulh o uns => Sys2Proof.Machine.execVmulh o uns s
  | .vmad o => Sys2Proof.Machine.execVmad o s
  | .vmin o uns => Sys2Proof.Machine.execVmin o uns s
  | .vmax o uns => Sys2Proof.Machine.execVmax o uns s
  | .vabs o => Sys2Proof.Machine.execVabs o s
  | .vmov o => Sys2Proof.Machine.execVmov o s
  | .vand o => Sys2Proof.Machine.execVand o s
  | .vor o => Sys2Proof.Machine.execVor o s
  | .vxor o => Sys2Proof.Machine.execVxor o s
  | .vandn o => Sys2Proof.Machine.execVandn o s
  | .vshl o => Sys2Proof.Machine.execVshl o s
  | .vshr o => Sys2Proof.Machine.execVshr o s
  | .vshra o => Sys2Proof.Machine.execVshra o s
  | .vpopc o => Sys2Proof.Machine.execVpopc o s
  | .vclz o => Sys2Proof.Machine.execVclz o s
  | .vbfx o uns => Sys2Proof.Machine.execVbfx o uns s
  | .vbfi o => Sys2Proof.Machine.execVbfi o s
  | .vsel o => Sys2Proof.Machine.execVsel o s
  | .vdot4 o uns => Sys2Proof.Machine.execVdot4 o uns s
  | .vcmp o c => Sys2Proof.Machine.execVcmp o c s
  | .cvt o sf df rmo sp => Sys2Proof.Machine.execCvt o sf df rmo sp s
  | .cvtmx o ef rmo => Sys2Proof.Machine.execCvtmx o ef rmo s
  | .cvtxm o ef rmo => Sys2Proof.Machine.execCvtxm o ef rmo s
  | .pack o => Sys2Proof.Machine.execPack o s
  | .unpk o x z n => Sys2Proof.Machine.execUnpk o x z n s
  | .perm o => Sys2Proof.Machine.execPerm o s
  | .vlane o pat k => Sys2Proof.Machine.execVlane o pat k s
  | .xsh o x k => Sys2Proof.Machine.execXsh o x k s
  | .vrand o => Sys2Proof.Machine.execVrand o s
  | .mode p value mask => Sys2Proof.Machine.execMode p value mask s
  | .rcp o => Sys2Proof.Machine.execRcp o s
  | .rsq o => Sys2Proof.Machine.execRsq o s
  | .sqrt o => Sys2Proof.Machine.execSqrt o s
  | .exp2 o => Sys2Proof.Machine.execExp2 o s
  | .log2 o => Sys2Proof.Machine.execLog2 o s
  | .sin o => Sys2Proof.Machine.execSin o s
  | .cos o => Sys2Proof.Machine.execCos o s
  | .tanh o => Sys2Proof.Machine.execTanh o s
  | .rcpA o => Sys2Proof.Machine.execRcpA o s
  | .rsqA o => Sys2Proof.Machine.execRsqA o s
  | .sqrtA o => Sys2Proof.Machine.execSqrtA o s
  | .exp2A o => Sys2Proof.Machine.execExp2A o s
  | .log2A o => Sys2Proof.Machine.execLog2A o s
  | .sinA o => Sys2Proof.Machine.execSinA o s
  | .cosA o => Sys2Proof.Machine.execCosA o s
  | .tanhA o => Sys2Proof.Machine.execTanhA o s
  | .redAdd o => Sys2Proof.Machine.execRedAdd o s
  | .redMin o => Sys2Proof.Machine.execRedMin o s
  | .redMax o => Sys2Proof.Machine.execRedMax o s
  | .rdrn p d ps w kc ki => Sys2Proof.Machine.execRdrn p d ps w kc ki s
  | .rclr p ps c => Sys2Proof.Machine.execRclr p ps c s
  | .mcall x k o => Sys2Proof.Machine.execMcall x k o s
  | .mpar x q v => Sys2Proof.Machine.execMpar x q v s
  | .mfmt x v => Sys2Proof.Machine.execMfmt x v s
  | .mstat x d => Sys2Proof.Machine.execMstat x d s
  | .mpsw x v t => Sys2Proof.Machine.execMpsw x v t s
  | .wst x a wb => Sys2Proof.Machine.execWst x a wb s
  | .wstat x d => Sys2Proof.Machine.execWstat x d s
  | .rqCl x blk st => Sys2Proof.Machine.execRqCl x blk st s
  | .rqAn x blk st => Sys2Proof.Machine.execRqAn x blk st s
  | .rqOc x blk st => Sys2Proof.Machine.execRqOc x blk st s
  | .bvhb x a => Sys2Proof.Machine.execBvhb x a s
  | .bvhf x a => Sys2Proof.Machine.execBvhf x a s
  | .texS x blk a => Sys2Proof.Machine.execTexS x blk a s
  | .texF x blk a => Sys2Proof.Machine.execTexF x blk a s
  | .texL x blk a => Sys2Proof.Machine.execTexL x blk a s
  | .texq x blk a => Sys2Proof.Machine.execTexq x blk a s
  | .copy x a q => Sys2Proof.Machine.execCopy x a q s
  | .cmpt x a => Sys2Proof.Machine.execCmpt x a s
  | .cmpq x d sn => Sys2Proof.Machine.execCmpq x d sn s
  | .mark x mask m => Sys2Proof.Machine.execMark x mask m s
  | .markw x m => Sys2Proof.Machine.execMarkw x m s
  | .ldM t o => Sys2Proof.Machine.execLdM t o s
  | .stM t o => Sys2Proof.Machine.execStM t o s
  | .ldt o => Sys2Proof.Machine.execLdt o s
  | .ldMw t o => Sys2Proof.Machine.execLdMw t o s
  | .stMw t o => Sys2Proof.Machine.execStMw t o s
  | .ldS o => Sys2Proof.Machine.execLdS o s
  | .ldPoll o => Sys2Proof.Machine.execLdPoll o s
  | .ldAcq o => Sys2Proof.Machine.execLdAcq o s
  | .stRel o => Sys2Proof.Machine.execStRel o s
  | .ldSc o => Sys2Proof.Machine.execLdSc o s
  | .stSc o => Sys2Proof.Machine.execStSc o s
  | .pref p core adr ofs ad => Sys2Proof.Machine.execPref p core adr ofs ad s
  | .atomAdd o wide => Sys2Proof.Machine.execAtomAdd o wide s
  | .atomMin o wide uns => Sys2Proof.Machine.execAtomMin o wide uns s
  | .atomMax o wide uns => Sys2Proof.Machine.execAtomMax o wide uns s
  | .atomAnd o wide => Sys2Proof.Machine.execAtomAnd o wide s
  | .atomOr o wide => Sys2Proof.Machine.execAtomOr o wide s
  | .atomXor o wide => Sys2Proof.Machine.execAtomXor o wide s
  | .atomExch o wide => Sys2Proof.Machine.execAtomExch o wide s
  | .atomCas o wide => Sys2Proof.Machine.execAtomCas o wide s
  | .atomAddF32 o => Sys2Proof.Machine.execAtomAddF32 o s
  | .atomAddBf16 o => Sys2Proof.Machine.execAtomAddBf16 o s
  | .atomSc o op => Sys2Proof.Machine.execAtomSc o op s
  | .redAddF32 o => Sys2Proof.Machine.execRedAddF32 o s
  | .redAddN32 o => Sys2Proof.Machine.execRedAddN32 o s
  | .redMinF32 o => Sys2Proof.Machine.execRedMinF32 o s
  | .redMaxF32 o => Sys2Proof.Machine.execRedMaxF32 o s
  | .redAddBf16 o => Sys2Proof.Machine.execRedAddBf16 o s
  | .flushr p ac => Sys2Proof.Machine.execFlushr p ac s
  | .flushrOrdered p adr ofs ac ad => Sys2Proof.Machine.execFlushrOrdered p adr ofs ac ad s
  | .fenceAcq p sc => Sys2Proof.Machine.execFenceAcq p sc s
  | .fenceRel p sc => Sys2Proof.Machine.execFenceRel p sc s
  | .fenceAr p sc => Sys2Proof.Machine.execFenceAr p sc s
  | .xfence p up down sc => Sys2Proof.Machine.execXfence p up down sc s
  | .semp p n adr ofs => Sys2Proof.Machine.execSemp p n adr ofs s
  | .semw p n adr ofs => Sys2Proof.Machine.execSemw p n adr ofs s
  | .watchArm p adr ofs ad => Sys2Proof.Machine.execWatchArm p adr ofs ad s
  | .watchDisarm p adr ofs ad => Sys2Proof.Machine.execWatchDisarm p adr ofs ad s
  | .stset p k cap base => Sys2Proof.Machine.execStset p k cap base s
  | .stapp p val key zb nk ad => Sys2Proof.Machine.execStapp p val key zb nk ad s
  | .stcmt p k sc dest n => Sys2Proof.Machine.execStcmt p k sc dest n s
  | .tsend p val core slot => Sys2Proof.Machine.execTsend p val core slot s
  | .tsendM p val mask slot => Sys2Proof.Machine.execTsendM p val mask slot s
  | .trecv p d slot stamp => Sys2Proof.Machine.execTrecv p d slot stamp s
  | .ldsb q wb ofs kb n sofs => Sys2Proof.Machine.execLdsb q wb ofs kb n sofs s
  | .ldsv q vb vs kb n => Sys2Proof.Machine.execLdsv q vb vs kb n s
  | .swap => Sys2Proof.Machine.execSwap s
  | .strm q va vs bk row m => Sys2Proof.Machine.execStrm q va vs bk row m s
  | .acc q va vs bk row m => Sys2Proof.Machine.execAcc q va vs bk row m s
  | .scal q vf bk row m => Sys2Proof.Machine.execScal q vf bk row m s
  | .zero q bk row m => Sys2Proof.Machine.execZero q bk row m s
  | .drn q bk row m p sync rel => Sys2Proof.Machine.execDrn q bk row m p sync rel s
  | .stepLoop q cnt body be qd qs => Sys2Proof.Machine.execStepLoop q cnt body be qd qs s
  | .waitf wb => Sys2Proof.Machine.execWaitf wb s
  | .sync => Sys2Proof.Machine.execSync s
  | .endStep => Sys2Proof.Machine.execEndStep s
  | .resultLanding => Sys2Proof.Machine.execResultLanding s
  | .rowRelease => Sys2Proof.Machine.execRowRelease s
  | .arrival => Sys2Proof.Machine.execArrival s
  | .waitaRetire => Sys2Proof.Machine.execWaitaRetire s
  | .twaitTimeout => Sys2Proof.Machine.execTwaitTimeout s
  | .coreWake => Sys2Proof.Machine.execCoreWake s
  | .warpRetire => Sys2Proof.Machine.execWarpRetire s
  | .watchdog => Sys2Proof.Machine.execWatchdog s
  | .saveContext => Sys2Proof.Machine.execSaveContext s
  | .trapHandlerStart => Sys2Proof.Machine.execTrapHandlerStart s
  | .contextRestore => Sys2Proof.Machine.execContextRestore s
  | .preemptionHalt => Sys2Proof.Machine.execPreemptionHalt s
  | .swapOut => Sys2Proof.Machine.execSwapOut s
  | .swapAreaClose => Sys2Proof.Machine.execSwapAreaClose s
  | .groupAdmission => Sys2Proof.Machine.execGroupAdmission s
  | .carveChange => Sys2Proof.Machine.execCarveChange s
  | .groupRelocation => Sys2Proof.Machine.execGroupRelocation s
  | .groupCompletion => Sys2Proof.Machine.execGroupCompletion s
  | .launchEnqueue => Sys2Proof.Machine.execLaunchEnqueue s
  | .childTake => Sys2Proof.Machine.execChildTake s
  | .streamTableAddress => Sys2Proof.Machine.execStreamTableAddress s
  | .doorbell => Sys2Proof.Machine.execDoorbell s
  | .launchGrid => Sys2Proof.Machine.execLaunchGrid s
  | .waitEvent => Sys2Proof.Machine.execWaitEvent s
  | .waitEventPoll => Sys2Proof.Machine.execWaitEventPoll s
  | .signal => Sys2Proof.Machine.execSignal s
  | .copyCommand => Sys2Proof.Machine.execCopyCommand s
  | .bin => Sys2Proof.Machine.execBin s
  | .cover => Sys2Proof.Machine.execCover s
  | .compose => Sys2Proof.Machine.execCompose s
  | .govern => Sys2Proof.Machine.execGovern s
  | .next => Sys2Proof.Machine.execNext s
  | .nextPointerSeen => Sys2Proof.Machine.execNextPointerSeen s
  | .copyRecordCompletion => Sys2Proof.Machine.execCopyRecordCompletion s
  | .fillEnd => Sys2Proof.Machine.execFillEnd s
  | .routineStart => Sys2Proof.Machine.execRoutineStart s
  | .mpswApply => Sys2Proof.Machine.execMpswApply s
  | .bvhCompletion => Sys2Proof.Machine.execBvhCompletion s
  | .regionEntry => Sys2Proof.Machine.execRegionEntry s
  | .timedPacketLanding => Sys2Proof.Machine.execTimedPacketLanding s
  | .lateReplyArrival => Sys2Proof.Machine.execLateReplyArrival s
  | .tableWalk => Sys2Proof.Machine.execTableWalk s
  | .windowPortService => Sys2Proof.Machine.execWindowPortService s
  | .l2RequestEntry => Sys2Proof.Machine.execL2RequestEntry s
  | .l2LineArrival => Sys2Proof.Machine.execL2LineArrival s
  | .scOrderEntry => Sys2Proof.Machine.execScOrderEntry s
  | .flushRecordArrival => Sys2Proof.Machine.execFlushRecordArrival s
  | .privetSend => Sys2Proof.Machine.execPrivetSend s
  | .privetLanding => Sys2Proof.Machine.execPrivetLanding s
  | .stcmtIncrement => Sys2Proof.Machine.execStcmtIncrement s
  | .arrivalHandlerStart => Sys2Proof.Machine.execArrivalHandlerStart s
  | .governorTableUpdate => Sys2Proof.Machine.execGovernorTableUpdate s
  | .governorAck => Sys2Proof.Machine.execGovernorAck s
  | .controlBlockReload => Sys2Proof.Machine.execControlBlockReload s
  | .portDown => Sys2Proof.Machine.execPortDown s
  | .domainJoin => Sys2Proof.Machine.execDomainJoin s
  | .compositePacketReceipt => Sys2Proof.Machine.execCompositePacketReceipt s
  | .fillTime => Sys2Proof.Machine.execFillTime s
  | .vsync => Sys2Proof.Machine.execVsync s
  | .remoteAccess => Sys2Proof.Machine.execRemoteAccess s
  | .hostMemoryAccess => Sys2Proof.Machine.execHostMemoryAccess s
  | .hostRegisterWrite => Sys2Proof.Machine.execHostRegisterWrite s
  | .tlbinv => Sys2Proof.Machine.execTlbinv s
  | .invalidationDone => Sys2Proof.Machine.execInvalidationDone s
  | .fclr => Sys2Proof.Machine.execFclr s
  | .pactlClr => Sys2Proof.Machine.execPactlClr s
  | .eccRateWindow => Sys2Proof.Machine.execEccRateWindow s
  | .patrolScrub => Sys2Proof.Machine.execPatrolScrub s
  | .hbmCrcError => Sys2Proof.Machine.execHbmCrcError s
  | .laneRemap => Sys2Proof.Machine.execLaneRemap s
  | .repairWindowEnd => Sys2Proof.Machine.execRepairWindowEnd s
  | .checkpointStart => Sys2Proof.Machine.execCheckpointStart s
  | .checkpointCopy => Sys2Proof.Machine.execCheckpointCopy s
  | .checkpointSeal => Sys2Proof.Machine.execCheckpointSeal s
  | .checkpointRestore => Sys2Proof.Machine.execCheckpointRestore s
  | .powerOnStart => Sys2Proof.Machine.execPowerOnStart s
  | .recoveryImageLoad => Sys2Proof.Machine.execRecoveryImageLoad s
  | .attest => Sys2Proof.Machine.execAttest s
  | .unlock => Sys2Proof.Machine.execUnlock s
  | .lifeCycleTransition => Sys2Proof.Machine.execLifeCycleTransition s
  | .dbgCtlMode => Sys2Proof.Machine.execDbgCtlMode s
  | .soMode => Sys2Proof.Machine.execSoMode s
  | .quiesce => Sys2Proof.Machine.execQuiesce s
  | .quiesceDone => Sys2Proof.Machine.execQuiesceDone s
  | .saveCoreState => Sys2Proof.Machine.execSaveCoreState s
  | .saveDone => Sys2Proof.Machine.execSaveDone s
  | .restoreCoreState => Sys2Proof.Machine.execRestoreCoreState s
  | .restoreDone => Sys2Proof.Machine.execRestoreDone s
  | .readmit => Sys2Proof.Machine.execReadmit s
  | .pmClkGate => Sys2Proof.Machine.execPmClkGate s
  | .pmRailLevel => Sys2Proof.Machine.execPmRailLevel s
  | .railSettled => Sys2Proof.Machine.execRailSettled s
  | .pmWset => Sys2Proof.Machine.execPmWset s
  | .frequencyChange => Sys2Proof.Machine.execFrequencyChange s
  | .powerThrottle => Sys2Proof.Machine.execPowerThrottle s
  | .wfwTimeout => Sys2Proof.Machine.execWfwTimeout s
  | .binCoverCompletion => Sys2Proof.Machine.execBinCoverCompletion s

end Sys2Proof.Machine
end

