-- ==== Sys2Proof/Machine/Cycle.lean ====
section
/-!
DEFINITION. One step of the part. A cycle of the global counter is taken in parts, one step each: what is due at its
start lands, arrives or ends (cursor 0); gated cores wake (1); each core issues at most one bundle, in ascending order
(2 to 145); engines, requests and accesses do their work (146); what has no time of its own takes place, or not (147);
and the counter advances. Where the spec leaves the choice or the time open, a free value decides.
-/
namespace Sys2Proof.Machine

/-! ## Events -/

/-- An event with its subject. -/
abbrev Cand := Instr × Ev

/-- The subject of an event on a core. -/
def Ev.ofCore (c : Nat) : Ev := { Ev.none with core := c }

/-- The subject of an event of a warp. -/
def Ev.ofWarp (c w : Nat) : Ev := { Ev.none with core := c, warp := w }

/-- The subject of an event of a number. -/
def Ev.ofIdx (i : Nat) : Ev := { Ev.none with idx := i }

/-- The subject of an event of a number on a core. -/
def Ev.ofCoreIdx (c i : Nat) : Ev := { Ev.none with core := c, idx := i }

/-- The events that an input may be: what the world outside does, and what goes wrong. -/
def isInput : Instr → Bool
  | .arrival | .streamTableAddress | .doorbell | .flushRecordArrival | .portDown | .domainJoin | .compositePacketReceipt
  | .remoteAccess | .hostMemoryAccess | .hostRegisterWrite | .tlbinv | .fclr | .pactlClr | .patrolScrub | .hbmCrcError
  | .l2RequestEntry | .l2LineArrival | .checkpointStart | .checkpointCopy | .checkpointRestore | .recoveryImageLoad
  | .lifeCycleTransition | .dbgCtlMode | .soMode | .pmWset | .frequencyChange | .powerThrottle | .powerOnStart
  | .checkpointSeal => true
  | _ => false

/-- Whether a bundle may come as an input: as the one presented, with an error in what it reads (R373, R442). -/
def isBundle : Instr → Bool
  | .bundleIssue _ | .idleBundle _ => true
  | _ => false

/-- Take an event, where its condition holds. -/
def attempt (x : Cand) (s : State) : Option (Host.Outcome State Fault Refusal) :=
  match exec x.1 { s with ev := x.2 } with
  | .refused _ => none
  | o => some o

/-- The first event of a list whose condition holds. -/
def attemptAny : List Cand → State → Option (Host.Outcome State Fault Refusal)
  | [], _ => none
  | x :: r, s => match attempt x s with | some o => some o | none => attemptAny r s

/-- The first input still to come, when it is one and comes now. What another part writes into a scratchpad comes behind the
cycle's own accesses (R301). -/
def takeInput (s : State) : State × Option (Host.Outcome State Fault Refusal) :=
  match s.agenda with
  | [] => (s, none)
  | x :: r =>
    if s.cursor = 0 ∧ x.1 = .remoteAccess then (s, none)
    else if !isInput x.1 then (if isBundle x.1 then s else { s with agenda := r }, none)
    else
      let (n, s) := s.draw
      (s, if Config.freeBool n then attempt x { s with agenda := r } else none)

/-- The cores that hold something or for which a group waits. -/
def busyCores (s : State) : List Nat := (s.coreIds ++ s.sched.groups.map (fun x => x.2.core)).eraseDups

/-- An event for every warp of the part. -/
def perWarp (s : State) (is : List Instr) : List Cand :=
  (s.cores.map (fun (x : Nat × Core) => (x.2.warps.map (fun (y : Nat × Warp) =>
    is.map (fun i => ((i, Ev.ofWarp x.1 y.1) : Cand)))).flatten)).flatten

/-- An event for every core. -/
def perCore (s : State) (is : List Instr) : List Cand :=
  (is.map (fun i => s.coreIds.map (fun c => ((i, Ev.ofCore c) : Cand)))).flatten

/-! ## The start of a cycle (cursor 0) -/

/-- What is due at the start of a cycle once everything has arrived: results first, then the rest. -/
def dueEvents (s : State) : List Cand :=
  perCore s [Instr.resultLanding, Instr.lateReplyArrival] ++
  perCore s [Instr.rowRelease, Instr.timedPacketLanding, Instr.windowPortService, Instr.scOrderEntry, Instr.routineStart, Instr.mpswApply] ++
  s.coreIds.filterMap (fun c => (stepDue s c).map (fun i => (i, Ev.ofCore c))) ++
  (s.coreIds.map (fun c => [0, 1].map (fun n => ((Instr.fillEnd, Ev.ofCoreIdx c n) : Cand)))).flatten ++
  (s.coreIds.map (fun c => [0, 1, 2, 3].map (fun n => ((Instr.launchEnqueue, Ev.ofCoreIdx c n) : Cand)))).flatten ++
  perWarp s [Instr.waitaRetire, Instr.twaitTimeout, Instr.wfwTimeout, Instr.warpRetire] ++
  s.ms.walks.map (fun k => (Instr.tableWalk, { Ev.ofIdx (dieOf k.core) with addr := BitVec.ofNat 64 k.va })) ++
  s.ms.misses.map (fun m => (Instr.l2LineArrival, Ev.ofIdx m.line)) ++
  s.ms.reqs.map (fun r => (Instr.l2RequestEntry, Ev.ofIdx r.id)) ++
  s.sched.builds.map (fun b => (Instr.bvhCompletion, Ev.ofIdx b.id)) ++
  [(Instr.governorTableUpdate, Ev.none)] ++
  (s.sched.streams.map (fun (x : Nat × Stream) =>
    ([(Instr.waitEventPoll, Ev.ofIdx x.1), (Instr.nextPointerSeen, Ev.ofIdx x.1)] : List Cand))).flatten ++
  s.sched.groups.map (fun x => (Instr.preemptionHalt, Ev.ofIdx x.1)) ++
  [(Instr.fillTime, Ev.none)] ++ (List.range 8).map (fun h => (Instr.vsync, Ev.ofIdx h)) ++
  s.pt.quads.map (fun x => (Instr.railSettled, Ev.ofIdx x.1)) ++
  (List.range 9).map (fun d => (Instr.eccRateWindow, Ev.ofIdx d)) ++
  (s.pt.channels.filter (fun (x : Nat × Channel) => decide (x.2.window + repairWindow ≤ s.gcc))).map
    (fun x => (Instr.repairWindowEnd, Ev.ofIdx x.1))

/-- A reply that is late in a FAULT region, or that one issued, is noted at its binding and its latch (R291). -/
def noteLate (k : Core) (p : Pending) : Core :=
  match p.wr with
  | .vec d _ _ l _ =>
    if (strictNow (k.warp p.warp) || p.strict) && p.rem == 0 && decide (0 < p.left) && !p.skip then
      k.updWarp p.warp (fun w =>
        if w.lates.contains (d.map (·.2), l) then w else { w with lates := w.lates ++ [(d.map (·.2), l)] })
    else k
  | _ => k

/-- A command that a region fixed and that cannot start on its cycle (R232). -/
def cmdLate (s : State) (c : Nat) (x : ECmd) : Bool :=
  x.region && x.op != .done && x.due == s.gcc && (!cmdOpen s x || (isRay x && !rayTurn s c x))

/-- The owners of commands that a region fixed and that cannot start on this cycle: each faults at its next bundle, be it
presented in this very cycle (R228, R232). -/
def noteEngLate (s : State) (c : Nat) : State :=
  let s := tickRegionStart s c
  ((s.core c).ecmds.filter (cmdLate s c)).foldl
    (fun (s : State) x => s.updWarp c x.warp (fun w => { w with engLate := true })) s

/-- When nothing more is due, waits are served and warps become ready. -/
def endDue (s : State) : State :=
  let s := s.coreIds.foldl noteEngLate s
  let s := s.coreIds.foldl serveWaits s
  let s := settle s
  let s := s.coreIds.foldl (fun (s : State) c => s.updCore c (fun k => k.pw.foldl noteLate k)) s
  let s := s.coreIds.foldl haltCore s
  { s with cursor := 1 }

/-- A warp whose TWAIT has its condition met. -/
def metTwait (s : State) : Option (Nat × Nat) :=
  s.cores.findSome? (fun (x : Nat × Core) => (x.2.warps.find? (fun y => twaitDue y.2)).map (fun y => (x.1, y.1)))

/-- One step at the start of a cycle: arrivals, then the TWAITs that they or a watch met, then what is due. -/
def stepDueEvents (s : State) : Host.Outcome State Fault Refusal :=
  let (s, o) := takeInput s
  match o with
  | some o => o
  | none =>
    match attemptAny (perCore s [Instr.arrival]) s with
    | some o => o
    | none =>
      match metTwait s with
      | some (c, w) => .next (serveWait s c w)
      | none => (attemptAny (dueEvents s) s).getD (.next (endDue s))

/-! ## Waking (cursor 1) -/

/-- One step of waking; then the reasons noted on a core that is not gated are forgotten (R183). -/
def stepWake (s : State) : Host.Outcome State Fault Refusal :=
  (attemptAny (perCore s [Instr.coreWake]) s).getD
    (.next { s with cores := s.cores.map (fun (x : Nat × Core) => (x.1, if x.2.gated then x.2 else { x.2 with why := 0 })), cursor := 2 })

/-! ## Issue (cursor 2 to 145) -/

/-- The next core that presents something in this cycle. -/
def nextTurn (s : State) : Option (Nat × Instr) :=
  (s.coreIds.filter (fun c => decide (s.cursor ≤ c + 2))).findSome? (fun c => (presented s c).map (fun i => (c, i)))

/-- Whether throttling keeps a core from issuing in this cycle: outside static regions, as the part chooses (R17). -/
def throttled (s : State) (c : Nat) : State × Bool :=
  if s.pt.throttle && !(s.core c).warps.any (fun x => x.2.region.isSome) then
    let (n, s) := s.draw
    (s, Config.freeBool n)
  else (s, false)

/-- The event record of a core's turn: an input may put an error into what its bundle reads. -/
def turnEv (s : State) (c : Nat) (i : Instr) : State × Ev :=
  match s.agenda with
  | (j, e) :: r =>
    if j = i ∧ isBundle i ∧ e.core = c then
      let (n, s) := s.draw
      if Config.freeBool n then ({ s with agenda := r }, e) else (s, Ev.ofCore c)
    else (s, Ev.ofCore c)
  | [] => (s, Ev.ofCore c)

/-- One step of issue. A core whose warp enters a static region may still issue in this cycle. -/
def stepIssue (s : State) : Host.Outcome State Fault Refusal :=
  match nextTurn s with
  | none => .next { s with cursor := 146 }
  | some (c, i) =>
    let (s, skip) := throttled s c
    if skip then .next { s with cursor := c + 3 }
    else
      let (s, e) := turnEv s c i
      exec i { s with ev := e, cursor := if i = .regionEntry then c + 2 else c + 3 }

/-! ## The work of a cycle (cursor 146) -/

/-- An access of another part leaves through the port that led there when it issued (R411); without a route it is a remote fault
(R424, R426). -/
def sendFabric (s : State) (r : Req) : State :=
  if !portUp s r.route then remoteFault s r
  else
    let p := r.route
    let s := match r.rel with | some sc => releaseCaches s r.core sc | none => s
    let port := tget Port.reset s.hd.ports p
    let s := { s with hd := { s.hd with
      ports := tset s.hd.ports p { port with inflight := port.inflight ++ [r.id] }
      outbox := s.hd.outbox ++ [(p, .access r.line r.id r.kind r.rel.isSome r.lanes)] } }
    setReq s { r with stage := .listed }

/-- One request: an ordering point performs, an access of another part leaves, one that its caches serve is answered after a
time of its own, one at its bank acts at its cycle, and one to the register window acts there (R288, R299, R315, R439). -/
def tickReq (s : State) (id : Nat) : State :=
  match getReq s id with
  | none => s
  | some r =>
    if r.stage == .entered then (if r.due ≤ s.gcc then performHome s r else s)
    else if !canEnter s r then s
    else match r.path with
      | .order => dropReq (perform s r).1 id
      | .fabric => sendFabric s r
      | .cached =>
        if isDevice (r.line * 128) then performDevice s r
        else if r.stage == .waiting && cacheHit s r then
          let (n, s) := s.draw
          performAt s r (s.gcc + 1 + Config.freeNat n)
        else s
      | .home => if isDevice (r.line * 128) then performDevice s r else s

/-- Every request that has not been answered, in the order of issue; a flush record whose port is down is lost (R426). -/
def tickReqs (s : State) : State :=
  let s := (s.ms.reqs.map (·.id)).foldl tickReq s
  (s.ms.flushes.filter (fun f => f.dest != s.hd.control.self.toNat && !portUp s f.port)).foldl failFlush s

/-- The releases that only accesses of this cycle have held back perform in it too (R252). -/
def tickOrders (s : State) : State :=
  ((s.ms.reqs.filter (fun r => r.path == .order && r.behind.isSome)).map (·.id)).foldl tickReq s

/-- Whether a MARKW has what it waits for, and its group, if it has one, stands on its core (R188). -/
def holdOver (s : State) (c : Nat) (x : ECmd) (marks reqs : List Nat) : Bool :=
  !marks.any (inQueues s c) && reqs.all (fun i => (getReq s i).isNone) && (x.handle == noGroup || (s.group x.handle.toNat).status == .resident)

/-- A command whose cycle has come acts; one that reads memory waits for a repair window (R448). -/
def actCmd (s : State) (c : Nat) (x : ECmd) : State :=
  match x.op with
  | .mstat _ | .wstat _ => readStatus c s x
  | .cmpq _ sess => cmdDone (fillVals s c x.rid (putPair (sessStatus s sess.toNat))) c x.id
  | .tex kind _ v desc draws => if anyHeld s then s else actTex s c x kind v desc draws
  | .ray kind _ v header cb cf => if rayTurn s c x && !anyHeld s then actRay s c x kind v header cb cf else s
  | .build desc refit bad => if rayTurn s c x && !anyHeld s then actBuild s c x desc refit bad else s
  | .hold marks reqs => if holdOver s c x marks reqs then cmdDone s c x.id else s
  | .cmpt _ | .done => s

/-- One command of a core's engines. -/
def tickCmd (c : Nat) (s : State) (x : ECmd) : State :=
  if cmdOpen s x then actCmd s c x else s

/-- The commands of a core, in the order of issue. -/
def tickCmds (s : State) (c : Nat) : State := (s.core c).ecmds.foldl (tickCmd c) s

/-- A warp counts a cycle for which a late reply has frozen it (R69, R291): its pending writes and the cycles its bundle
still occupies stand still, and in a STRETCH region the region clock with what a region has fixed. It is counted before what
the cycle brings (R303). -/
def countFrozen (c : Nat) (s : State) (wi : Nat) : State :=
  if frozenNow (s.core c) wi then
    let s := s.updCore c (fun k =>
      { k.updWarp wi (fun w => { w with
          frozen := w.frozen + 1, region := w.region.map (fun r => if r.s ≤ s.gcc then { r with z := r.z + 1 } else r)
          delay := w.delay.map (fun d => { d with c := d.c + 1 }) }) with
        pw := if (k.warp wi).replay then k.pw else k.pw.map (fun p => if p.warp = wi then { p with rem := p.rem + 1 } else p)
        free := if k.current = some wi ∧ s.gcc < k.free then k.free + 1 else k.free
        bound := if k.current = some wi ∧ s.gcc < k.bound then k.bound + 1 else k.bound })
    if (s.warp c wi).region.isSome && !beforeStart s (s.warp c wi) then shiftStarts c wi 1 s else s
  else s

/-- The freezes of a cycle. -/
def countFreezes (s : State) (c : Nat) : State := ((s.core c).warps.map (·.1)).foldl (countFrozen c) s

/-- The work of a cycle. -/
def work (s : State) : State :=
  let cs := s.coreIds
  let s := cs.foldl tickEngine s
  let s := cs.foldl tickCmds s
  let s := tickReqs s
  let s := cs.foldl countFreezes s
  let s := cs.foldl (fun (s : State) c => performDue (s.updCore c landWaits) c) s
  let s := tickRings (endGuides (tickIncrs (tickOrders s)))
  let s := cs.foldl tickLates s
  let s := [0, 1, 2, 3].foldl tickMerge s
  { s with cursor := 147 }

/-! ## What has no time of its own (cursor 147) -/

/-- The commands of a core's composite path that a submit record came with. -/
def submits (x : Nat × Core) : List Cand :=
  (x.2.ecmds.filter (fun y => match y.op with | .cmpt _ => true | _ => false)).map
    (fun y => (Instr.compositePacketReceipt, Ev.ofCoreIdx x.1 y.id))

/-- The events that may take place at any time. -/
def freeEvents (s : State) : List Cand :=
  perWarp s [Instr.saveContext, Instr.contextRestore] ++
  [(Instr.trapHandlerStart, Ev.ofCore 130), (Instr.trapHandlerStart, Ev.ofCore 131)] ++
  (busyCores s).map (fun c => (Instr.groupAdmission, Ev.ofCore c)) ++
  (busyCores s).map (fun c => (Instr.carveChange, Ev.ofCore c)) ++
  (s.sched.groups.map (fun x =>
    ([Instr.swapOut, Instr.swapAreaClose, Instr.groupRelocation, Instr.groupCompletion].map (fun i => ((i, Ev.ofIdx x.1) : Cand))))).flatten ++
  (s.coreIds.map (fun c => ([0, 1, 2, 3].map (fun q =>
    ([(Instr.childTake, Ev.ofCoreIdx c q), (Instr.copyRecordCompletion, Ev.ofCoreIdx c q)] : List Cand))).flatten)).flatten ++
  ([Instr.launchGrid, Instr.waitEvent, Instr.signal, Instr.copyCommand, Instr.bin, Instr.cover, Instr.compose, Instr.govern, Instr.next] : List Instr).map (fun i => (i, Ev.none)) ++
  s.ms.flushes.map (fun f => (Instr.flushRecordArrival, Ev.ofIdx f.id)) ++
  [0, 1, 2, 3].map (fun d => (Instr.privetSend, Ev.ofIdx d)) ++ [0, 1, 2, 3].map (fun d => (Instr.privetLanding, Ev.ofIdx d)) ++
  [(Instr.governorAck, Ev.none), (Instr.controlBlockReload, Ev.none), (Instr.invalidationDone, Ev.none), (Instr.checkpointCopy, Ev.none),
   (Instr.checkpointSeal, Ev.none), (Instr.attest, Ev.none), (Instr.unlock, Ev.none)] ++
  (s.cores.map submits).flatten ++
  (s.pt.quads.map (fun x => ([Instr.quiesceDone, Instr.saveDone, Instr.restoreDone].map (fun i => ((i, Ev.ofIdx x.1) : Cand))))).flatten ++
  s.fr.binCover.map (fun x => (Instr.binCoverCompletion, { Ev.ofIdx x.1 with idx2 := x.2.1 })) ++
  (s.pt.channels.map (fun x => ([Instr.laneRemap, Instr.repairWindowEnd].map (fun i => ((i, Ev.ofIdx x.1) : Cand))))).flatten ++
  (match s.pt.freqReq with
    | some f => if phaseOpen s then [] else
        [(Instr.frequencyChange, { Ev.none with val := BitVec.ofNat 64 f.1, write := f.2 })]
    | none => [])

/-- One of them, as the part chooses: the list is tried from a place of its own. -/
def freeEvent (s : State) : State × Option (Host.Outcome State Fault Refusal) :=
  let (n, s) := s.draw
  if Config.freeBool n then
    let (k, s) := s.draw
    let l := freeEvents s
    let i := Config.freeNat k % l.length
    (s, attemptAny (l.drop i ++ l.take i) s)
  else (s, none)

/-! ## The end of a cycle -/

/-- The remaining cycles of a core's pending writes and accesses pass. -/
def passCycle (k : Core) : Core :=
  let pass (p : Pending) : Pending :=
    let w := k.warp p.warp
    if w.status == .run && !w.replay then { p with rem := p.rem - 1 } else p
  { k with pw := k.pw.map pass, accs := k.accs.map (fun a => { a with rem := a.rem - 1 }), ports := 0 }

/-- The end of a cycle: copies move, semaphores and wake bits are served, the counter advances. -/
def endCycle (s : State) : State :=
  let cs := s.coreIds
  let s := cs.foldl tickCopies s
  let s := cs.foldl serveCore s
  let s := cs.foldl servePhases s
  let s := cs.foldl serveWfws s
  let s := { s with cores := s.cores.map (fun (x : Nat × Core) => (x.1, passCycle x.2)) }
  let s := settle s
  let s := cs.foldl gateCore s
  { s with gcc := s.gcc + 1, cursor := 0 }

/-- One step of what has no time of its own, or the end of the cycle. The increments that land in the cycle come behind its
accesses (R252, R301, R320), and a handler warp starts in the first cycle in which it can (R279, R281). -/
def stepFree (s : State) : Host.Outcome State Fault Refusal :=
  let (s, o) := takeInput s
  match o with
  | some o => o
  | none =>
    match attemptAny ((Instr.stcmtIncrement, Ev.none) :: perCore s [Instr.arrivalHandlerStart]) s with
    | some o => o
    | none =>
      let (s, o) := freeEvent s
      o.getD (.next (endCycle s))

/-! ## The part -/

/-- The inputs of recovery mode: an image, or a step of the life cycle (R452, R453). -/
def isRecoveryInput : Instr → Bool
  | .recoveryImageLoad | .lifeCycleTransition => true
  | _ => false

/-- Before the part has started, it starts; in recovery mode it waits for an image (R450 to R452). -/
def stepStart (s : State) : Host.Outcome State Fault Refusal :=
  if s.pt.start.recovery then
    let (s, o) := takeInput { s with agenda := s.agenda.dropWhile (fun x => !isRecoveryInput x.1) }
    o.getD (.next { s with gcc := s.gcc + 1 })
  else exec .powerOnStart { s with ev := Ev.none }

/-- One step. -/
def stepPart (s : State) : Host.Outcome State Fault Refusal :=
  if !s.pt.start.started then stepStart s
  else if s.cursor = 0 then stepDueEvents s
  else if s.cursor = 1 then stepWake s
  else if s.cursor < 146 then stepIssue s
  else if s.cursor = 146 then .next (work s)
  else stepFree s

end Sys2Proof.Machine
end

