-- ==== Sys2Proof/Machine/Step.lean ====
section
/-!
DEFINITION. The step of the part, and a state whose very next step issues a given bundle.
-/
namespace Sys2Proof.Machine

/-- One step of the part. -/
def step (s : State) : Host.Outcome State Fault Refusal := stepPart s

/-- Where `withFetchWord` places a bundle, as virtual and as physical address. -/
def fetchPlace : Nat := 0x10000

/-- The group of the warp that fetches there: one warp in slot 0 of core 0, with whole pools and no budget. -/
def fetchGroup : Group :=
  { Group.empty with status := .resident, core := 0, warps := 1, slots := [0], pools := List.replicate 8 512
                     budget := 0xFFFFFFFFFFFFFFFF }

/-- The warp that fetches: one entry of all lanes at the bundle, and segments that reach all memory. -/
def fetchWarp (gcc : Nat) : Warp :=
  { Warp.empty with
    status := .run, ready := some gcc, entries := [⟨BitVec.ofNat 64 fetchPlace, 0, BitVec.allOnes 128, false, 0, .none, none⟩]
    segLimit := [(0, 0x200000000000000), (4, 0x100000000000000)] }

/-- The core that fetches, with the translation of the bundle's page. -/
def fetchCore (gcc : Nat) : Core :=
  { Core.reset with warps := [(0, fetchWarp gcc)], tlb := [⟨fetchPlace, 16, fetchPlace, true, true, true, false⟩] }

/-- A part that has started, with a bundle in memory, at the turn of the core that issues it: this stands for the launch of a
grid whose warp has come to that bundle. -/
def State.withFetchWord (s : State) (nbits w : Nat) : State :=
  { s with
    agenda := [], cursor := 2
    cores := tset s.cores 0 (fetchCore s.gcc)
    ms := { s.ms with
      mem := memWrite s.ms.mem fetchPlace (leBytes 50 (w % 2 ^ nbits))
      poisoned := s.ms.poisoned.filter (fun ln => ln != lineOf fetchPlace) }
    sched := { s.sched with groups := tset s.sched.groups 0 fetchGroup }
    pt := { s.pt with
      throttle := false, quads := tdel s.pt.quads 0, dies := tdel s.pt.dies 0
      start := { s.pt.start with started := true, recovery := false } } }

end Sys2Proof.Machine
end

