-- ==== Sys2Proof/Safety.lean ====
section
/-!
DEFINITION. What the statements say of a run: when a slot instruction acts, what a step leaves unchanged, and the
invariants of the state.
-/
namespace Sys2Proof.Machine

/-! ## When a slot instruction acts -/

/-- An instruction acts in `s`: its guard admits it (R8, R97), no operand of it traps, and `t` is `s` after its releases and
bindings, which found registers (R62). -/
def Ready (i : Instr) (s t : State) : Prop := isOff s i = false ∧ prep i s = .ok t

/-- The scalar instructions that only queue results: arithmetic, moves, addresses, clock and identity (R101 to R113). -/
def isScalarResult : Instr → Bool
  | .iadd _ | .isub _ | .imul _ | .imulh .. | .imad .. | .idiv .. | .irem .. | .iand _ | .ior _ | .ixor _ | .iandn _
  | .shl _ | .shr _ | .shra _ | .rot _ | .clz _ | .popc _ | .brev _ | .bfx .. | .bfi .. | .imin .. | .imax .. | .icmp ..
  | .sel .. | .movi .. | .limmB32 .. | .limmB64 .. | .movsRf .. | .movsWf .. | .movsLc .. | .movsRp .. | .movsWp ..
  | .movsRm .. | .aadd _ | .alea .. | .flop .. | .rdgcc .. | .rdid .. => true
  | _ => false

/-- The issue of an access with a result: the result joins its counter's list under the next number, and the requests of its
lanes go out (R163, R165). -/
def issueAccess (s : State) (r : Result) (a : Ask) : State := sendAsk (addResult s.fresh.2 r) s.nextId a

/-- A vector value of the 128 lanes that the machine has. -/
def VReg.full (v : VReg) : Prop := v.lanes.length = 128

/-- Lane by lane a function of one source, with the source's poison (R132). -/
def Lanes1 (a v : VReg) (f : Word → Word) : Prop := (∀ l, l < 128 → v.lane l = f (a.lane l)) ∧ v.poison = a.poison

/-- Lane by lane a function of two sources; a lane is poisoned where either source is (R132). -/
def Lanes2 (a b v : VReg) (f : Word → Word → Word) : Prop :=
  (∀ l, l < 128 → v.lane l = f (a.lane l) (b.lane l)) ∧ v.poison = a.poison ||| b.poison

/-- Lane by lane a function of three sources (R130, R132). -/
def Lanes3 (a b c v : VReg) (f : Word → Word → Word → Word) : Prop :=
  (∀ l, l < 128 → v.lane l = f (a.lane l) (b.lane l) (c.lane l)) ∧ v.poison = a.poison ||| b.poison ||| c.poison

/-- A set of flags is what the active lanes raise (R87). -/
def RaisedBy (m : Mask) (f : Nat → Fx) (fx : Fx) : Prop :=
  ∀ j, fx.getLsbD j = true ↔ ∃ l, l < 128 ∧ m.getLsbD l = true ∧ (f l).getLsbD j = true

/-- The reduction tree over 2^k neighbours: the lower half combined with the upper half (R93). -/
def treeOf (f : Word → Word → Word) : Nat → (Nat → Word) → Nat → Word
  | 0, x, g => x g
  | k + 1, x, g => f (treeOf f k x (2 * g)) (treeOf f k x (2 * g + 1))

/-- The instructions on vectors that compute and move (R129 to R159). -/
def isVector : Instr → Bool
  | .fadd _ | .fsub _ | .fmul _ | .ffma _ | .ffmak _ | .fmin _ | .fmax _ | .fclass _ | .frnd .. | .fcmp .. | .hadd2 ..
  | .hmul2 .. | .hfma2 .. | .hdot2 .. | .vadd _ | .vsub _ | .vmul _ | .vmulh .. | .vmad _ | .vmin .. | .vmax .. | .vabs _
  | .vmov _ | .vand _ | .vor _ | .vxor _ | .vandn _ | .vshl _ | .vshr _ | .vshra _ | .vpopc _ | .vclz _ | .vbfx ..
  | .vbfi _ | .vsel _ | .vdot4 .. | .vcmp .. | .cvt .. | .cvtmx .. | .cvtxm .. | .pack _ | .unpk .. | .perm _ | .vlane ..
  | .xsh .. | .vrand _ | .mode .. | .rcp _ | .rsq _ | .sqrt _ | .exp2 _ | .log2 _ | .sin _ | .cos _ | .tanh _ | .rcpA _
  | .rsqA _ | .sqrtA _ | .exp2A _ | .log2A _ | .sinA _ | .cosA _ | .tanhA _ | .redAdd _ | .redMin _ | .redMax _
  | .rdrn .. | .rclr .. => true
  | _ => false

/-! ## What is left unchanged -/

/-- Every byte of memory and of every scratchpad, with its poison, reads as before. -/
def SameBytes (s t : State) : Prop :=
  (∀ a, memGet t.ms.mem a = memGet s.ms.mem a) ∧ t.ms.poisoned = s.ms.poisoned ∧
  (∀ c a, memGet (t.core c).scratch a = memGet (s.core c).scratch a) ∧
  ∀ c, (t.core c).spoison = (s.core c).spoison

/-- Every byte of memory reads as before, and every byte of a scratchpad outside the reserves of the warps that have spilled
entries (R273). -/
def SameButReserve (s t : State) : Prop :=
  (∀ a, memGet t.ms.mem a = memGet s.ms.mem a) ∧ t.ms.poisoned = s.ms.poisoned ∧
  (∀ c a, (∀ w, let x := s.warp c w
      x.spilled = [] ∨ a < reserveAt (s.group x.handle.toNat) x.wnum ∨
        reserveAt (s.group x.handle.toNat) x.wnum + 32 * x.spilled.length ≤ a) →
    memGet (t.core c).scratch a = memGet (s.core c).scratch a) ∧
  ∀ c, (∀ w, (s.warp c w).spilled = []) → (t.core c).spoison = (s.core c).spoison

/-- The scalar registers, flags and predicates of a warp hold what they held (R97, R98). -/
def SameScalars (u w : Warp) : Prop := (∀ n, sGet w n = sGet u n) ∧ w.f = u.f ∧ ∀ n, pGet w n = pGet u n

/-- The latches and operand caches hold what they held, with their valid bits (R57 to R60). -/
def SameBuffers (u w : Warp) : Prop := w.latches = u.latches ∧ w.caches = u.caches ∧ w.lv = u.lv ∧ w.kv = u.kv

/-- The frontier, the loop levels and the pending transfer are as before (R114, R120, R269). -/
def SameFlow (u w : Warp) : Prop :=
  w.entries = u.entries ∧ w.spilled = u.spilled ∧ w.issuer = u.issuer ∧ w.dl = u.dl ∧ w.xfer = u.xfer ∧ w.falls = u.falls ∧
  w.loops = u.loops ∧ w.strides = u.strides

/-- The special registers of a warp hold what they held: rounding mode, sticky flags, noise, stretch and launch counters,
watchdog budget, matrix parameters and format, and segments (R62, R82 to R89, R195, R256, R296). -/
def SameSpecial (u w : Warp) : Prop :=
  w.fmode = u.fmode ∧ w.fexc = u.fexc ∧ w.noise = u.noise ∧ w.seeded = u.seeded ∧ w.stretch = u.stretch ∧
  w.lseq = u.lseq ∧ w.budget = u.budget ∧ w.q = u.q ∧ w.mfmt = u.mfmt ∧ w.mfmtNext = u.mfmtNext ∧
  w.segBase = u.segBase ∧ w.segLimit = u.segLimit ∧ w.level = u.level

/-- The results, markers, watch and gates of a warp are as before (R163, R180, R184, R188, R318). -/
def SameWaits (u w : Warp) : Prop :=
  w.results = u.results ∧ w.xgate = u.xgate ∧ w.markers = u.markers ∧ w.watch = u.watch ∧ w.watchHit = u.watchHit ∧
  w.mwaits = u.mwaits ∧ w.gate = u.gate

/-- Every vector name of a warp reads as before. -/
def SameVectors (s t : State) (c w : Nat) : Prop :=
  ∀ n, vGet (t.core c) (t.warp c w) n = vGet (s.core c) (s.warp c w) n

/-- Every warp but the one at work is as it was. -/
def SameOthers (s t : State) : Prop :=
  ∀ c w, (c, w) ≠ (s.cur.core, s.cur.warp) → t.warp c w = s.warp c w ∧ SameVectors s t c w

/-- The parts of the machine outside the cores hold what they held: groups, grids, streams, translation, the frame path,
Hedgerow, the trap rings and the plant's registers. -/
def SameOutside (s t : State) : Prop :=
  t.gcc = s.gcc ∧ t.ms = s.ms ∧ t.sched = s.sched ∧ t.fr = s.fr ∧ t.hd = s.hd ∧ t.rg = s.rg ∧ t.pt = s.pt

/-- The issue changed nothing but the list of results that are still to land on the issuing core (R68). -/
def OnlyQueues (s t : State) : Prop :=
  SameOutside s t ∧ (∀ c w, t.warp c w = s.warp c w) ∧
  (∀ c, t.core c = { s.core c with pw := (t.core c).pw }) ∧ SameBytes s t

/-- The results an issue queued on the issuing core: those there before, and then these writes, each with its latency. -/
def Queued (s t : State) (l : List (Nat × Write)) : Prop :=
  t.myCore.pw = s.myCore.pw ++
    l.map (fun x => ⟨s.cur.warp, s.cur.slot.num, x.1, false, none, 0, false, false, x.2, none⟩)

/-- The issuing warp and every other hold what they held but for results and pending writes: no register, vector name, flow or
special register changed, and no byte of memory or of a scratchpad. -/
def OnlyIssues (s t : State) : Prop :=
  SameScalars s.me t.me ∧ SameBuffers s.me t.me ∧ SameFlow s.me t.me ∧ SameSpecial s.me t.me ∧ t.me.map = s.me.map ∧
  (∀ c w, SameVectors s t c w) ∧ (∀ c w, (c, w) ≠ (s.cur.core, s.cur.warp) → t.warp c w = s.warp c w) ∧ SameBytes s t

/-- What the landing of a result leaves on its core (R49, R57, R59, R63, R66, R124): it is pending no more, and, unless it is
marked to land nothing, its scalar register, flag, predicate or stride takes it; a vector value goes, in the lanes of its mask, into
the register of its binding where that binding stands, into its latch or partial sum (from index 8 on) and into its entry of the
operand cache, whose valid bits are set. Every other register, latch and entry of the core holds what it held. -/
def Landed (k k1 : Core) (p : Pending) : Prop :=
  let u := k.warp p.warp
  let x := k1.warp p.warp
  k1.pw = k.pw.erase p ∧ x.map = u.map ∧ (∀ i, i ≠ p.warp → k1.warp i = k.warp i) ∧
  (∀ i, sGet x i = match p.skip, p.wr with
    | false, .sreg n y => if i = n ∧ n ≠ 0 then y else sGet u i
    | false, .stride n y => if i = n ∧ n ≠ 0 then sGet u i + y else sGet u i
    | _, _ => sGet u i) ∧
  (∀ i, fGet x i = match p.skip, p.wr with
    | false, .flag n y => if i = n ∧ n ≠ 0 then y else fGet u i
    | _, _ => fGet u i) ∧
  (∀ i, pGet x i = match p.skip, p.wr with
    | false, .pred n m v => if i = n ∧ n ≠ 0 then (pGet u i &&& ~~~m) ||| (v &&& m) else pGet u i
    | _, _ => pGet u i) ∧
  (∀ i, tget VReg.zero k1.regs i = match p.skip, p.wr with
    | false, .vec (some (n, tok)) m v _ _ =>
      if ∃ b, tget? u.map n.toNat = some b ∧ b.tok = tok ∧ i = regIndex n b then VReg.merge m (tget VReg.zero k.regs i) v
      else tget VReg.zero k.regs i
    | _, _ => tget VReg.zero k.regs i) ∧
  (∀ i, tget VReg.zero x.latches i = match p.skip, p.wr with
    | false, .vec _ m v (some l) _ => if i = l then VReg.merge m (tget VReg.zero u.latches i) v else tget VReg.zero u.latches i
    | _, _ => tget VReg.zero u.latches i) ∧
  x.lv = (match p.skip, p.wr with | false, .vec _ _ _ (some l) _ => u.lv ||| (1#12 <<< l) | _, _ => u.lv) ∧
  (∀ i, tget VReg.zero x.caches i = match p.skip, p.wr with
    | false, .vec _ m v _ (some n) =>
      if i = n.toNat then VReg.merge m (tget VReg.zero u.caches i) v else tget VReg.zero u.caches i
    | _, _ => tget VReg.zero u.caches i) ∧
  x.kv = match p.skip, p.wr with | false, .vec _ _ _ _ (some n) => u.kv ||| (1#8 <<< n.toNat) | _, _ => u.kv

/-- A result that finds its bank's port taken: it is pending still, carried over to the next cycle, and no register of its core
changes (R66). -/
def CarriedOver (k k1 : Core) (p : Pending) : Prop :=
  { p with carried := true, rem := 1 } ∈ k1.pw ∧ k1.pw.length = k.pw.length ∧ k1.regs = k.regs ∧
  ∀ i, SameScalars (k.warp i) (k1.warp i) ∧ SameBuffers (k.warp i) (k1.warp i)

/-! ## Engine commands and matrix steps -/

/-- The start cycle that a static region gives a command has not come too close (R228, R232). -/
def EngTime (s : State) (x : XCtl) : Prop := ∀ r, s.me.region = some r → s.gcc + 4 ≤ r.s + r.z + x.sco.toNat

/-- The cycle before which a command does not act: a fixed one inside a static region (R228, R232). -/
def cmdDue (s : State) (x : XCtl) (delay : Nat) : Nat :=
  match s.me.region with | none => s.gcc + delay | some r => r.s + r.z + x.sco.toNat

/-- A descriptor read at issue from a state gives these bytes, and the state that its loads leave, whatever it is read for (R322). -/
def DescIs (s s1 : State) (va : DWord) (align n : Nat) (s2 : State) (b : List Byte) : Prop :=
  ∀ k : State → List Byte → Run, descriptor s s1 va align n k = k s2 b

/-- The issue of an engine command: it joins its core's commands with its warp, level, lanes, path and cycle, its result, where
it asks for one, joins its counter's list, and nothing else changes (R163, R231). -/
def CmdIssued (s s1 t : State) (x : XCtl) (path : Nat) (m : Mask) (todo : List Write) (due : Nat) (fixed : Bool) (op : EngOp) : Prop :=
  OnlyIssues s1 t ∧ t.me.results = s1.me.results ++ (if x.ae then [Result.new s1.nextId x.ac todo m] else []) ∧
  ∃ c : ECmd, t.myCore.ecmds = s1.myCore.ecmds ++ [c] ∧ c.op = op ∧ c.warp = s.cur.warp ∧ c.handle = s.me.handle ∧
    c.level = s.me.level ∧ c.mask = m ∧ c.path = path ∧ c.due = due ∧ c.region = fixed ∧
    c.deps = gateIds s path ∧ c.rid = if x.ae then some s1.nextId else none

/-- The issue of a command that a static region times (R232). -/
def EngIssued (s s1 t : State) (x : XCtl) (path : Nat) (m : Mask) (todo : List Write) (delay : Nat) (op : EngOp) : Prop :=
  CmdIssued s s1 t x path m todo (cmdDue s x delay) s.me.region.isSome op

/-- Nothing of the machine has changed but the matrix engine of one core. -/
def OnlyEngine (s t : State) (c : Nat) : Prop := t = updEng s c (fun _ => engOf t c)

/-- A step of a routine has issued: the routine stands behind it, loops closed, and no step issues again in this cycle (R218). -/
def StepIssued (s t : State) (r : Routine) : Prop :=
  OnlyEngine s t s.ev.core ∧ ∃ r', (engOf t s.ev.core).run = some r' ∧ r'.pos = (goTo r (r.pos + 1) s.gcc).pos ∧
    r'.q = (goTo r (r.pos + 1) s.gcc).q ∧ r'.loops = (goTo r (r.pos + 1) s.gcc).loops ∧ r'.next = s.gcc + 1 ∧
    r'.block = r.block ∧ r'.syncs = r.syncs ∧ r'.fmt = r.fmt

/-- Nothing of the machine has changed but one core. -/
def OnlyCore (s t : State) (c : Nat) : Prop := t = { s with cores := t.cores } ∧ ∀ d, d ≠ c → t.core d = s.core d

/-- The command core takes up this command of this stream next (R351, R355). -/
def TakesUp (s : State) (op i : Nat) (c : Command) : Prop := nextStream s = some (i, some c) ∧ c.op = op ∧ c.ok = true

/-- A stream has moved on behind the command it stood at (R353). -/
def Passed (s t : State) (i : Nat) : Prop :=
  (streamOf t i).head = (streamOf s i).head + 32 ∧ (streamOf t i).ctl = (streamOf s i).ctl ∧ t.sched.lastStream = i

/-- A stream has stopped with an error code, at the command that it stood at (R361). -/
def Stopped (s t : State) (i code : Nat) : Prop :=
  (streamOf t i).state = 4 ∧ (streamOf t i).err = BitVec.ofNat 16 code ∧ (streamOf t i).head = (streamOf s i).head ∧
  (streamOf t i).cmds = (streamOf s i).cmds

end Sys2Proof.Machine
end

