-- ==== Sys2Proof/WellFormed.lean ====
section
/-!
DEFINITION. Which instructions the encodings admit: the field rules of R31 to R45 and of each entry, as a check on
the decoded form. An instruction that passes it has a word that decodes to it.
-/
namespace Sys2Proof

/-- A dead bit marks only a vN (R31); KI is zero without KC (R31). -/
def V1.wf (o : V1) : Bool := o.d.isDst && o.a.isSrc && (!o.da || o.a.isV) && (o.kc || o.ki == 0)

def V2.wfk (o : V2) : Bool :=
  o.d.isDst && o.a.isSrc && o.b.isSrc && (!o.da || o.a.isV) && (!o.db || o.b.isV)

def V2.wf (o : V2) : Bool := o.wfk && (o.kc || o.ki == 0)

def VAcc.wf (o : VAcc) : Bool :=
  o.a.isSrc && o.b.isSrc && (!o.da || o.a.isV) && (!o.db || o.b.isV) && (o.kc || o.ki == 0)

def VCmp.wf (o : VCmp) : Bool :=
  o.pd != 0 && o.a.isSrc && o.b.isSrc && (!o.da || o.a.isV) && (!o.db || o.b.isV)

def VRed.wf (o : VRed) : Bool := o.a.isSrc && (!o.da || o.a.isV)

def MOps.wf (o : MOps) (segs : List (BitVec 3)) (u : DatUse) : Bool :=
  segs.contains o.seg && datOk u o.dat && adrOk o.seg o.adr && (!o.ad || o.adr.isV)

def MWOps.wf (o : MWOps) (segs : List (BitVec 3)) (u : DatUse) : Bool :=
  segs.contains o.seg && datOk u o.dat && adrOk o.seg o.adr && (!o.ad || o.adr.isV)

def MWOps.wfAtom (o : MWOps) (sc : Bool) (op : AtomOp) : Bool :=
  (if sc then [sgl] else [sgl, sgf]).contains o.seg && atomDatOk op o.dat && adrOk o.seg o.adr &&
  (!o.ad || o.adr.isV)

/-- The scope field of LD.ACQ and ST.REL is not 7 (R168). -/
def MWOps.scopeOk (o : MWOps) : Bool := o.ofs.extractLsb' 6 3 != 7

def PairSpec.wf (a : PairSpec) (ad : Bool) : Bool :=
  (match a with | .v n => even n | .s n => even n) && (!ad || a.isV)

/-- The arrival fields of an X-form command (R45), and SCO zero outside a static region (R36). -/
def XCtl.wf (x : XCtl) (inRegion : Bool) (k : ArrivalRule) : Bool :=
  (inRegion || x.sco == 0) &&
  match k with
  | .required => x.ae
  | .optional => true
  | .none => !x.ae && x.ac == 0

def blockWf (n : BitVec 9) (size : Nat) : Bool := decide (n.toNat % size = 0)

/-- CTLR and CTLW name a register by a 12-bit number when immediate (R262). -/
def SSrc.ctlWf : SSrc → Bool
  | .imm i => i.extractLsb' 12 2 == 0
  | .reg _ => true


/-- The slot instructions, routine steps and bundles the encodings admit. Events carry no field and are admitted. -/
def Instr.wf (inRegion : Bool) : Instr → Bool
  | .icmp _ fd _ _ _ => fd != 0
  | .limmB64 _ d _ => even d
  | .movsLc _ _ n => decide (n.toNat ≤ 5)
  | .movsWp _ p _ _ => p != 0
  | .aadd o => even o.d && even o.a && o.b.evenOk
  | .alea o _ _ => even o.d && even o.a
  | .flop _ fd _ _ _ => fd != 0
  | .rdgcc _ d => even d
  | .call _ _ n => even n && n != 0
  | .ret _ a => even a && a != 0
  | .lstr _ _ _ lv _ => decide (lv.toNat ≤ 5)
  | .waita _ m _ => m != 0
  | .twait _ _ n _ _ _ => n != 0
  | .ctlr _ _ b => b.ctlWf
  | .ctlw _ _ b => b.ctlWf
  | .segw _ a sg _ => even a && decide (sg.toNat ≤ 5)
  | .launch _ _ a _ => even a
  | .wdogRd _ d => even d
  | .wdogLower _ a => even a
  | .wdogSet _ a => even a
  | .govrP _ d _ => even d
  | .govrWp _ a _ => even a
  | .fadd o | .fsub o | .fmul o | .fmin o | .fmax o => o.wf
  | .ffmak o => o.wfk
  | .ffma o => o.wf
  | .fclass o | .frnd o _ => o.wf
  | .fcmp o _ => o.wf
  | .hadd2 o _ | .hmul2 o _ => o.wf
  | .hfma2 o _ | .hdot2 o _ => o.wf
  | .vadd o | .vsub o | .vmul o | .vmulh o _ | .vmin o _ | .vmax o _ => o.wf
  | .vand o | .vor o | .vxor o | .vandn o | .vshl o | .vshr o | .vshra o | .vbfx o _ | .vsel o => o.wf
  | .pack o | .perm o => o.wf
  | .vmad o | .vbfi o | .vdot4 o _ => o.wf
  | .vabs o | .vmov o | .vpopc o | .vclz o => o.wf
  | .vcmp o _ => o.wf
  | .cvt o sf _ _ sp => o.wf && decide (sp.toNat * sf.width < 32)
  | .cvtmx o _ _ | .cvtxm o _ _ => o.wf
  | .unpk o _ z n => o.wf && (!z || n.extractLsb' 1 1 == 0)
  | .vlane o pat k => o.wf && (pat != .rev || k == 0)
  | .xsh o _ _ => o.wf
  | .vrand o => o.d.isDst && (o.kc || o.ki == 0)
  | .rcp o | .rsq o | .sqrt o | .exp2 o | .log2 o | .sin o | .cos o | .tanh o => o.wf
  | .rcpA o | .rsqA o | .sqrtA o | .exp2A o | .log2A o | .sinA o | .cosA o | .tanhA o => o.wf
  | .redAdd o | .redMin o | .redMax o => o.wf
  | .rdrn _ d _ _ kc ki => d.isDst && (kc || ki == 0)
  | .mcall x _ _ => x.wf inRegion .optional
  | .mpar x _ v => x.wf inRegion .none && (match v with | .imm _ => true | .s n => even n)
  | .mfmt x _ => x.wf inRegion .none
  | .mstat x d | .wstat x d => x.wf inRegion .required && even d
  | .mpsw x v _ => x.wf inRegion .none && even v
  | .wst x a _ => x.wf inRegion .optional && even a
  | .rqCl x b s | .rqAn x b s | .rqOc x b s => x.wf inRegion .required && blockWf b 8 && even s
  | .bvhb x a | .bvhf x a => x.wf inRegion .optional && even a
  | .texS x b a | .texF x b a | .texL x b a | .texq x b a =>
    x.wf inRegion .required && blockWf b 4 && even a
  | .copy x a _ => x.wf inRegion .optional && even a
  | .cmpt x a => x.wf inRegion .optional && even a
  | .cmpq x d _ => x.wf inRegion .required && even d
  | .mark x m _ => x.wf inRegion .none && m != 0
  | .markw x _ => x.wf inRegion .required
  | .ldM _ o => o.wf [sgs, sgq, sgt] .load
  | .stM _ o => o.wf [sgs, sgq, sgt] .src
  | .ldt o => o.wf [sgl] .load
  | .ldMw _ o => o.wf [sgl, sgc, sgf] .load
  | .stMw _ o => o.wf [sgl, sgf] .src
  | .ldS o => o.wf [sgl] .load
  | .ldPoll o => o.wf [sgl, sgc, sgf] .vOnly
  | .ldAcq o => o.wf [sgl, sgc, sgf] .load && o.scopeOk
  | .stRel o => o.wf [sgl, sgf] .src && o.scopeOk
  | .ldSc o => o.wf [sgl] .load
  | .stSc o => o.wf [sgl] .src
  | .pref _ _ a _ ad => a.wf ad
  | .atomAdd o w => o.wfAtom false (.add w)
  | .atomMin o w u => o.wfAtom false (.min w u)
  | .atomMax o w u => o.wfAtom false (.max w u)
  | .atomAnd o w => o.wfAtom false (.and w)
  | .atomOr o w => o.wfAtom false (.or w)
  | .atomXor o w => o.wfAtom false (.xor w)
  | .atomExch o w => o.wfAtom false (.exch w)
  | .atomCas o w => o.wfAtom false (.cas w)
  | .atomAddF32 o => o.wfAtom false .addF32
  | .atomAddBf16 o => o.wfAtom false .addBf16
  | .atomSc o op => o.wfAtom true op
  | .redAddF32 o | .redAddN32 o | .redMinF32 o | .redMaxF32 o | .redAddBf16 o => o.wf [sgl, sgf] .src
  | .flushrOrdered _ a _ _ ad => a.wf ad
  | .xfence _ u d _ => u != 0 && d != 0
  | .watchArm _ a _ ad | .watchDisarm _ a _ ad => a.wf ad
  | .stapp _ v key zb nk ad =>
    v.isSrc && key.isSrc && (!ad || key.isV) && decide (zb.toNat + nk.toNat + 1 ≤ 16)
  | .stcmt _ _ sc _ _ => decide (1 ≤ sc.num) && decide (sc.num ≤ 4)
  | .tsend _ v _ _ | .tsendM _ v _ _ => v.isSrc
  | .trecv _ d _ _ => d.isDst
  | .bundleIssue b => b.head.extractLsb' 13 3 == 0 && headPres b.head != 0 &&
      decide (b.words.length = (headSlots b.head).length)
  | .idleBundle h => h.extractLsb' 13 3 == 0 && headPres h == 0
  | _ => true

end Sys2Proof
end

