-- ==== Sys2Proof/Certificates/Slice0/Obligations.lean ====
section
/-!
DEFINITION. The statements about the model, for the provers: each is a proposition over all states and operands.
-/
open Sys2Proof Sys2Proof.Machine

/-! ## Scalar instructions (R97 to R113) -/

/-- R101, R103, R105, R107, R49: an arithmetic, logic, minimum, maximum or select instruction whose condition holds issues,
and its result, computed from the sources as they stand at issue, is queued for its destination.
R102: a division issues whatever its operands; its result lands after 20 cycles. -/
def Obligations.ScalarArithmeticResults : Prop :=
  (∀ (s : State) (o : S3), flagOn s.me o.g = true →
     let a := sGet s.me o.a
     let b := o.b.val s.me
     exec (.iadd o) s = .next (pendS s 1 o.d (a + b)) ∧
     exec (.isub o) s = .next (pendS s 1 o.d (a - b)) ∧
     exec (.imul o) s = .next (pendS s 3 o.d (a * b)) ∧
     exec (.imulh o false) s = .next (pendS s 3 o.d (BitVec.ofInt 32 (a.toInt * b.toInt / 2 ^ 32))) ∧
     exec (.imulh o true) s = .next (pendS s 3 o.d (BitVec.ofNat 32 (a.toNat * b.toNat / 2 ^ 32))) ∧
     (∀ c, exec (.imad o c) s = .next (pendS s 3 o.d (a * b + sGet s.me c))) ∧
     exec (.iand o) s = .next (pendS s 1 o.d (a &&& b)) ∧
     exec (.ior o) s = .next (pendS s 1 o.d (a ||| b)) ∧
     exec (.ixor o) s = .next (pendS s 1 o.d (a ^^^ b)) ∧
     exec (.iandn o) s = .next (pendS s 1 o.d (a &&& ~~~b)) ∧
     (∀ uns, exec (.imin o uns) s =
       .next (pendS s 1 o.d (if (if uns then a.toNat ≤ b.toNat else a.toInt ≤ b.toInt) then a else b))) ∧
     (∀ uns, exec (.imax o uns) s =
       .next (pendS s 1 o.d (if (if uns then b.toNat ≤ a.toNat else b.toInt ≤ a.toInt) then a else b))) ∧
     (∀ fl neg, exec (.sel o fl neg) s = .next (pendS s 1 o.d (if fGet s.me fl != neg then a else b)))) ∧
  (∀ (s : State) (o : S3) (uns : Bool), flagOn s.me o.g = true →
     let a := sGet s.me o.a
     let b := o.b.val s.me
     ∃ q r : Word, exec (.idiv o uns) s = .next (pendS s 20 o.d q) ∧ exec (.irem o uns) s = .next (pendS s 20 o.d r) ∧
       (b = 0 → q = 0xFFFFFFFF ∧ r = a) ∧
       (uns = true → b ≠ 0 → q.toNat = a.toNat / b.toNat ∧ r.toNat = a.toNat % b.toNat) ∧
       (uns = false → a = 0x80000000 → b = 0xFFFFFFFF → q = a ∧ r = 0) ∧
       (uns = false → b ≠ 0 → ¬(a = 0x80000000 ∧ b = 0xFFFFFFFF) →
         q.toInt = Int.tdiv a.toInt b.toInt ∧ r.toInt = a.toInt - q.toInt * b.toInt))

/-- R103, R104: shifts read their count as unsigned, a count of 32 or more leaves zeros or copies of the sign; rotations
count modulo 32; the counts of leading zeros and of ones, bit reversal, and the extraction and insertion of fields. -/
def Obligations.ScalarShiftAndFieldResults : Prop :=
  (∀ (s : State) (o : S3), flagOn s.me o.g = true →
    let a := sGet s.me o.a
    let b := o.b.val s.me
    exec (.shl o) s = .next (pendS s 1 o.d (a <<< b.toNat)) ∧
    exec (.shr o) s = .next (pendS s 1 o.d (a >>> b.toNat)) ∧
    exec (.shra o) s = .next (pendS s 1 o.d (a.sshiftRight b.toNat)) ∧
    exec (.rot o) s = .next (pendS s 1 o.d (a <<< (b.toNat % 32) ||| a >>> (32 - b.toNat % 32))) ∧
    ∀ w : BitVec 5,
      let f := a.toNat / 2 ^ (b.toNat % 32) % 2 ^ (w.toNat + 1)
      exec (.bfx o w false) s = .next (pendS s 1 o.d (BitVec.ofNat 32 f)) ∧
      exec (.bfx o w true) s =
        .next (pendS s 1 o.d (BitVec.ofInt 32 (if f < 2 ^ w.toNat then (f : Int) else f - 2 ^ (w.toNat + 1)))) ∧
      ∃ v : Word, exec (.bfi o w) s = .next (pendS s 1 o.d v) ∧ ∀ i, i < 32 →
        v.getLsbD i = if b.toNat % 32 ≤ i ∧ i ≤ b.toNat % 32 + w.toNat then a.getLsbD (i - b.toNat % 32)
          else (sGet s.me o.d).getLsbD i) ∧
  (∀ (s : State) (u : S2), flagOn s.me u.g = true →
    let x := sGet s.me u.a
    (∃ n, n ≤ 32 ∧ exec (.clz u) s = .next (pendS s 1 u.d (BitVec.ofNat 32 n)) ∧ x.toNat < 2 ^ (32 - n) ∧
      (x ≠ 0 → 2 ^ (31 - n) ≤ x.toNat ∧ n < 32)) ∧
    exec (.popc u) s = .next (pendS s 1 u.d (BitVec.ofNat 32 ((List.range 32).countP (fun i => x.getLsbD i)))) ∧
    ∃ v : Word, exec (.brev u) s = .next (pendS s 1 u.d v) ∧ ∀ i, i < 32 → v.getLsbD i = x.getLsbD (31 - i))

/-- R106, R108, R110, R100: compares and flag operations queue one flag; the moves between scalar registers and flags,
loop counters, predicates and the mask of the issuing entry.
R111 to R113, R98: address arithmetic over pairs, the clock and the identity registers. A warp of no group has no number
of its own or of a group: there the model takes a free value (its choice, log entry 9). That RDID 5 gives an arrival-handler warp its number of 16 to 19,
which R113 does not name, is the model's choice (log entry 113). -/
def Obligations.ScalarFlagMoveAndAddressResults : Prop :=
  (∀ (s : State) (g : Guard) (d a : BitVec 7) (b : SSrc), flagOn s.me g = true →
     let x := sGet s.me a
     let y := b.val s.me
     (∀ fd c, exec (.icmp g fd a b c) s = .next (pend s 1 (.flag fd (match c with
       | .eq => decide (x = y) | .ne => decide (x ≠ y)
       | .ltI => decide (x.toInt < y.toInt) | .leI => decide (x.toInt ≤ y.toInt)
       | .gtI => decide (y.toInt < x.toInt) | .geI => decide (y.toInt ≤ x.toInt)
       | .ltN => decide (x.toNat < y.toNat) | .leN => decide (x.toNat ≤ y.toNat)
       | .gtN => decide (y.toNat < x.toNat) | .geN => decide (y.toNat ≤ x.toNat))))) ∧
     (∀ fd fa fb t, exec (.flop g fd fa fb t) s =
       .next (pend s 1 (.flag fd (t.getLsbD (2 * (fGet s.me fa).toNat + (fGet s.me fb).toNat))))) ∧
     (∀ i, exec (.movi g d i) s = .next (pendS s 1 d (i.signExtend 32))) ∧
     (∀ w, exec (.limmB32 g d w) s = .next (pendS s 1 d w)) ∧
     (∀ w, exec (.limmB64 g d w) s = .next (pendPair s 1 d (w.signExtend 64))) ∧
     (∃ v : Word, exec (.movsRf g d) s = .next (pendS s 1 d v) ∧ ∀ i : BitVec 3,
       v.getLsbD i.toNat = fGet s.me i ∧ v.toNat < 256) ∧
     (∃ t, exec (.movsWf g a) s = .next t ∧ OnlyQueues s t ∧
       Queued s t [(1, .flag 1 (x.getLsbD 1)), (1, .flag 2 (x.getLsbD 2)), (1, .flag 3 (x.getLsbD 3)),
         (1, .flag 4 (x.getLsbD 4)), (1, .flag 5 (x.getLsbD 5)), (1, .flag 6 (x.getLsbD 6)), (1, .flag 7 (x.getLsbD 7))]) ∧
     (∀ n : BitVec 3, exec (.movsLc g d n) s = .next (pendS s 1 d (((s.me.loops[n.toNat]?).map (·.lc)).getD 0))) ∧
     (∀ p j, ∃ v : Word, exec (.movsRp g d p j) s = .next (pendS s 1 d v) ∧
       ∀ i, i < 32 → v.getLsbD i = (pGet s.me p).getLsbD (32 * j.toNat + i)) ∧
     (∀ p j, ∃ m v, exec (.movsWp g p j a) s = .next (pend s 1 (.pred p m v)) ∧
       ∀ l, l < 128 → m.getLsbD l = decide (l / 32 = j.toNat) ∧ (l / 32 = j.toNat → v.getLsbD l = x.getLsbD (l % 32))) ∧
     (∀ j, ∃ v : Word, exec (.movsRm g d j) s = .next (pendS s 1 d v) ∧
       ∀ i, i < 32 → v.getLsbD i = s.cur.mask.getLsbD (32 * j.toNat + i))) ∧
  (∀ (s : State) (o : S3), flagOn s.me o.g = true →
     exec (.aadd o) s = .next (pendPair s 1 o.d (sPairGet s.me o.a + o.b.val64 s.me)) ∧
     (∀ k, exec (.alea o k false) s =
       .next (pendPair s 1 o.d (sPairGet s.me o.a + (o.b.val s.me).signExtend 64 * 2 ^ k.toNat))) ∧
     (∀ k, exec (.alea o k true) s =
       .next (pendPair s 1 o.d (sPairGet s.me o.a + (o.b.val s.me).setWidth 64 * 2 ^ k.toNat))) ∧
     exec (.rdgcc o.g o.d) s = .next (pendPair s 1 o.d (BitVec.ofNat 64 s.gcc)) ∧
     exec (.rdid o.g o.d 0) s = .next (pendS s 1 o.d (BitVec.ofNat 32 s.cur.core)) ∧
     exec (.rdid o.g o.d 1) s = .next (pendS s 1 o.d (BitVec.ofNat 32 (s.cur.core / 16))) ∧
     exec (.rdid o.g o.d 2) s = .next (pendS s 1 o.d (BitVec.ofNat 32 (s.cur.core / 4))) ∧
     exec (.rdid o.g o.d 3) s = .next (pendS s 1 o.d (BitVec.ofNat 32 (s.cur.core % 16))) ∧
     exec (.rdid o.g o.d 4) s = .next (pendS s 1 o.d (BitVec.ofNat 32 s.cur.warp)) ∧
     (s.me.handle ≠ noGroup → exec (.rdid o.g o.d 5) s = .next (pendS s 1 o.d (BitVec.ofNat 32 s.me.wnum))) ∧
     (s.me.handle ≠ noGroup → exec (.rdid o.g o.d 6) s = .next (pendS s 1 o.d (BitVec.ofNat 32 s.myGroup.num))) ∧
     exec (.rdid o.g o.d 7) s =
       .next (pendS s 1 o.d (match s.me.level with | .u => 0 | .s => 1 | .f => 2)) ∧
     ∀ sel, ∃ t v, exec (.rdid o.g o.d sel) s = .next t ∧ Queued s t [(1, .sreg o.d v)])

/-- The frame of the scalar result instructions: at issue nothing changes but the results queued on the core, or nothing at
all where the condition fails (R97). -/
def Obligations.ScalarFrame : Prop :=
  ∀ (i : Instr) (s t : State), isScalarResult i = true → exec i s = .next t →
    OnlyQueues s t ∧ (isOff s i = true → t = s)

/-! ## Control, loops, YIELD and EXIT (R114 to R127) -/

/-- R114 to R119: a control instruction that acts starts three delay bundles, and what follows the third is the transfer its
rule gives; the target of the B-form lies the signed half-word offset from the bundle.
R123: a control instruction that one of the checks names takes a loop fault. That a BRV whose lanes differ takes the trap of a
non-uniform branch where R123 forbids it too is the model's choice (log entry 106). -/
def Obligations.ControlTransferResults : Prop :=
  (∀ (s : State) (g : Guard) (off : BitVec 26),
     let t := s.cur.pc + off.signExtend 64 * 2
     (flagOn s.me g = true → controlFault s (some t) = false → exec (.bru g off) s = .next (startDelay s (.goto t))) ∧
     (flagOn s.me g = true → controlFault s none = false →
       exec (.jmp g off) s = .next (startDelay s (.jump t)) ∧
       (∀ a, exec (.ret g a) s = .next (startDelay s (.goto (sPairGet s.me a)))) ∧
       (∀ link, ∃ u a, exec (.call g off link) s = .next (startDelay (pendPair u 1 link a) (.goto t)) ∧
         (∀ x, seqFrom s s.cur.core s.me.level s.cur.pc 4 = some x → u = s ∧ a = x))) ∧
     (∀ p, s.cur.mask ≠ 0 → predMask s.me p &&& s.cur.mask = s.cur.mask → controlFault s (some t) = false →
       exec (.brv p off) s = .next (startDelay s (.goto t))) ∧
     (∀ p, s.cur.mask ≠ 0 → predMask s.me p &&& s.cur.mask = 0 → controlFault s none = false →
       exec (.brv p off) s = .next (startDelay s .none)) ∧
     (∀ p, predMask s.me p &&& s.cur.mask ≠ 0 → predMask s.me p &&& s.cur.mask ≠ s.cur.mask →
       exec (.brv p off) s = .next (takeTrap s (.of .nonUniformBranch))) ∧
     (∀ v b, tget? s.me.map v.toNat = some b → controlFault s none = false →
       exec (.chk off v) s = .next (startDelay s
         (if (vGet s.myCore s.me v).poison &&& s.cur.mask = 0 then .none else .goto t)))) ∧
  (∀ (s : State) (g : Guard) (off : BitVec 26), flagOn s.me g = true →
     let t := s.cur.pc + off.signExtend 64 * 2
     (controlFault s (some t) = true → exec (.bru g off) s = .next (takeTrap s (.of .loopFault))) ∧
     (nearEnd s = true →
       exec (.jmp g off) s = .next (takeTrap s (.of .loopFault)) ∧
       (∀ a, exec (.ret g a) s = .next (takeTrap s (.of .loopFault))) ∧
       (∀ link, exec (.call g off link) s = .next (takeTrap s (.of .loopFault)))) ∧
     (∀ b body, (6 ≤ s.me.loops.length ∨ (s.me.loops.getLast?).map (·.stop) = some s.cur.pc) →
       exec (.loop g b body) s = .next (takeTrap s (.of .loopFault))))

/-- R117: BRD divides the issuing entry by a predicate: lanes of it that hold and lanes that do not, each with its own
priority; where no lane of it holds, the whole entry goes on and takes its priority when the third delay bundle has issued;
inside a static region a division is a timing fault. That it is this fault where R123 forbids the BRD too is the model's choice
(log entry 106). -/
def Obligations.DivergenceResults : Prop :=
  ∀ (s : State) (g p : Guard) (off : BitVec 26) (pft ptk : BitVec 16), flagOn s.me g = true →
    let a := s.cur.pc + off.signExtend 64 * 2
    let t := predMask s.me p &&& s.cur.mask
    let f := s.cur.mask &&& ~~~predMask s.me p
    (t = 0 → controlFault s none = false → exec (.brd g off p pft ptk) s = .next (startDelay (addFall s pft) .none)) ∧
    (t ≠ 0 → f = 0 → controlFault s (some a) = false →
      exec (.brd g off p pft ptk) s = .next (startDelay s (.take a ptk))) ∧
    (t ≠ 0 → f ≠ 0 → s.me.region = none → controlFault s (some a) = false →
      exec (.brd g off p pft ptk) s = .next (startDelay s (.split a ptk pft t f))) ∧
    (t ≠ 0 → f ≠ 0 → s.me.region ≠ none → exec (.brd g off p pft ptk) s = .next (takeTrap s (.timing 2))) ∧
    (addFall s pft).me.falls = s.me.falls ++ [(4, pft)] ∧ (addFall s pft).me.entries = s.me.entries

/-- R114: what a control instruction that acts leaves behind: three delay bundles to come, its transfer, and its entry as
the one that issues them; nothing else of the machine changes. -/
def Obligations.DelayBundlesFrame : Prop :=
  ∀ (s : State) (x : Transfer), let t := startDelay s x
    t.me.dl = 3 ∧ t.me.xfer = x ∧ t.me.issuer = some s.cur.mask ∧ SameScalars s.me t.me ∧ SameBuffers s.me t.me ∧
    SameSpecial s.me t.me ∧ SameWaits s.me t.me ∧ t.me.map = s.me.map ∧ t.me.loops = s.me.loops ∧
    t.me.entries = s.me.entries ∧ t.me.spilled = s.me.spilled ∧ t.me.falls = s.me.falls ∧
    SameOthers s t ∧ SameOutside s t ∧ SameBytes s t ∧ ∀ c, (t.core c).pw = (s.core c).pw

/-- R121, R124: LOOP opens a level whose body starts at the next bundle and takes over the strides registered for it, or
skips its body when the count is 0; LSTR replaces a registration of an active level or holds it until the level opens.
R126, R127, R70, R287: outside a static region YIELD ends the warp's turn at a switch point, and EXIT takes the issuing
entry out of the frontier; inside one each is a timing fault. -/
def Obligations.LoopYieldAndExitResults : Prop :=
  (∀ (s : State) (g : Guard) (b : SSrc), flagOn s.me g = true →
    (∀ (body : BitVec 6) (a : DWord), s.me.loops.length < 6 → (s.me.loops.getLast?).map (·.stop) ≠ some s.cur.pc →
      b.val s.me ≠ 0 → seqFrom s s.cur.core s.me.level s.cur.pc (body.toNat + 1) = some a →
      ∃ t, exec (.loop g b body) s = .next t ∧
        t.me.loops = s.me.loops ++ [⟨s.cur.nextPc, a, b.val s.me, true,
          tget? s.me.strides (2 * s.me.loops.length), tget? s.me.strides (2 * s.me.loops.length + 1)⟩] ∧
        t.cur = s.cur ∧ t.me.entries = s.me.entries ∧ SameScalars s.me t.me ∧ SameBuffers s.me t.me ∧
        SameSpecial s.me t.me ∧ SameOthers s t ∧ SameOutside s t ∧ SameBytes s t) ∧
    (∀ (body : BitVec 6) (a : DWord), s.me.loops.length < 6 → (s.me.loops.getLast?).map (·.stop) ≠ some s.cur.pc →
      b.val s.me = 0 → seqFrom s s.cur.core s.me.level s.cur.pc (body.toNat + 2) = some a →
      exec (.loop g b body) s = .next { s with cur := { s.cur with skip := some a } }) ∧
    (∀ (d : BitVec 7) (level : BitVec 3) (reg : Bool),
      ∃ t, exec (.lstr g d b level reg) s = .next t ∧
        (∀ l, s.me.loops[level.toNat]? = some l →
          t.me.loops[level.toNat]? = some (if reg then { l with r1 := some (d, b.val s.me) }
            else { l with r0 := some (d, b.val s.me) }) ∧ t.me.strides = s.me.strides) ∧
        (s.me.loops.length ≤ level.toNat → t.me.loops = s.me.loops ∧
          tget? t.me.strides (2 * level.toNat + reg.toNat) = some (d, b.val s.me)) ∧
        t.cur = s.cur ∧ t.me.entries = s.me.entries ∧ SameScalars s.me t.me ∧ SameBuffers s.me t.me ∧
        SameSpecial s.me t.me ∧ SameOthers s t ∧ SameOutside s t ∧ SameBytes s t)) ∧
  (∀ (s : State) (g : Guard), flagOn s.me g = true →
    (s.me.region = none →
      exec (.yield g) s = .next (switchPoint s) ∧
      (switchPoint s).me.ready = none ∧ (switchPoint s).me.drain = true ∧ (switchPoint s).cur.switch = true ∧
      SameScalars s.me (switchPoint s).me ∧ SameFlow s.me (switchPoint s).me ∧ SameSpecial s.me (switchPoint s).me ∧
      SameOthers s (switchPoint s) ∧ SameOutside s (switchPoint s) ∧ SameBytes s (switchPoint s) ∧
      ∃ t, exec (.exit g) s = .next t ∧ t.cur.exited = true ∧
        (∀ e, e ∈ t.me.entries ↔ e ∈ s.me.entries ∧ e.mask ≠ s.cur.mask) ∧
        SameScalars s.me t.me ∧ SameBuffers s.me t.me ∧ SameSpecial s.me t.me ∧ t.me.loops = s.me.loops ∧
        SameOthers s t ∧ SameOutside s t ∧ SameBytes s t) ∧
    (s.me.region ≠ none →
      exec (.yield g) s = .next (takeTrap s (.timing 1)) ∧ exec (.exit g) s = .next (takeTrap s (.timing 1))))

/-- R97: an S-form or B-form instruction whose condition is false changes nothing, but that a suppressed control
instruction has its three delay bundles without a transfer; and an instruction on vectors whose predicate never holds changes
nothing (R31, R62). A bundle that issues has no trap or role switch of its own still to come. -/
def Obligations.SuppressedInstructions : Prop :=
  ∀ (i : Instr) (s : State), isOff s i = true → s.cur.after = none → (∀ k, s.me.susp ≠ .role k) →
    exec i s = .next (if isControl i then startDelay s .none else s)

/-! ## Waiting, barriers and phases (R181 to R187) -/

/-- R181, R182, R70: outside a static region WAITA suspends the warp over the results it covers, unless one of them owes a
trap; TWAIT whose condition holds puts 1 into its flag or predicate and waits for the landing, with a hint of 0 puts 0 there
and goes on, and else waits until the hint expires.
R181: with n = 0 a WAITA covers exactly the results of the counters its mask names. -/
def Obligations.WaitResults : Prop :=
  (∀ (s : State) (g : Guard), flagOn s.me g = true → s.me.region = none → s.me.susp = .none →
     (∀ mask n, owesWait s (coverMask s.me mask n.toNat) = false → waitaTrap s.me (coverMask s.me mask n.toNat) = none →
       ∃ t, exec (.waita g mask n) s = .next t ∧ t.me.susp = .waita (coverMask s.me mask n.toNat) ∧
         t.me.ready = none ∧ t.cur.switch = true ∧ SameScalars s.me t.me ∧ SameFlow s.me t.me ∧ SameSpecial s.me t.me ∧
         SameWaits s.me t.me ∧ SameOthers s t ∧ SameOutside s t ∧ SameBytes s t) ∧
     (∀ pred num h mask watch, twaitMet s.me mask watch = false →
       ∃ t, exec (.twait g pred num h mask watch) s = .next t ∧ t.cur.switch = true ∧
         (sGet s.me h = 0 → t.me.susp = .none ∧
           (if pred then (∀ m, pGet t.me m = if m = num ∧ num ≠ 0 then 0 else pGet s.me m) ∧ t.me.f = s.me.f
            else (∀ m, fGet t.me m = if m = num ∧ num ≠ 0 then false else fGet s.me m) ∧ t.me.p = s.me.p)) ∧
         (sGet s.me h ≠ 0 → SameScalars s.me t.me ∧
           t.me.susp = .twait (s.gcc + (sGet s.me h).toNat) mask watch pred num (coverMask s.me mask 0)) ∧
         (∀ n, sGet t.me n = sGet s.me n) ∧ SameFlow s.me t.me ∧ SameSpecial s.me t.me ∧ SameWaits s.me t.me ∧
         SameOthers s t ∧ SameOutside s t ∧ SameBytes s t) ∧
     (∀ pred num h mask watch, twaitMet s.me mask watch = true → owesWait s (coverMask s.me mask 0) = false →
       waitaTrap s.me (coverMask s.me mask 0) = none →
       ∃ t, exec (.twait g pred num h mask watch) s = .next t ∧ t.me.watchHit = false ∧
         t.me.susp = .waita (coverMask s.me mask 0) ∧
         (if pred then (∀ m, pGet t.me m = if m = num then BitVec.allOnes 128 else pGet s.me m) ∧ t.me.f = s.me.f
          else (∀ m, fGet t.me m = if m = num then true else fGet s.me m) ∧ t.me.p = s.me.p) ∧
         (∀ n, sGet t.me n = sGet s.me n) ∧ SameFlow s.me t.me ∧ SameSpecial s.me t.me ∧ SameOthers s t ∧
         SameOutside s t ∧ SameBytes s t)) ∧
  (∀ (w : Warp) (mask : Byte) (i : Nat),
     i ∈ coverMask w mask 0 ↔ ∃ r ∈ w.results, r.rid = i ∧ mask.getLsbD r.ctr.toNat = true)

/-- R185, R70: a warp that may arrive at a barrier is counted in its generation and, unless it only arrives, its entry
waits; then the generation ends if its count is reached. A warp that may not arrive takes a barrier fault (R280 for an
arrival-handler warp); that a trap-handler warp takes it, and that a firmware warp of no group has barriers of its own, is the
model's choice (log entries 26 and 40).
R185: a generation whose count is not reached stands; one whose count is reached ends, and its barrier is as before the
first arrival.
R187, R324: a declaration for the phase after the last one, on a core of the tree, sets the count that its core expects, with
the arrivals that have come for it and the release point behind which the core's line stands; any other declaration is a barrier
fault. The line rises where that many arrivals have come and the release has performed, and not before. PHWAIT goes on where the
tree has released the phase, and else suspends the warp. -/
def Obligations.BarrierAndPhaseResults : Prop :=
  ((∀ (s : State) (g : Guard) (b : SSrc) (num : BitVec 4) (arrive quad : Bool), flagOn s.me g = true →
      s.me.region = none →
      let h := s.me.handle.toNat
      let i : Instr := if quad then .barq g b num arrive else .bar g b num arrive
      let old := barGet s quad h num.toNat
      let may := s.me.handlerOf = none ∧ s.me.wnum < 16 ∧ (quad = true → num.toNat < 4) ∧
        (old.expect = none ∨ old.expect = some (b.val s.me))
      (may → ∃ u, exec i s = .next (tryRelease u quad h num.toNat) ∧
        (barGet u quad h num.toNat).expect = some (b.val s.me) ∧
        (∀ x, x ∈ (barGet u quad h num.toNat).arrived ↔ x ∈ old.arrived ∨ x = (s.cur.core, s.cur.warp)) ∧
        (∀ x, x ∈ (barGet u quad h num.toNat).waits ↔
          x ∈ old.waits ∨ (arrive = false ∧ x = (s.cur.core, s.cur.warp, s.cur.mask))) ∧
        (∀ e ∈ u.me.entries, e.mask = s.cur.mask → arrive = false → e.wait = .barrier) ∧
        SameScalars s.me u.me ∧ SameBuffers s.me u.me ∧ SameSpecial s.me u.me ∧ SameOthers s u ∧ SameBytes s u) ∧
      (¬may → exec i s = .next (takeTrap s (.of .barrierFault)))) ∧
   (∀ (s : State) (quad : Bool) (h num e : Nat), barExpect s quad h (barGet s quad h num) = some e →
      (barCount s quad h (barGet s quad h num) < e → tryRelease s quad h num = s) ∧
      (e ≤ barCount s quad h (barGet s quad h num) → barGet (tryRelease s quad h num) quad h num = Bar.reset ∧
        SameButReserve s (tryRelease s quad h num) ∧ ∀ c w, SameScalars (s.warp c w) ((tryRelease s quad h num).warp c w)))) ∧
  (∀ (s : State) (g : Guard) (a : BitVec 7) (b : SSrc), flagOn s.me g = true →
     let tr := ((b.val s.me).extractLsb' 0 3).toNat
     let n := ((b.val s.me).extractLsb' 3 29).toNat
     let p := phaseOf s s.cur.core tr
     (n = p.last + 1 → s.cur.core ∈ treeCores s tr →
       ∃ t, exec (.phase g a b) s = .next t ∧ (phaseOf t s.cur.core tr).last = n ∧
         (phaseOf t s.cur.core tr).declared = some (sGet s.me a).toNat ∧ (phaseOf t s.cur.core tr).raised = false ∧
         (phaseOf t s.cur.core tr).cur = (if p.current = n then p.cur else p.nxt).take (sGet s.me a).toNat ∧
         (phaseOf t s.cur.core tr).rel = some s.nextId ∧
         SameBytes s t ∧ ∀ c w, SameScalars (s.warp c w) (t.warp c w) ∧ SameSpecial (s.warp c w) (t.warp c w)) ∧
     (¬(n = p.last + 1 ∧ s.cur.core ∈ treeCores s tr) → exec (.phase g a b) s = .next (takeTrap s (.of .barrierFault))) ∧
     (s.me.region = none → s.me.susp = .none →
       ∃ t, exec (.phwait g b) s = .next t ∧ t.cur.switch = true ∧
         t.me.susp = (if n ≤ tget 0 s.sched.released tr then .none else .phwait tr n) ∧
         SameScalars s.me t.me ∧ SameFlow s.me t.me ∧ SameSpecial s.me t.me ∧ SameOthers s t ∧ SameBytes s t)) ∧
  (∀ (s : State) (c tr n : Nat), (phaseOf s c tr).declared = some n → (phaseOf s c tr).raised = false →
     let up := n ≤ (phaseOf s c tr).cur.length ∧ ∀ i, (phaseOf s c tr).rel = some i → getReq s i = none
     (up → (phaseOf (tryRaise s c tr) c tr).raised = true) ∧ (¬up → tryRaise s c tr = s))

/-! ## Traps and the system instructions (R253 to R265, R373 to R381) -/

/-- R374, R375, R377, R381: a trap of a warp that no handler runs on, with a cause that captures the warp, writes the record
of what trapped and captures the warp at its bundle with its frontier kept and, where the bundle was not delayed, its registers
and pending writes; any trap of a trap-handler warp is a double fault that keeps the first cause as its subcode. The record's cycle
is the one at which the bundle began to issue before any delay; its warp number is 0xFF in a warp of no group. -/
def Obligations.TrapCapturesTheWarp : Prop :=
  ∀ (s : State) (tr : Trap), (s.me.handlerOf.isSome ∨ tr.cause.disp s.me.level ≠ .g) →
    let t := takeTrap s tr
    ∃ r, t.me.status = .captured r ∧ r.pc = s.cur.pc ∧ r.faddr = tr.faddr ∧ r.lanes = tr.lanes ∧ r.ak = tr.ak ∧
      r.core = s.cur.core ∧ r.slot = s.cur.slot.num ∧ r.gcc = s.me.began s.gcc ∧
      r.warp = (if s.me.handlerOf = none ∧ s.me.handle = noGroup then 0xFF else s.me.wnum) ∧
      (s.me.handlerOf = none → r.code = tr.cause ∧ r.sub = tr.sub ∧ r.handle = s.me.handle) ∧
      (s.me.handlerOf.isSome → r.code = .doubleFault ∧ r.sub = tr.cause.code ∧ r.handle = 0xFFFFFFFF) ∧
      t.me.ready = none ∧ t.me.region = none ∧ t.me.broken = (s.me.broken || s.me.region.isSome) ∧ t.me.entries = s.me.entries ∧
      t.me.loops = s.me.loops ∧ t.me.map = s.me.map ∧ SameSpecial s.me t.me ∧
      (t.core s.cur.core).current ≠ some s.cur.warp ∧ (∀ c w, (c, w) ≠ (s.cur.core, s.cur.warp) → t.warp c w = s.warp c w) ∧
      SameOutside s t ∧ SameBytes s t ∧
      (s.me.delay = none → s.me.drain = false → SameScalars s.me t.me ∧ SameBuffers s.me t.me ∧ SameOthers s t ∧
        t.myCore.pw.map (·.wr) = s.myCore.pw.map (·.wr))

/-- R373, R370: a fetch fault, a translation fault or a watchdog trap of a warp of a resident group stops the warp, and every
resident group of its quad group is to leave, with that cause. -/
def Obligations.TrapLetsTheQuadGroupLeave : Prop :=
  ∀ (s : State) (tr : Trap), s.me.handlerOf = none → tr.cause.disp s.me.level = .g →
    (tget? s.sched.groups s.me.handle.toNat).isSome →
    let t := takeTrap s tr
    t.me.status = .stopped ∧ t.me.entries = s.me.entries ∧
    (∀ h ∈ quadGroup s s.me.handle.toNat, (s.group h).status = .resident →
      (t.group h).status = .leaving ∧ (t.group h).cause = some tr.cause) ∧
    (s.me.handle.toNat ∈ quadGroup s s.me.handle.toNat → (s.myGroup).status = .resident →
      ∃ r, (t.group s.me.handle.toNat).record = some r ∧ r.code = tr.cause ∧ r.sub = tr.sub ∧ r.pc = s.cur.pc) ∧
    (s.me.delay = none → s.me.drain = false → SameScalars s.me t.me ∧ SameOthers s t) ∧ SameBytes s t

/-- R260: TRAP and SYS with a code of 8 bits take their trap after their bundle: the code is the subcode and the resume
address is the next bundle; any other code is an illegal operand.
R261: ERET takes every entry of its warp out of the frontier and marks the warp to end; it writes no register. -/
def Obligations.SoftwareTrapAndEretResults : Prop :=
  (∀ (s : State) (g : Guard) (b : SSrc), flagOn s.me g = true →
     let v := b.val s.me
     (v.toNat < 256 →
       exec (.trap g b) s =
         .next (takeTrapAt { s with cur := { s.cur with after := none } } ⟨.softwareTrap, v.toNat, 0, 0, 0xFF, []⟩ 0 s.cur.nextPc) ∧
       exec (.sys g b) s =
         .next (takeTrapAt { s with cur := { s.cur with after := none } } ⟨.supervisorCall, v.toNat, 0, 0, 0xFF, []⟩ 0 s.cur.nextPc)) ∧
     (256 ≤ v.toNat → s.cur.after = none →
       exec (.trap g b) s = .next (takeTrap s (.of .illegalOperand)) ∧
       exec (.sys g b) s = .next (takeTrap s (.of .illegalOperand)))) ∧
  (∀ (s : State) (g : Guard), flagOn s.me g = true →
     ∃ t, exec (.eret g) s = .next t ∧ t.me.entries = [] ∧ t.me.spilled = [] ∧ t.me.eret = true ∧ t.cur.exited = true ∧
       SameScalars s.me t.me ∧ SameBuffers s.me t.me ∧ SameSpecial s.me t.me ∧ t.me.status = s.me.status ∧
       SameOthers s t ∧ SameBytes s t)

/-- R262, R5: CTLR of an assigned register that the level may read queues its value. CTLW of one that the level may write
makes the write; a rounding mode above 4 is an illegal operand.
R5, R262, R379, R461: which registers a level may read and write: U reads the registers with a field that is not P
and writes those without any P field; S everything but what is kept for F; F everything. A number that is not assigned, or one in
a register with bits above bit 11, is an illegal operand. -/
def Obligations.ControlRegisterMoves : Prop :=
  (∀ (s : State) (g : Guard) (d a : BitVec 7) (b : SSrc) (n : Nat), flagOn s.me g = true → ctlNumber s b = some n →
     n ∈ ctlAssigned →
     (ctlAllowed s.me.level false n = true → exec (.ctlr g d b) s = .next (pendS s 1 d (ctlRead (besideControl s s) n)) ∧
       (s.cur.control = false → besideControl s s = s)) ∧
     (ctlAllowed s.me.level true n = true → (n = 0 → (sGet s.me a).toNat % 8 ≤ 4) →
       exec (.ctlw g a b) s = .next (ctlWrite s n (sGet s.me a))) ∧
     (ctlAllowed s.me.level false n = false → exec (.ctlr g d b) s = .next (takeTrap s (.of .privilegeViolation))) ∧
     (ctlAllowed s.me.level true n = false → exec (.ctlw g a b) s = .next (takeTrap s (.of .privilegeViolation)))) ∧
  ((∀ n ∈ ctlAssigned, ctlAllowed .f true n = true ∧ ctlAllowed .f false n = true ∧
     (ctlAllowed .s true n = true ↔ ¬(n ∈ [0x44, 0x45, 0x46, 0x4A, 0x4B] ∨ (0x90 ≤ n ∧ n ≤ 0x96))) ∧
     (ctlAllowed .u true n = true ↔ n < 8) ∧ (ctlAllowed .u false n = true ↔ n < 8 ∨ n = 0x10 ∨ n = 0x43)) ∧
   ∀ (s : State) (g : Guard) (d a : BitVec 7) (b : SSrc), flagOn s.me g = true →
     (ctlNumber s b = none ∨ ∃ n, ctlNumber s b = some n ∧ n ∉ ctlAssigned) →
     exec (.ctlr g d b) s = .next (takeTrap s (.of .illegalOperand)) ∧
     exec (.ctlw g a b) s = .next (takeTrap s (.of .illegalOperand)))

/-- R5, R82, R87, R183, R379, R389, R391, R457: what a write of a control register leaves to be read, and that W1C fields
clear where a 1 is written. -/
def Obligations.ControlRegisterWrites : Prop :=
  ∀ (s : State) (v : Word),
    (ctlWrite s 0x00 v).me.fmode = v &&& 0xF7 ∧ (ctlWrite s 0x01 v).me.fexc = s.me.fexc &&& ~~~(v &&& 0x1F) ∧
    (ctlWrite s 0x04 v).myCore.wakewhy = s.myCore.wakewhy &&& ~~~(v.setWidth 8) ∧ (ctlWrite s 0x05 v).me.stretch = v ∧
    (∀ n, n ∈ [0x41, 0x44, 0x48, 0x4A, 0x50] → ctlRead (ctlWrite s n v) n = v &&& 0xFFFFFFC0) ∧
    (∀ n, n ∈ [0x42, 0x45, 0x49, 0x4B, 0x51, 0x53] → ctlRead (ctlWrite s n v) n = v &&& 0x01FFFFFF) ∧
    ctlRead (ctlWrite s 0x52 v) 0x52 = v &&& 0xFFFF0000 ∧
    (ctlWrite s 0x43 v).rg.ringsc = (s.rg.ringsc &&& 0xFFFF0000) ||| (v &&& 0xFF1F) ∧
    (ctlWrite s 0x46 v).rg.ringfc = (s.rg.ringfc &&& 0xFFFF0000) ||| (v &&& 0xFF1F) ∧
    (ctlWrite s 0x95 v).pt.pmWake = s.pt.pmWake &&& ~~~v ∧
    (∀ n, n ∈ [0x02, 0x03, 0x06, 0x07, 0x40] → ctlWrite s n v = s) ∧
    (∀ n, n < 0x80 → n ≠ 0x10 → SameBytes s (ctlWrite s n v) ∧ ∀ c w, SameScalars (s.warp c w) ((ctlWrite s n v).warp c w))

/-- R256, R257, R263, R264: segment writes, pre-emption requests, the watchdog budget and the governor table; the writes
kept for S and F are privilege violations at U.
R264, R370: the status of a pre-emption request is 0 for a resident or waiting group, 1 for one that is not there and 2 for one
that leaves already. An accepted request lets the resident groups of the quad group leave, with pre-emption as their cause, and
notes the kill at the group; a waiting group waits on, and no warp, no other group and no byte changes. -/
def Obligations.SystemResults : Prop :=
  ∀ (s : State) (g : Guard) (d a : BitVec 7) (b : SSrc), flagOn s.me g = true →
    let i := (b.val s.me).toNat
    (∀ seg limit, ∃ t, exec (.segw g a seg limit) s = .next t ∧
      (∀ k, tget 0 t.me.segBase k = if limit = false ∧ k = seg.toNat then sPairGet s.me a else tget 0 s.me.segBase k) ∧
      (∀ k, tget 0 t.me.segLimit k = if limit = true ∧ k = seg.toNat then sPairGet s.me a else tget 0 s.me.segLimit k) ∧
      SameScalars s.me t.me ∧ SameBuffers s.me t.me ∧ SameFlow s.me t.me ∧ SameOthers s t ∧ SameOutside s t ∧ SameBytes s t) ∧
    (∀ kill, ∃ t, exec (.prmt g d a kill) s =
        .next (pendS t 8 d (BitVec.ofNat 32 (prmtStatus s (sGet s.me a).toNat))) ∧
      (prmtStatus s (sGet s.me a).toNat ≠ 0 → t = s) ∧
      (prmtStatus s (sGet s.me a).toNat = 0 → t = acceptPrmt s (sGet s.me a).toNat kill)) ∧
    (∀ h kill, let g := s.group h; let t := acceptPrmt s h kill
      (prmtStatus s h = match tget? s.sched.groups h with
        | none => 1
        | some g => if g.status = .resident ∨ g.status = .waiting then 0
          else if g.status = .leaving ∨ g.status = .held then 2 else 1) ∧
      (g.status = .resident → ∀ x ∈ quadGroup s h, (s.group x).status = .resident →
        (t.group x).status = .leaving ∧ (t.group x).cause = some .preemption) ∧
      (g.status ≠ .resident → (t.group h).status = g.status ∧ (t.group h).cause = g.cause) ∧
      (t.group h).kill = (g.kill || kill) ∧
      (∀ x, x ≠ h → (g.status ≠ .resident ∨ x ∉ quadGroup s h) → t.group x = s.group x) ∧
      (∀ c w, t.warp c w = s.warp c w) ∧ SameBytes s t) ∧
    exec (.wdogRd g d) s = .next (pendPair s 1 d (budgetOf s)) ∧
    exec (.wdogLower g a) s =
      .next (setBudget s (if (sPairGet s.me a).toNat < (budgetOf s).toNat then sPairGet s.me a else budgetOf s)) ∧
    (s.me.level ≠ .u → exec (.wdogSet g a) s = .next (setBudget s (sPairGet s.me a))) ∧
    (i < 64 → exec (.govr g d b) s = .next (pendS s 2 d (tget 0 s.fr.gov i))) ∧
    (i < 64 → i % 2 = 0 →
      exec (.govrP g d b) s = .next (pendPair s 2 d (tget 0 s.fr.gov (i + 1) ++ tget 0 s.fr.gov i))) ∧
    (i < 64 → s.me.level ≠ .u → ∃ t, exec (.govrW g a b) s = .next t ∧
      t.fr.govWrites = s.fr.govWrites ++ [(s.gcc + 160, i, [sGet s.me a])] ∧ t.fr.gov = s.fr.gov ∧
      (∀ c w, t.warp c w = s.warp c w) ∧ SameBytes s t) ∧
    (i < 64 → i % 2 = 0 → s.me.level ≠ .u → ∃ t, exec (.govrWp g a b) s = .next t ∧
      t.fr.govWrites = s.fr.govWrites ++ [(s.gcc + 160, i, [sGet s.me a, sGet s.me (a + 1)])] ∧ t.fr.gov = s.fr.gov ∧
      (∀ c w, t.warp c w = s.warp c w) ∧ SameBytes s t) ∧
    (s.me.level = .u →
      exec (.wdogSet g a) s = .next (takeTrap s (.of .privilegeViolation)) ∧
      (i < 64 → exec (.govrW g a b) s = .next (takeTrap s (.of .privilegeViolation))) ∧
      (i < 64 → i % 2 = 0 → exec (.govrWp g a b) s = .next (takeTrap s (.of .privilegeViolation)))) ∧
    (64 ≤ i → exec (.govr g d b) s = .next (takeTrap s (.of .illegalOperand)))

/-- R253, R254: a LAUNCH whose packets lie at addresses that may be read enqueues one child for each lane of its entry, in
ascending order, where its queue has room and no earlier LAUNCH waits for it, and queues their number; else its entry waits. That
a packet in a poisoned line launches nothing, and that a LAUNCH which waits keeps the packets it read, is the model's choice (log
entry 41).
R255, R287: a ROLE that its rule admits suspends the warp at its role with the arrival noted at the group, and the group
switches once every warp of it that has not exited has arrived. -/
def Obligations.LaunchAndRoleResults : Prop :=
  (∀ (s : State) (g : Guard) (d a : BitVec 7) (q : BitVec 2) (ls : List LaneReq), flagOn s.me g = true →
     s.me.region = none → (sPairGet s.me a).toNat % 64 = 0 →
     badTrap 0 ((lanesOf s.cur.mask).filterMap
       (fun l => checkAddr 64 none false l 0 (sPairGet s.me a + BitVec.ofNat 64 (64 * l)))) = none →
     translateLanes s .read 0 ((lanesOf s.cur.mask).map (fun l => (l, sPairGet s.me a + BitVec.ofNat 64 (64 * l)))) =
       .ok (.ok ls) →
     let r := childPackets (ls.map (·.pa)) s
     let free := childRoom s.myCore q.toNat s.cur.mask && (launchAhead s.myCore q.toNat).isNone
     r.2.length = ls.length ∧ (∀ b, some b ∈ r.2 → b.length = 64) ∧
     (∀ c w, SameScalars (s.warp c w) (r.1.warp c w) ∧ SameSpecial (s.warp c w) (r.1.warp c w)) ∧
     (free = true → exec (.launch g d a q) s =
       .next (pendS (enqueueChildren r.1 s.cur.core s.cur.warp q.toNat s.cur.mask (sPairGet s.me a) r.2) 1 d
         (BitVec.ofNat 32 (lanesOf s.cur.mask).length))) ∧
     (free = false → ∃ t, exec (.launch g d a q) s = .next t ∧
       t.myCore.launchq = s.myCore.launchq ++ [⟨s.cur.warp, s.cur.mask, d, sPairGet s.me a, q.toNat, r.2⟩] ∧
       t.myCore.childq = s.myCore.childq ∧ (∀ e ∈ t.me.entries, e.mask = s.cur.mask → e.wait = .launch) ∧
       SameScalars s.me t.me ∧ SameSpecial s.me t.me ∧ SameOthers r.1 t ∧ SameOutside r.1 t ∧ SameBytes r.1 t)) ∧
  (∀ (s : State) (g : Guard) (b : SSrc), flagOn s.me g = true → s.me.region = none → s.me.handlerOf = none →
     s.me.wnum < 16 → s.me.susp = .none → (b.val s.me).toNat < s.myGroup.roles.length → s.me.loops = [] →
     transferPending s.me = false → s.me.entries.length + s.me.spilled.length ≤ 1 →
     (∀ x ∈ s.myGroup.arrivedRole, x.1 = s.me.wnum ∨ x.2 = (b.val s.me).toNat) →
     ∃ u, exec (.role g b) s = .next (tryRole u s.me.handle.toNat) ∧ u.me.susp = .role (b.val s.me).toNat ∧
       tget? (u.myGroup).arrivedRole s.me.wnum = some (b.val s.me).toNat ∧ u.myGroup.role = s.myGroup.role ∧
       SameScalars s.me u.me ∧ SameFlow s.me u.me ∧ SameSpecial s.me u.me ∧ SameOthers s u ∧ SameBytes s u)

/-! ## Vector instructions (R129 to R159) -/

/-- R62 to R64: what the reads, releases and bindings of an instruction leave: a name it marks dead and does not bind is
unbound, each destination is bound, to zero where it was not bound before, and every other name, of this warp and of every
other, reads as before. Nothing else changes. -/
def Obligations.BindingFrame : Prop :=
  ∀ (i : Instr) (s s1 : State), prep i s = .ok s1 →
    (∀ d ∈ (foot i).dsts, (tget? s1.me.map d.toNat).isSome) ∧
    (∀ d ∈ (foot i).dsts, (tget? s.me.map d.toNat = none ∨ d ∈ (foot i).dead) → vGet s1.myCore s1.me d = VReg.zero) ∧
    (∀ n, n ∉ (foot i).dsts → tget? s1.me.map n.toNat = if n ∈ (foot i).dead then none else tget? s.me.map n.toNat) ∧
    (∀ n, n ∉ (foot i).dsts → n ∉ (foot i).dead → vGet s1.myCore s1.me n = vGet s.myCore s.me n) ∧
    (∀ d ∈ (foot i).dsts, d ∉ (foot i).dead → tget? s.me.map d.toNat ≠ none →
      vGet s1.myCore s1.me d = vGet s.myCore s.me d) ∧
    SameScalars s.me s1.me ∧ SameBuffers s.me s1.me ∧ SameFlow s.me s1.me ∧ SameSpecial s.me s1.me ∧ SameWaits s.me s1.me ∧
    SameOthers s s1 ∧
    SameOutside s s1 ∧ SameBytes s s1 ∧ s1.cur = s.cur ∧ ∀ c, (s1.core c).pw = (s.core c).pw

/-- R141 to R143, R150, R132: an integer or bit instruction of two sources that acts queues, in its active lanes, its
function of the lanes of its sources, and a lane's poison where either source is poisoned. -/
def Obligations.VectorIntegerResults : Prop :=
  ∀ (s s1 : State) (o : V2), (srcVal s immInt o.a).full → (srcVal s immInt o.b).full →
    let go (i : Instr) (lat : Nat) (f : Word → Word → Word) : Prop := Ready i s s1 →
      ∃ v, exec i s = .next (writeVec s1 lat o.d o.kc o.ki (activeMask s o.p) v) ∧
        Lanes2 (srcVal s immInt o.a) (srcVal s immInt o.b) v f
    go (.vadd o) 2 (fun a b => a + b) ∧ go (.vsub o) 2 (fun a b => a - b) ∧ go (.vmul o) 2 (fun a b => a * b) ∧
    go (.vmulh o false) 2 (fun a b => BitVec.ofInt 32 (a.toInt * b.toInt / 2 ^ 32)) ∧
    go (.vmulh o true) 2 (fun a b => BitVec.ofNat 32 (a.toNat * b.toNat / 2 ^ 32)) ∧
    go (.vmin o false) 2 (fun a b => if a.toInt ≤ b.toInt then a else b) ∧
    go (.vmin o true) 2 (fun a b => if a.toNat ≤ b.toNat then a else b) ∧
    go (.vmax o false) 2 (fun a b => if b.toInt ≤ a.toInt then a else b) ∧
    go (.vmax o true) 2 (fun a b => if b.toNat ≤ a.toNat then a else b) ∧
    go (.vand o) 2 (fun a b => a &&& b) ∧ go (.vor o) 2 (fun a b => a ||| b) ∧ go (.vxor o) 2 (fun a b => a ^^^ b) ∧
    go (.vandn o) 2 (fun a b => a &&& ~~~b) ∧ go (.vshl o) 2 (fun a b => a <<< b.toNat) ∧
    go (.vshr o) 2 (fun a b => a >>> b.toNat) ∧ go (.vshra o) 2 (fun a b => a.sshiftRight b.toNat) ∧
    (∀ uns, go (.vbfx o uns) 2 (fun a b => bfxWord (fieldWidth o.b b) (!uns) a b)) ∧
    go (.pack o) 3 (fun a b => b.setWidth 16 ++ a.setWidth 16)

/-- R141, R142, R144, R145, R150, R153: instructions of one source, selection by the predicate over the mask of the entry, and
the forms that accumulate into their destination.
R146, R138, R131: a compare queues the active lanes of its predicate, which carry no poison. -/
def Obligations.VectorUnaryAccumulateAndCompareResults : Prop :=
  ((∀ (s s1 : State) (o : V1), (srcVal s immInt o.a).full →
     let go (i : Instr) (lat : Nat) (f : Word → Word) : Prop := Ready i s s1 →
       ∃ v, exec i s = .next (writeVec s1 lat o.d o.kc o.ki (activeMask s o.p) v) ∧ Lanes1 (srcVal s immInt o.a) v f
     go (.vabs o) 2 (fun a => if a.toInt < 0 then 0 - a else a) ∧ go (.vmov o) 2 (fun a => a) ∧
     go (.vpopc o) 2 (fun a => BitVec.ofNat 32 ((List.range 32).countP (fun i => a.getLsbD i))) ∧ go (.vclz o) 2 clzWord ∧
     (∀ n, go (.unpk o true false n) 3 (fun a => (a.extractLsb' (8 * n.toNat) 8).signExtend 32)) ∧
     (∀ n, go (.unpk o false false n) 3 (fun a => (a.extractLsb' (8 * n.toNat) 8).setWidth 32)) ∧
     (∀ n, n.toNat < 2 → go (.unpk o true true n) 3 (fun a => (a.extractLsb' (16 * n.toNat) 16).signExtend 32)) ∧
     (∀ n, n.toNat < 2 → go (.unpk o false true n) 3 (fun a => (a.extractLsb' (16 * n.toNat) 16).setWidth 32))) ∧
   (∀ (s s1 : State) (o : V2), Ready (.vsel o) s s1 → (srcVal s immInt o.a).full → (srcVal s immInt o.b).full →
     ∃ v, exec (.vsel o) s = .next (writeVec s1 2 o.d o.kc o.ki s.cur.mask v) ∧ ∀ l, l < 128 →
       v.lane l = (if (predMask s.me o.p).getLsbD l then srcVal s immInt o.a else srcVal s immInt o.b).lane l ∧
       v.poison.getLsbD l = (if (predMask s.me o.p).getLsbD l then srcVal s immInt o.a else srcVal s immInt o.b).poison.getLsbD l) ∧
   (∀ (s s1 : State) (o : VAcc), (srcVal s immInt o.a).full → (srcVal s immInt o.b).full → (srcVal s immInt (.v o.d)).full →
     let go (i : Instr) (lat : Nat) (f : Word → Word → Word → Word) : Prop := Ready i s s1 →
       ∃ v, exec i s = .next (writeVec s1 lat (.v o.d) o.kc o.ki (activeMask s o.p) v) ∧
         Lanes3 (srcVal s immInt o.a) (srcVal s immInt o.b) (srcVal s immInt (.v o.d)) v f
     let sum (g : BitVec 8 → Int) (a b : Word) : Int :=
       g (a.extractLsb' 0 8) * g (b.extractLsb' 0 8) + g (a.extractLsb' 8 8) * g (b.extractLsb' 8 8) +
       g (a.extractLsb' 16 8) * g (b.extractLsb' 16 8) + g (a.extractLsb' 24 8) * g (b.extractLsb' 24 8)
     go (.vmad o) 2 (fun a b c => a * b + c) ∧ go (.vbfi o) 2 (fun a b c => bfiWord (fieldWidth o.b b) a b c) ∧
     go (.vdot4 o false) 4 (fun a b c => BitVec.ofInt 32 (c.toInt + sum BitVec.toInt a b)) ∧
     go (.vdot4 o true) 4 (fun a b c => BitVec.ofInt 32 (c.toInt + sum (fun x => (x.toNat : Int)) a b)))) ∧
  (∀ (s s1 : State) (o : VCmp),
     (∀ c, Ready (.vcmp o c) s s1 → (srcVal s immInt o.a).full → (srcVal s immInt o.b).full →
       ∃ v, exec (.vcmp o c) s = .next (pend s1 2 (.pred o.pd (activeMask s o.p) v)) ∧
         ∀ l, l < 128 → v.getLsbD l = c.test ((srcVal s immInt o.a).lane l) ((srcVal s immInt o.b).lane l)) ∧
     (∀ c, Ready (.fcmp o c) s s1 → (srcVal s immF32 o.a).full → (srcVal s immF32 o.b).full →
       let r (l : Nat) : Bool × Fx :=
         fCmp c (fmodeOf s) ((srcVal s immF32 o.a).lane l).toNat ((srcVal s immF32 o.b).lane l).toNat
       ∃ v fx, exec (.fcmp o c) s = .next (raiseFx (pend s1 2 (.pred o.pd (activeMask s o.p) v)) fx) ∧
         (∀ l, l < 128 → v.getLsbD l = (r l).1) ∧ RaisedBy (activeMask s o.p) (fun l => (r l).2) fx))

/-- R134, R135, R139, R87: floating-point instructions of two sources complete through the operation of their name (fAdd, fSub, fMul,
fMinMax, fFma and fDot2, which Float.lean defines): they queue, in the active lanes, what it gives under the rounding mode as it
stands at issue, and set at issue the flags that active lanes raise.
R134, R139, R140, R130, R59: the fused forms read their addend from the destination, FFMAK from an operand-cache entry. -/
def Obligations.FloatingPointResults : Prop :=
  (∀ (s s1 : State) (o : V2),
     let go (i : Instr) (imm : Byte → Word) (f : FMode → Nat → Nat → Nat × Fx) : Prop :=
       Ready i s s1 → (srcVal s imm o.a).full → (srcVal s imm o.b).full →
       let r (l : Nat) : Nat × Fx := f (fmodeOf s) ((srcVal s imm o.a).lane l).toNat ((srcVal s imm o.b).lane l).toNat
       ∃ v fx, exec i s = .next (raiseFx (writeVec s1 4 o.d o.kc o.ki (activeMask s o.p) v) fx) ∧
         (∀ l, l < 128 → v.lane l = BitVec.ofNat 32 (r l).1) ∧
         v.poison = (srcVal s imm o.a).poison ||| (srcVal s imm o.b).poison ∧ RaisedBy (activeMask s o.p) (fun l => (r l).2) fx
     go (.fadd o) immF32 (fAdd .f32) ∧ go (.fsub o) immF32 (fSub .f32) ∧ go (.fmul o) immF32 (fMul .f32) ∧
     go (.fmin o) immF32 (fMinMax .f32 false) ∧ go (.fmax o) immF32 (fMinMax .f32 true) ∧
     (∀ h : Half, go (.hadd2 o h) (immHalf h.fmt) (fun md => onHalves2 (fAdd h.fmt md)) ∧
       go (.hmul2 o h) (immHalf h.fmt) (fun md => onHalves2 (fMul h.fmt md)))) ∧
  (∀ (s s1 : State) (o : VAcc) (u : V2),
     let go (i : Instr) (imm : Byte → Word) (f : FMode → Nat → Nat → Nat → Nat × Fx) (p : Guard) (d a b c : Spec) (kc : Bool)
         (ki : BitVec 3) : Prop :=
       Ready i s s1 → (srcVal s imm a).full → (srcVal s imm b).full → (srcVal s imm c).full →
       let r (l : Nat) : Nat × Fx := f (fmodeOf s) ((srcVal s imm a).lane l).toNat ((srcVal s imm b).lane l).toNat
         ((srcVal s imm c).lane l).toNat
       ∃ v fx, exec i s = .next (raiseFx (writeVec s1 4 d kc ki (activeMask s p) v) fx) ∧
         (∀ l, l < 128 → v.lane l = BitVec.ofNat 32 (r l).1) ∧
         v.poison = (srcVal s imm a).poison ||| (srcVal s imm b).poison ||| (srcVal s imm c).poison ∧
         RaisedBy (activeMask s p) (fun l => (r l).2) fx
     go (.ffma o) immF32 (fFma .f32) o.p (.v o.d) o.a o.b (.v o.d) o.kc o.ki ∧
     go (.ffmak u) immF32 (fFma .f32) u.p u.d u.a u.b (.k u.ki) u.kc u.ki ∧
     (∀ h : Half, go (.hfma2 o h) (immHalf h.fmt) (fun md => onHalves3 (fFma h.fmt md)) o.p (.v o.d) o.a o.b (.v o.d) o.kc o.ki ∧
       go (.hdot2 o h) (immHalf h.fmt) (fDot2 h.fmt) o.p (.v o.d) o.a o.b (.v o.d) o.kc o.ki))

/-- R136, R137, R154, R155: classification, rounding to an integer, and the special functions, whose exact form lands after 12
cycles and whose approximate form after 6.
R155, R96: the special cases of the special functions: the results at zeros, infinities and 1, and where a source has no real
result. -/
def Obligations.FloatUnaryAndSpecialResults : Prop :=
  (∀ (s s1 : State) (o : V1), (srcVal s immF32 o.a).full →
     let go (i : Instr) (lat : Nat) (f : FMode → Nat → Nat × Fx) : Prop := Ready i s s1 →
       let r (l : Nat) : Nat × Fx := f (fmodeOf s) ((srcVal s immF32 o.a).lane l).toNat
       ∃ v fx, exec i s = .next (raiseFx (writeVec s1 lat o.d o.kc o.ki (activeMask s o.p) v) fx) ∧
         (∀ l, l < 128 → v.lane l = BitVec.ofNat 32 (r l).1) ∧ v.poison = (srcVal s immF32 o.a).poison ∧
         RaisedBy (activeMask s o.p) (fun l => (r l).2) fx
     (Ready (.fclass o) s s1 → ∃ v, exec (.fclass o) s = .next (writeVec s1 2 o.d o.kc o.ki (activeMask s o.p) v) ∧
       Lanes1 (srcVal s immF32 o.a) v (fun x => fClass x.toNat)) ∧
     (∀ m, go (.frnd o m) 4 (fun md x => fRnd md (m.rm md) x)) ∧
     go (.rcp o) 12 (SF.rcp.apply false) ∧ go (.rsq o) 12 (SF.rsq.apply false) ∧ go (.sqrt o) 12 (SF.sqrt.apply false) ∧
     go (.exp2 o) 12 (SF.exp2.apply false) ∧ go (.log2 o) 12 (SF.log2.apply false) ∧ go (.sin o) 12 (SF.sin.apply false) ∧
     go (.cos o) 12 (SF.cos.apply false) ∧ go (.tanh o) 12 (SF.tanh.apply false) ∧ go (.rcpA o) 6 (SF.rcp.apply true) ∧
     go (.rsqA o) 6 (SF.rsq.apply true) ∧ go (.sqrtA o) 6 (SF.sqrt.apply true) ∧ go (.exp2A o) 6 (SF.exp2.apply true) ∧
     go (.log2A o) 6 (SF.log2.apply true) ∧ go (.sinA o) 6 (SF.sin.apply true) ∧ go (.cosA o) 6 (SF.cos.apply true) ∧
     go (.tanhA o) 6 (SF.tanh.apply true)) ∧
  (∀ (md : FMode) (appr : Bool),
     SF.rcp.apply appr md 0 = (0x7F800000, Fx.dz) ∧ SF.rcp.apply appr md 0x80000000 = (0xFF800000, Fx.dz) ∧
     SF.rcp.apply appr md 0x7F800000 = (0, 0) ∧ SF.rcp.apply appr md 0xFF800000 = (0x80000000, 0) ∧
     SF.rsq.apply appr md 0 = (0x7F800000, Fx.dz) ∧ SF.rsq.apply appr md 0x7F800000 = (0, 0) ∧
     SF.rsq.apply appr md 0xBF800000 = (0x7FC00000, Fx.nv) ∧ SF.sqrt.apply appr md 0xBF800000 = (0x7FC00000, Fx.nv) ∧
     SF.sqrt.apply appr md 0x80000000 = (0x80000000, 0) ∧ SF.sqrt.apply appr md 0x7F800000 = (0x7F800000, 0) ∧
     SF.exp2.apply appr md 0 = (0x3F800000, 0) ∧ SF.exp2.apply appr md 0x7F800000 = (0x7F800000, 0) ∧
     SF.exp2.apply appr md 0xFF800000 = (0, 0) ∧ SF.log2.apply appr md 0 = (0xFF800000, Fx.dz) ∧
     SF.log2.apply appr md 0x3F800000 = (0, 0) ∧ SF.log2.apply appr md 0xBF800000 = (0x7FC00000, Fx.nv) ∧
     SF.sin.apply appr md 0x80000000 = (0x80000000, 0) ∧ SF.sin.apply appr md 0x7F800000 = (0x7FC00000, Fx.nv) ∧
     SF.cos.apply appr md 0 = (0x3F800000, 0) ∧ SF.tanh.apply appr md 0xFF800000 = (0xBF800000, 0))

/-- R147 to R149, R88, R90: conversions queue the conversion of each active lane; under stochastic rounding an active lane whose
value does not fit draws once, and no other lane draws; that a value which fits the precision of its target and exceeds its range
takes no draw is the model's choice (log entry 103). CVTMX and CVTXM change the layout of whole blocks. What an immediate
supplies to CVTXM is open: there the model takes a free value (log entry 97). -/
def Obligations.ConversionResults : Prop :=
  ∀ (s s1 : State) (o : V1) (rmo : Rmo),
    let m := activeMask s o.p
    let md := fmodeOf s
    let rm := rmo.rm md
    let draws (c : Nat → Conv) (l : Nat) : Bool := m.getLsbD l && rm == .sr && (c l).draws
    let value (c : Nat → Conv) (l : Nat) : Nat × Fx :=
      (c l).val (if draws c l then noiseOut (noiseNext (noiseGet s1.me l)) else 0)
    let drawn (c : Nat → Conv) (w : Warp) : Prop := w = { s1.me with noise := w.noise } ∧ ∀ l, l < 128 →
      noiseGet w l = if draws c l then noiseNext (noiseGet s1.me l) else noiseGet s1.me l
    (∀ sf df sp, Ready (.cvt o sf df rmo sp) s s1 → (srcVal s (cvtImm sf) o.a).full →
      let c (l : Nat) : Conv := cvtElem sf df md rm
        (widenSub sf (((srcVal s (cvtImm sf) o.a).lane l).toNat / 2 ^ (sf.width * sp.toNat) % 2 ^ sf.width))
      ∃ v fx w, exec (.cvt o sf df rmo sp) s = .next (raiseFx (writeVec (s1.updMe (fun _ => w)) 3 o.d o.kc o.ki m v) fx) ∧
        (∀ l, l < 128 → v.lane l = BitVec.ofNat 32 (value c l).1) ∧ v.poison = (srcVal s (cvtImm sf) o.a).poison ∧
        RaisedBy m (fun l => (value c l).2) fx ∧ drawn c w) ∧
    (∀ ef, Ready (.cvtxm o ef rmo) s s1 →
      let c := mxUnpack ef.fmt md rm (srcVal s (Config.mxImm ef.code.toNat) o.a)
      ∃ v fx w, exec (.cvtxm o ef rmo) s = .next (raiseFx (writeVec (s1.updMe (fun _ => w)) 8 o.d o.kc o.ki m v) fx) ∧
        (∀ l, l < 128 → v.lane l = BitVec.ofNat 32 (value c l).1) ∧ RaisedBy m (fun l => (value c l).2) fx ∧ drawn c w) ∧
    (∀ ef, Ready (.cvtmx o ef rmo) s s1 →
      let x (l : Nat) : FVal := if m.getLsbD l then decodeF .f32 (finCode .f32 md.fzi ((srcVal s immF32 o.a).lane l).toNat)
        else .num false 0 0
      let sc (j : Nat) : Nat := mxScale ef.emax ((List.range 32).map (fun i => x (32 * j + i)))
      let c (k : Nat) : Conv := mxElem ef.fmt md rm (sc (k / 32)) (x k)
      ∃ v fx w, exec (.cvtmx o ef rmo) s = .next (raiseFx (writeVec (s1.updMe (fun _ => w)) 8 o.d o.kc o.ki m v) fx) ∧
        (∀ l, l < 128 → v.lane l = BitVec.ofNat 32
          (mxLane ef.fmt ((List.range 128).map (fun k => (value c k).1)) ((List.range 4).map sc) l)) ∧
        (∀ j, fx.getLsbD j = true ↔ ∃ k, k < 128 ∧ (value c k).2.getLsbD j = true) ∧ drawn c w)

/-- R151: PERM, VLANE and XSH take each result lane, with its poison, from a lane of the source, active or not.
R152, R89, R153, R82: VRAND draws once in each active lane; MODE changes the fields of its mask and traps on a rounding
mode of 5 to 7. -/
def Obligations.LaneMoveNoiseAndModeResults : Prop :=
  (∀ (s s1 : State),
     let moved (a v : VReg) (f : Nat → Nat) : Prop :=
       ∀ l, l < 128 → v.lane l = a.lane (f l) ∧ v.poison.getLsbD l = a.poison.getLsbD (f l)
     (∀ o : V2, Ready (.perm o) s s1 →
       ∃ v, exec (.perm o) s = .next (writeVec s1 4 o.d o.kc o.ki (activeMask s o.p) v) ∧
         moved (srcVal s immInt o.a) v (fun l => l / 16 * 16 + ((srcVal s immInt o.b).lane l).toNat % 16)) ∧
     (∀ (o : V1) (pat : VlanePat) (k : BitVec 4), Ready (.vlane o pat k) s s1 →
       ∃ v, exec (.vlane o pat k) s = .next (writeVec s1 4 o.d o.kc o.ki (activeMask s o.p) v) ∧
         moved (srcVal s immInt o.a) v (fun l => l / 16 * 16 + match pat with
           | .xor => (l % 16) ^^^ k.toNat | .add => (l % 16 + k.toNat) % 16 | .bcast => k.toNat | .rev => 15 - l % 16)) ∧
     (∀ (o : V1) (k : BitVec 3), Ready (.xsh o true k) s s1 →
       ∃ v, exec (.xsh o true k) s = .next (writeVec s1 8 o.d o.kc o.ki (activeMask s o.p) v) ∧
         moved (srcVal s immInt o.a) v (fun l => (l / 16 ^^^ k.toNat) * 16 + l % 16)) ∧
     (∀ (o : V1) (k : BitVec 3), Ready (.xsh o false k) s s1 →
       ∃ v, exec (.xsh o false k) s = .next (writeVec s1 8 o.d o.kc o.ki (activeMask s o.p) v) ∧
         moved (srcVal s immInt o.a) v (fun l => (l / 16 + k.toNat) % 8 * 16 + l % 16))) ∧
  ((∀ (s s1 : State) (o : V0), Ready (.vrand o) s s1 →
     ∃ t v, exec (.vrand o) s = .next t ∧ t.myCore.pw = (writeVec s1 2 o.d o.kc o.ki (activeMask s o.p) v).myCore.pw ∧
       (∀ l, l < 128 → (activeMask s o.p).getLsbD l = true →
         v.lane l = noiseOut (noiseNext (noiseGet s1.me l)) ∧ noiseGet t.me l = noiseNext (noiseGet s1.me l)) ∧
       (∀ l, (activeMask s o.p).getLsbD l = false → noiseGet t.me l = noiseGet s1.me l) ∧ v.poison = 0 ∧
       SameScalars s1.me t.me ∧ SameBuffers s1.me t.me ∧ SameFlow s1.me t.me ∧ t.me.fmode = s1.me.fmode ∧
       t.me.fexc = s1.me.fexc ∧ SameOthers s1 t ∧ SameOutside s1 t ∧ SameBytes s1 t) ∧
   (∀ (s : State) (p : Guard) (value mask : ImmOrS), p.never = false →
     let m := mask.val s.me &&& 0xF7
     let n := (s.me.fmode &&& ~~~m) ||| (value.val s.me &&& m)
     (n.toNat % 8 ≤ 4 → ∃ t, exec (.mode p value mask) s = .next t ∧ t.me.fmode = n ∧ t.me.fexc = s.me.fexc ∧
       SameScalars s.me t.me ∧ SameBuffers s.me t.me ∧ SameFlow s.me t.me ∧ SameOthers s t ∧ SameOutside s t ∧ SameBytes s t) ∧
     (5 ≤ n.toNat % 8 → exec (.mode p value mask) s = .next (takeTrap s (.of .illegalOperand)))))

/-- R93, R156 to R158: a reduction combines each segment of 2^W lanes in the fixed tree, inactive lanes counting as the
operation's identity and a NaN as the canonical one, with the old partial sum as the left operand when it accumulates; RDRN collects the segment results in the low lanes; RCLR
fills the active lanes. -/
def Obligations.ReductionResults : Prop :=
  ∀ (s s1 : State) (o : VRed),
    let go (i : Instr) (op : TreeOp) : Prop := Ready i s s1 →
      let a := srcVal s (if o.ty = .f32 then immF32 else immInt) o.a
      let f := treeCombine op o.ty
      let leaf (y : Word) : Word := if o.ty = .f32 ∧ (decodeF .f32 y.toNat).isNan then 0x7FC00000 else y
      let x (l : Nat) : Word := if (activeMask s o.p).getLsbD l then leaf (a.lane l) else treeIdentity op o.ty
      let r (l : Nat) : Word := treeOf f o.w.toNat x (l / 2 ^ o.w.toNat)
      a.full →
      ∃ v, exec i s = .next (pend s1 5 (.vec none (activeMask s o.p) v (some (8 + o.ps.toNat)) none)) ∧
        ∀ l, l < 128 → v.lane l = (if o.acc then f ((srcVal s immInt (.ps o.ps)).lane l) (r l) else r l) ∧
          (v.poison.getLsbD l = true ↔
            (∃ j, j / 2 ^ o.w.toNat = l / 2 ^ o.w.toNat ∧ j < 128 ∧ (activeMask s o.p).getLsbD j = true ∧
              a.poison.getLsbD j = true) ∨
            (o.acc = true ∧ (srcVal s immInt (.ps o.ps)).poison.getLsbD l = true))
    FillCode.zero.word = 0 ∧ FillCode.negzero.word = 0x80000000 ∧ FillCode.pinf.word = 0x7F800000 ∧
    FillCode.ninf.word = 0xFF800000 ∧ FillCode.imax.word = 0x7FFFFFFF ∧ FillCode.ones.word = 0xFFFFFFFF ∧
    go (.redAdd o) .add ∧ go (.redMin o) .min ∧ go (.redMax o) .max ∧
    (∀ p d ps w kc ki, Ready (.rdrn p d ps w kc ki) s s1 →
      ∃ v, exec (.rdrn p d ps w kc ki) s = .next (writeVec s1 2 d kc ki (activeMask s p) v) ∧
        ∀ l, l < 128 → v.lane l =
          if l * 2 ^ w.toNat < 128 then (srcVal s immInt (.ps ps)).lane (l * 2 ^ w.toNat) else 0) ∧
    (∀ p ps c, p.never = false → exec (.rclr p ps c) s = .next (pend s 5 (.vec none (activeMask s p)
      (.splat c.word) (some (8 + ps.toNat)) none)))

/-- The frame of the instructions on vectors: one that acts traps, or changes nothing after its bindings but the results
that are to land, the sticky flags, which only grow, the rounding mode (MODE alone) and the noise (draws alone). -/
def Obligations.VectorFrame : Prop :=
  ∀ (i : Instr) (s s1 t : State), isVector i = true → Ready i s s1 → exec i s = .next t →
    (∃ tr, t = takeTrap s tr) ∨
    (SameScalars s1.me t.me ∧ SameBuffers s1.me t.me ∧ SameFlow s1.me t.me ∧ SameWaits s1.me t.me ∧ t.me.map = s1.me.map ∧
      t.me.fexc &&& s1.me.fexc = s1.me.fexc ∧ ((∀ p v m, i ≠ .mode p v m) → t.me.fmode = s1.me.fmode) ∧
      t.me.q = s1.me.q ∧ t.me.mfmt = s1.me.mfmt ∧ t.me.segBase = s1.me.segBase ∧ t.me.segLimit = s1.me.segLimit ∧
      t.me.stretch = s1.me.stretch ∧ t.me.lseq = s1.me.lseq ∧ t.me.budget = s1.me.budget ∧
      (∀ c w, SameVectors s1 t c w) ∧ SameOthers s1 t ∧ SameOutside s1 t ∧ SameBytes s1 t)

/-! ## Scratchpad, semaphores, streams and timed transfers (R164, R186, R192, R193, R250 to R252) -/

/-- R164, R65, R68: an M-form load whose lanes pass their checks queues its result under the slot's latch, 6 cycles away (18 through
the window of the quad), to be filled by the access it makes; a store makes an access that writes each lane's
value at the address its lane computes. -/
def Obligations.ScratchpadIssueResults : Prop :=
  ∀ (s s1 : State) (o : MOps) (ls : List SpadLane),
    let m := activeMask s o.p
    (∀ t, Ready (.ldM t o) s s1 → spadLanes s m o.seg o.adr o.ofs.toInt t.bytes 0 = .ok ls →
      sigmaFault s (wordCount (wordRanks ls [])) = false →
      ∃ u n, exec (.ldM t o) s = .next u ∧ OnlyIssues s1 u ∧
        u.myCore.pw = s1.myCore.pw ++ [⟨s1.cur.warp, s1.cur.slot.num, if o.seg = sgq then 18 else 6, false, some s1.nextId, n,
          strictNow s1.me, false, .vec (match o.dat with | .v d => some (target s1 d) | _ => none) m .zero s1.cur.slot.latch none, none⟩] ∧
        (ls = [] → n = 0 ∧ u.myCore.accs = s1.myCore.accs) ∧
        (ls ≠ [] → o.seg ≠ sgq → n = 1 ∧ u.myCore.accs = s1.myCore.accs ++
          [⟨2, s1.cur.slot.num, s1.cur.core, s1.cur.warp, s1.gcc, .load s1.nextId t (ls.map (fun x => (x.lane, x.off))) true⟩])) ∧
    (∀ t, Ready (.stM t o) s s1 → spadLanes s m o.seg o.adr o.ofs.toInt t.bytes 1 = .ok ls →
      (srcVal s immInt o.dat).poison &&& m = 0 → sigmaFault s (wordCount (wordRanks ls [])) = false →
      ∃ u, exec (.stM t o) s = .next u ∧ OnlyIssues s1 u ∧ u.myCore.pw = s1.myCore.pw ∧
        (ls ≠ [] → o.seg ≠ sgq → u.myCore.accs = s1.myCore.accs ++
          [⟨2, s1.cur.slot.num, s1.cur.core, s1.cur.warp, s1.gcc,
            .store t.bytes (ls.map (fun x => (x.off, (srcVal s immInt o.dat).lane x.lane)))⟩])) ∧
    (∀ t, Ready (.stM t o) s s1 → spadLanes s m o.seg o.adr o.ofs.toInt t.bytes 1 = .ok ls →
      (srcVal s immInt o.dat).poison &&& m ≠ 0 →
      exec (.stM t o) s = .next (takeTrap s ⟨.poisonedData, 0, 0, (srcVal s immInt o.dat).poison &&& m, 1, []⟩))

/-- R164, R301: a store access performs by writing the low bytes of each value at its place, the value of a later lane over that of
an earlier one where they overlap; every other byte of every scratchpad, and all memory, reads as before.
R164, R301: a load access performs by reading the bytes of its lanes, extended to 32 bits, into those lanes of the pending write
that waits for them, whose other lanes stay; a poisoned word gives 0 and poison. Every other pending write of every core stays as
it is, and no scratchpad and no register is written. -/
def Obligations.ScratchpadAccessesPerform : Prop :=
  (∀ (s : State) (c n : Nat) (x : Access) (cells : List (Nat × Word)), x.kind = .store n cells →
     Memory.wf (s.core c).scratch = true →
     let t := performAccess s c x
     Memory.wf (t.core c).scratch = true ∧ t.ms = s.ms ∧
     (∀ d, d ≠ c → t.core d = s.core d) ∧
     (∀ a, (∀ y ∈ cells, a < y.1 ∨ y.1 + n ≤ a) → memGet (t.core c).scratch a = memGet (s.core c).scratch a) ∧
     (∀ l1 y l2 a, cells = l1 ++ y :: l2 → y.1 ≤ a → a < y.1 + n → (∀ z ∈ l2, a < z.1 ∨ z.1 + n ≤ a) →
       memGet (t.core c).scratch a = BitVec.ofNat 8 (y.2.toNat / 256 ^ (a - y.1)))) ∧
  (∀ (s : State) (c id : Nat) (x : Access) (ty : LdTy) (cells : List (Nat × Nat)) (now : Bool),
     x.kind = .load id ty cells now →
     let t := performAccess s c x
     let bad (y : Nat × Nat) : Bool := (s.core c).spoison.contains (y.2 / 4)
     SameBytes s t ∧ (∀ d, (t.core d).accs = (s.core d).accs ∧ (t.core d).regs = (s.core d).regs) ∧
     (∀ d w, t.warp d w = s.warp d w) ∧ (∀ d, d ≠ x.src → t.core d = s.core d) ∧
     (t.core x.src).pw.length = (s.core x.src).pw.length ∧
     ∀ (i : Nat) (p : Pending), (s.core x.src).pw[i]? = some p →
       (p.id ≠ some id → (t.core x.src).pw[i]? = some p) ∧
       (∀ d m v l kc, p.id = some id → p.wr = .vec d m v l kc → v.full → ∃ u : VReg,
         (t.core x.src).pw[i]? = some { p with left := p.left - (if now then 1 else 0), wr := .vec d m u l kc } ∧ u.full ∧
         (∀ n, (∀ y ∈ cells, y.1 ≠ n) → u.lane n = v.lane n ∧ u.poison.getLsbD n = v.poison.getLsbD n) ∧
         ∀ l1 y l2, cells = l1 ++ y :: l2 → y.1 < 128 → (∀ z ∈ l1 ++ l2, z.1 ≠ y.1) →
           u.lane y.1 = (if bad y then 0 else ty.extend (memRead (s.core c).scratch y.2 ty.bytes)) ∧
           u.poison.getLsbD y.1 = (v.poison.getLsbD y.1 || bad y)))

/-- R186, R70: SEMP makes an increment of its word, two cycles away, behind a release of the warp's earlier accesses; outside
a static region SEMW suspends the warp until its word holds the amount, behind the waiters before it.
R186: an increment adds to its semaphore word and saturates at 2^32 - 1; no other byte of the scratchpad changes. -/
def Obligations.SemaphoreResults : Prop :=
  (∀ (s : State) (p : Guard) (n adr : ImmOrS) (ofs : BitVec 12), p.never = false → activeMask s p ≠ 0 →
     let e : Int := (adr.val s.me).toNat + ofs.toInt
     let ad := wrapAddr (tget 0 s.me.segBase sgs.toNat) e
     let a := ad.toNat
     0 ≤ e → e + 4 ≤ (tget 0 s.me.segLimit sgs.toNat).toNat → a % 4 = 0 → a + 4 ≤ s.myCore.carve * 2 ^ 20 →
     (∃ t, exec (.semp p n adr ofs) s = .next t ∧ OnlyIssues s t ∧
       t.myCore.accs = s.myCore.accs ++
         [⟨2, s.cur.slot.num, s.cur.core, s.cur.warp, s.gcc, AccKind.semp a (n.val s.me) (some s.nextId)⟩] ∧
       ∃ q : Req, t.ms.reqs = s.ms.reqs ++ [q] ∧ q.id = s.nextId ∧ q.kind = .release .co ∧
         q.deps = openIds s s.cur.core s.cur.warp ∧ q.behind = some (s.gcc, s.cur.slot.num)) ∧
     (s.me.region = none → s.me.susp = .none →
       ∃ t, exec (.semw p n adr ofs) s = .next t ∧ t.me.susp = .semw a (n.val s.me) ∧ t.cur.switch = true ∧
         t.myCore.semWait = s.myCore.semWait ++ [(s.cur.warp, a)] ∧ SameScalars s.me t.me ∧ SameBuffers s.me t.me ∧
         SameFlow s.me t.me ∧ SameSpecial s.me t.me ∧ SameOthers s t ∧ SameOutside s t ∧ SameBytes s t)) ∧
  (∀ (k : Core) (off : Nat) (n : Word), Memory.wf k.scratch = true →
     (spadWord (semAdd k off n) off).toNat = min ((spadWord k off).toNat + n.toNat) 0xFFFFFFFF ∧
     (∀ a, a < off ∨ off + 4 ≤ a → memGet (semAdd k off n).scratch a = memGet k.scratch a) ∧
     (semAdd k off n).warps = k.warps ∧ (semAdd k off n).regs = k.regs)

/-- R250 to R252: STSET sets a stream descriptor to its base and capacity with counts of 0 and writes a zero header word; STAPP
appends the values of its lanes by key and counts what finds no room; STCMT writes the header word of its stream behind a release,
and of the guide stream of a G-core it hands the records over that are complete (R399). None of them sees what a STSET of its own
bundle sets.
R251: a lane whose key is at or above the number of keys, or whose stream is full, only counts into a DROP; any other
is written behind the elements its stream holds.
R192, R289, R290, R294: inside a static region a send puts one packet for each destination on its way, all landing after
the longest of the route latencies, stamped with the cycle of the region; a destination that is not there is a timing fault. TRECV
takes the packet of its slot, which must be there unspoiled and carry the stamp. Outside a static region a send and TRECV are timing
faults of subcode 12. -/
def Obligations.StreamAndTransferResults : Prop :=
  (((∀ (s : State) (p : Guard) (k : BitVec 4) (cap base : BitVec 7), p.never = false → activeMask s p ≠ 0 →
      let o := (sGet s.me base).toNat
      let c := (sGet s.me cap).toNat
      o < 2 ^ 24 → c ≤ 4194303 → streamBeyond s o (4 + 4 * c) = false → o % 4 = 0 → streamOff s o % 4 = 0 →
      ∃ t, exec (.stset p k cap base) s = .next t ∧ zGet t k.toNat = ⟨o, c, 0, 0, 0⟩ ∧
        (∀ j, j ≠ k.toNat → zGet t j = zGet s j) ∧
        t.myCore.accs = s.myCore.accs ++ [⟨2, s.cur.slot.num, s.cur.core, s.cur.warp, s.gcc, .store 4 [(streamOff s o, 0)]⟩] ∧
        t.cur.zset = s.cur.zset ++ [(k.toNat, zGet s k.toNat)] ∧ OnlyIssues s t) ∧
    (∀ (s s1 : State) (p : Guard) (v key : Spec) (zb nk : BitVec 4) (ad : Bool), Ready (.stapp p v key zb nk ad) s s1 →
      let m := activeMask s p
      let r := appendLanes s zb.toNat (nk.toNat + 1) (srcVal s immNat key) (srcVal s immInt v) (lanesOf m) (zSeen s) []
      ((srcVal s immInt v).poison ||| (srcVal s immNat key).poison) &&& m = 0 →
      (∀ x ∈ r.2, appendBad s x = none) → sigmaFault s (wordCount (wordRanks (r.2.map (·.1)) [])) = false →
      ∃ t, exec (.stapp p v key zb nk ad) s = .next t ∧ OnlyIssues s1 t ∧
        (∀ j, zGet t j = if j ∈ s.cur.zset.map (·.1) then zGet s j else tget .reset r.1 j) ∧
        (r.2 ≠ [] → t.myCore.accs = s1.myCore.accs ++
          [⟨2, s1.cur.slot.num, s1.cur.core, s1.cur.warp, s1.gcc, .store 4 (r.2.map (fun x => (x.1.off, x.2)))⟩])) ∧
    (∀ (s : State) (p : Guard) (k : BitVec 4) (sc : Scope) (dest : BitVec 7), p.never = false → activeMask s p ≠ 0 →
      let d := tget .reset (zSeen s) k.toNat
      let o := ((sGet s.me dest).extractLsb' 0 24).toNat
      let c := ((sGet s.me dest).extractLsb' 24 8).toNat
      let h : Word := BitVec.ofNat 32 (min d.drop 1023 * 2 ^ 22 + d.count)
      let handed := k = 15 ∧ sc = .pk ∧ dieOf s.cur.core < 4
      streamBeyond s d.base 4 = false →
      (∀ n : Byte, c ≠ 0xFF → n ≠ 0 → o % 4 = 0 → ∃ t, exec (.stcmt p k sc dest n) s = .next t ∧ OnlyIssues s t ∧
        t.myCore.accs = s.myCore.accs ++ [⟨2, s.cur.slot.num, s.cur.core, s.cur.warp, s.gcc,
          .stcmt (streamOff s d.base) h c o n.toNat sc (some s.nextId)⟩]) ∧
      (c = 0xFF → ¬handed → ∃ t, exec (.stcmt p k sc dest 0) s = .next t ∧ OnlyIssues s t ∧
        t.myCore.accs = s.myCore.accs ++
          [⟨2, s.cur.slot.num, s.cur.core, s.cur.warp, s.gcc, .store 4 [(streamOff s d.base, h)]⟩]) ∧
      (c = 0xFF → handed → ∃ t l, exec (.stcmt p k sc dest 0) s = .next t ∧ OnlyIssues s t ∧
        t.myCore.accs = s.myCore.accs ++
          [⟨2, s.cur.slot.num, s.cur.core, s.cur.warp, s.gcc, .guide (streamOff s d.base) h l s.nextId⟩] ∧
        l.length = d.count / 16 - d.send ∧ (∀ i, i < l.length → l[i]? = some (streamOff s (d.base + 4 + 64 * (d.send + i)))) ∧
        (15 ∉ s.cur.zset.map (·.1) → zGet t 15 = { d with send := max d.send (d.count / 16) })) ∧
      (∀ n : Byte, (c = 0xFF ↔ n ≠ 0) →
        exec (.stcmt p k sc dest n) s = .next (takeTrap s (.of .illegalOperand))))) ∧
   (∀ (s : State) (zb nk i : Nat) (key val : VReg) (z : Table ZDesc),
      let k := (key.lane i).toNat
      let d := tget .reset z (zb + k)
      let r := appendLanes s zb nk key val [i] z []
      (nk ≤ k → tget .reset r.1 zb = { tget .reset z zb with drop := (tget .reset z zb).drop + 1 } ∧ r.2 = []) ∧
      (k < nk → d.cap ≤ d.count → tget .reset r.1 (zb + k) = { d with drop := d.drop + 1 } ∧ r.2 = []) ∧
      (k < nk → d.count < d.cap → tget .reset r.1 (zb + k) = { d with count := d.count + 1 } ∧
        r.2 = [(⟨i, s.cur.core, streamOff s (d.base + 4 + 4 * d.count)⟩, val.lane i)]))) ∧
  (∀ (s s1 : State) (p : Guard) (slot : BitVec 5) (r : Region), s.me.region = some r →
     (∀ v (core : ImmOrS), Ready (.tsend p v core slot) s s1 → coreThere s (core.val s.me).toNat = true →
       ∃ t, exec (.tsend p v core slot) s = .next t ∧ OnlyIssues s1 t ∧
         (t.core (core.val s.me).toNat).packets = (s1.core (core.val s.me).toNat).packets ++
           [⟨s.gcc + routeLat s.cur.core (core.val s.me).toNat, slot.toNat, s.gcc - r.s, srcVal s immInt v, s.me.handle⟩]) ∧
     (∀ v (mask : ImmOrS), Ready (.tsendM p v mask slot) s s1 → maskCores (mask.val s.me) ≠ [] →
       (∀ d ∈ maskCores (mask.val s.me), coreThere s d = true) →
       ∃ t lat, exec (.tsendM p v mask slot) s = .next t ∧ OnlyIssues s1 t ∧
         (∀ d ∈ maskCores (mask.val s.me), routeLat s.cur.core d ≤ lat ∧
           ⟨s.gcc + lat, slot.toNat, s.gcc - r.s, srcVal s immInt v, s.me.handle⟩ ∈ (t.core d).packets) ∧
         ∃ d ∈ maskCores (mask.val s.me), lat = routeLat s.cur.core d) ∧
     (∀ v (core : ImmOrS), Ready (.tsend p v core slot) s s1 → coreThere s (core.val s.me).toNat = false →
       exec (.tsend p v core slot) s = .next (takeTrap s (.timing 12))) ∧
     (∀ d stamp x, Ready (.trecv p d slot stamp) s s1 → tget? s1.myCore.inbox slot.toNat = some x → x.overrun = false →
       x.stamp % 4096 = stamp.toNat →
       exec (.trecv p d slot stamp) s = .next (writeVec
         (s1.updMyCore (fun k => { k with inbox := tdel k.inbox slot.toNat })) 6 d false 0 (activeMask s p) x.val)) ∧
     (∀ v (mask : ImmOrS), Ready (.tsendM p v mask slot) s s1 →
       (maskCores (mask.val s.me) = [] ∨ ∃ d ∈ maskCores (mask.val s.me), coreThere s d = false) →
       exec (.tsendM p v mask slot) s = .next (takeTrap s (.timing 12))) ∧
     (∀ d stamp, Ready (.trecv p d slot stamp) s s1 →
       (tget? s1.myCore.inbox slot.toNat = none ∨ ∃ x, tget? s1.myCore.inbox slot.toNat = some x ∧ x.overrun = true) →
       exec (.trecv p d slot stamp) s = .next (takeTrap s (.timing 5))) ∧
     (∀ d stamp x, Ready (.trecv p d slot stamp) s s1 → tget? s1.myCore.inbox slot.toNat = some x → x.overrun = false →
       x.stamp % 4096 ≠ stamp.toNat → exec (.trecv p d slot stamp) s = .next (takeTrap s (.timing 4)))) ∧
  (∀ (s s1 : State) (p : Guard) (slot : BitVec 5), s.me.region = none →
     (∀ v (core : ImmOrS), Ready (.tsend p v core slot) s s1 →
       exec (.tsend p v core slot) s = .next (takeTrap s (.timing 12))) ∧
     (∀ v (mask : ImmOrS), Ready (.tsendM p v mask slot) s s1 →
       exec (.tsendM p v mask slot) s = .next (takeTrap s (.timing 12))) ∧
     (∀ d stamp, Ready (.trecv p d slot stamp) s s1 →
       exec (.trecv p d slot stamp) s = .next (takeTrap s (.timing 12))))

/-! ## Memory accesses (R165 to R180) -/

/-- R165 to R169: outside a static region a load or store whose lanes pass their checks and find their translations, with room on its
counter and in its port, registers one result and sends out its lanes; what tells the forms apart is where they perform and what they order.
R166, R170, R171: LD.S registers its result with 0 and poison in every lane that fails its checks and sends out the others;
LDT queues a result 48 cycles away, filled by the answers of its lines; PREF asks for its lines, where its port has room, and
registers nothing. That an ST.REL of scope qd or wider performs at its home is the model's choice (log entry 32). -/
def Obligations.GlobalLoadAndStoreResults : Prop :=
  (∀ (s s1 : State) (o : MWOps) (ls : List LaneReq), s.me.region = none → resultRoom s1.me o.ac = true →
     let m := activeMask s o.p
     let here (p : Path) : Path := if o.seg = sgf then .fabric else p
     let res (poll : Bool) : Result := { Result.new s1.nextId o.ac (loadTodo s1 o.dat m) m with poll := poll }
     let ld (st : Style) (ty : LdTy) (chain : Nat) : Ask :=
       ⟨some s1.nextId, .load ty, st.path, ls, chain, st.acq.isSome || st.sc, st.acq, st.rel, st.sc⟩
     let st' (st : Style) (ty : StTy) (chain : Nat) : Ask :=
       ⟨some s1.nextId, .store ty, st.path, ls.map (fun x => { x with x := ((srcVal s immInt o.dat).lane x.lane).setWidth 64 }),
         chain, st.acq.isSome || st.sc, st.acq, st.rel, st.sc⟩
     let lanes (ofs : Int) (n ak : Nat) (need : Need) : Prop := memLanes s m o.seg o.adr ofs n ak need = .ok (.ok ls)
     let fit (p : Path) : Prop := portFull s p ls = false
     let sc := acqScope o
     (∀ t, Ready (.ldMw t o) s s1 → lanes o.ofs.toInt t.bytes 0 .read → fit (here .cached) →
       exec (.ldMw t o) s = .next (issueAccess s1 (res false) (ld ⟨here .cached, none, none, false, false⟩ t 0))) ∧
     (Ready (.ldPoll o) s s1 → lanes o.ofs.toInt 4 0 .read → fit (here .home) →
       exec (.ldPoll o) s = .next (issueAccess s1 (res true) (ld ⟨here .home, none, none, false, true⟩ .b32 0))) ∧
     (Ready (.ldAcq o) s s1 → lanes (acqOfs o) 4 0 .read → fit (here .home) →
       exec (.ldAcq o) s = .next (issueAccess s1 (res false) (ld ⟨here .cached, some sc, none, false, false⟩ .b32 0))) ∧
     (Ready (.ldSc o) s s1 → lanes o.ofs.toInt 4 0 .read → fit .home →
       exec (.ldSc o) s = .next (issueAccess s1 (res false) (ld ⟨.home, some .sy, some .sy, true, false⟩ .b32 2))) ∧
     ((srcVal s immInt o.dat).poison &&& m = 0 →
       (∀ t, Ready (.stMw t o) s s1 → lanes o.ofs.toInt t.bytes 1 .write → fit (here .cached) →
         exec (.stMw t o) s = .next
           (issueAccess s1 (Result.new s1.nextId o.ac [] m) (st' ⟨here .cached, none, none, false, false⟩ t 0))) ∧
       (Ready (.stRel o) s s1 → lanes (acqOfs o) 4 1 .write → fit (here (if sc.num ≥ 2 then .home else .cached)) →
         exec (.stRel o) s = .next (issueAccess s1 (Result.new s1.nextId o.ac [] m)
           (st' ⟨here (if sc.num ≥ 2 then .home else .cached), none, some sc, false, false⟩ .b32 0))) ∧
       (Ready (.stSc o) s s1 → lanes o.ofs.toInt 4 1 .write → fit .home →
         exec (.stSc o) s = .next
           (issueAccess s1 (Result.new s1.nextId o.ac [] m) (st' ⟨.home, some .sy, some .sy, true, false⟩ .b32 2))))) ∧
  (∀ (s s1 : State),
     (∀ (o : MWOps), Ready (.ldS o) s s1 → s.me.region = none → resultRoom s1.me o.ac = true →
       let m := activeMask s o.p
       let ls := softLanes s m (tget 0 s.me.segBase o.seg.toNat) (some (tget 0 s.me.segLimit o.seg.toNat)) true o.adr
         o.ofs.toInt 4
       portFull s .cached (ls.filter (fun x => !x.bad)) = false →
       exec (.ldS o) s = .next (issueAccess s1
         (Result.new s1.nextId o.ac (fillWrites (ls.filter (·.bad)) false (loadTodo s1 o.dat m)) m)
         ⟨some s1.nextId, .load .b32, if o.seg = sgf then .fabric else .cached, ls.filter (fun x => !x.bad), 0, false, none,
           none, false⟩)) ∧
     (∀ (o : MOps) (ls : List LaneReq), Ready (.ldt o) s s1 →
       memLanes s (activeMask s o.p) o.seg o.adr o.ofs.toInt 4 0 .read = .ok (.ok ls) →
       ∃ t n, exec (.ldt o) s = .next t ∧ OnlyIssues s1 t ∧
         ∃ id strict, t.myCore.pw = s1.myCore.pw ++ [⟨s1.cur.warp, s1.cur.slot.num, 48, false, id, n, strict, false,
           .vec (match o.dat with | .v d => some (target s1 d) | _ => none) (activeMask s o.p) .zero s1.cur.slot.latch none,
           none⟩] ∧
         (ls ≠ [] → id = some s1.nextId ∧ n = (splitLines 0 ls).length ∧ strict = strictNow s1.me) ∧
         (ls = [] → id = none ∧ n = 0 ∧ strict = false)) ∧
     (∀ p core adr ofs ad, Ready (.pref p core adr ofs ad) s s1 → s.me.region = none →
       let ls := (softLanes s (activeMask s p) 0 none true (PairSpec.toSpec adr) ofs.toInt 1).filter (fun x => !x.bad)
       portFull s (if core then .cached else .home) ls = false →
       ∃ t, exec (.pref p core adr ofs ad) s = .next t ∧ OnlyIssues s1 t ∧ t.me.results = s1.me.results ∧
         t.myCore.pw = s1.myCore.pw))

/-- R163, R165: the issue of an access adds its result to the end of its warp's list (arrived at once where it sent nothing), and sends each of its
lanes in one request to the lane's line; no register, no memory and no other warp changes. -/
def Obligations.AccessIssueFrame : Prop :=
  ∀ (s : State) (r : Result) (a : Ask), r.rid = s.nextId → a.rid = some s.nextId →
    (∀ q ∈ s.ms.reqs, q.rid ≠ some s.nextId) → (∀ c w, ∀ x ∈ (s.warp c w).results, x.rid ≠ s.nextId) →
    let t := issueAccess s r a
    OnlyIssues s t ∧ t.me.results = s.me.results ++ [{ r with arrived := r.arrived || a.lanes.isEmpty }] ∧
    (∀ c, (t.core c).pw = (s.core c).pw) ∧
    ∃ qs, t.ms.reqs = s.ms.reqs ++ qs ∧ ((qs.map (·.lanes)).flatten).length = a.lanes.length ∧
      ∀ q ∈ qs, q.core = s.cur.core ∧ q.warp = s.cur.warp ∧ q.kind = a.kind ∧ q.path = a.path ∧ q.rid = a.rid ∧
        q.acq = a.acq ∧ q.rel = a.rel ∧ q.stage = .waiting ∧
        q.deps = (if a.rel.isSome || a.sc then openIds s s.cur.core s.cur.warp else orderingIds s s.cur.core s.cur.warp) ∧
        q.behind = (if a.rel.isSome || a.sc then some (s.gcc, s.cur.slot.num) else none) ∧
        ∀ x ∈ q.lanes, x ∈ a.lanes ∧ lineOf x.pa = q.line

/-- R172, R173: an atomic registers one result, whose writes take the old values, and sends each lane to its home with its operands.
R173: what a lane of an atomic leaves at its home: the value its operation gives of the old value and its operand, while
the old value goes back; every byte outside the element reads as before. Minimum and maximum compare signed or unsigned numbers of
the element's width, the bitwise operations and the exchange give what they say, a compare-and-swap stores where it compares equal,
and the float adds are those of FP32 and of the two BF16 halves in the fixed mode of R84, in which a NaN gives the canonical one. -/
def Obligations.AtomicResults : Prop :=
  (∀ (s s1 : State) (o : MWOps) (ls : List LaneReq), s.me.region = none → resultRoom s1.me o.ac = true →
     let m := activeMask s o.p
     let go (i : Instr) (op : AtomOp) (sc : Bool) : Prop :=
       let path : Path := if sc then .home else if o.seg = sgf then .fabric else .home
       let v := atomOperands s op o.dat
       Ready i s s1 → memLanes s m o.seg o.adr o.ofs.toInt op.bytes 2 .write = .ok (.ok ls) → portFull s path ls = false →
       v.2.2 &&& m = 0 →
       exec i s = .next (issueAccess s1
         { Result.new s1.nextId o.ac (atomTodo s1 op o.dat m) m with cas := op.isCas, futile := op.isCas }
         ⟨some s1.nextId, .atom op, path, ls.map (fun l => { l with x := v.1.getD l.lane 0, y := v.2.1.getD l.lane 0 }),
           if sc then 2 else if o.seg = sgf then 0 else 1, sc, if sc then some .sy else none, if sc then some .sy else none, sc⟩)
     (∀ w, go (.atomAdd o w) (.add w) false) ∧ (∀ w u, go (.atomMin o w u) (.min w u) false) ∧
     (∀ w u, go (.atomMax o w u) (.max w u) false) ∧ (∀ w, go (.atomAnd o w) (.and w) false) ∧
     (∀ w, go (.atomOr o w) (.or w) false) ∧ (∀ w, go (.atomXor o w) (.xor w) false) ∧
     (∀ w, go (.atomExch o w) (.exch w) false) ∧ (∀ w, go (.atomCas o w) (.cas w) false) ∧
     go (.atomAddF32 o) .addF32 false ∧ go (.atomAddBf16 o) .addBf16 false ∧ (∀ op, go (.atomSc o op) op true)) ∧
  (∀ (op : AtomOp) (c w : Nat) (s : State) (x : LaneReq), s.ms.poisoned.contains (lineOf x.pa) = false →
     Memory.wf s.ms.mem = true →
     let m := memRead s.ms.mem x.pa op.bytes
     let t := atomLane op c w s x
     t.2.val = BitVec.ofNat 64 m ∧ t.2.bad = x.bad ∧
     memRead t.1.ms.mem x.pa op.bytes = (op.apply (BitVec.ofNat 64 m) x.x x.y).toNat % 2 ^ (8 * op.bytes) ∧
     (∀ a, a < x.pa ∨ x.pa + op.bytes ≤ a → memGet t.1.ms.mem a = memGet s.ms.mem a) ∧ Memory.wf t.1.ms.mem = true ∧
     t.1.ms.poisoned = s.ms.poisoned ∧
     (∀ b y, (AtomOp.cas b).apply (BitVec.ofNat 64 m) x.x y = if BitVec.ofNat 64 m = x.x then y else BitVec.ofNat 64 m) ∧
     (∀ b, (AtomOp.add b).apply (BitVec.ofNat 64 m) x.x x.y = BitVec.ofNat 64 m + x.x)) ∧
  (∀ (a b y : DWord) (w uns : Bool),
     (AtomOp.and w).apply a b y = a &&& b ∧ (AtomOp.or w).apply a b y = a ||| b ∧ (AtomOp.xor w).apply a b y = a ^^^ b ∧
     (AtomOp.exch w).apply a b y = b ∧
     (AtomOp.min true uns).apply a b y = (if (if uns then b.toNat < a.toNat else b.toInt < a.toInt) then b else a) ∧
     (AtomOp.max true uns).apply a b y = (if (if uns then a.toNat < b.toNat else a.toInt < b.toInt) then b else a)) ∧
  (∀ (a b : Word) (y : DWord) (uns : Bool),
     let low (op : AtomOp) : Word := (op.apply (a.setWidth 64) (b.setWidth 64) y).setWidth 32
     low (.min false uns) = (if (if uns then b.toNat < a.toNat else b.toInt < a.toInt) then b else a) ∧
     low (.max false uns) = (if (if uns then a.toNat < b.toNat else a.toInt < b.toInt) then b else a) ∧
     low .addF32 = BitVec.ofNat 32 (fAdd .f32 .plain a.toNat b.toNat).1 ∧
     low .addBf16 = BitVec.ofNat 32 ((fAdd .bf16 .plain (a.toNat % 65536) (b.toNat % 65536)).1 +
       65536 * (fAdd .bf16 .plain (a.toNat / 65536) (b.toNat / 65536)).1) ∧
     (∀ f x z, (decodeF f x).isNan = true ∨ (decodeF f z).isNan = true → (fAdd f .plain x z).1 = f.nanCode))

/-- R165, R315, R443: a store that performs at the home of its line, of which its core holds no copy, writes each lane's
bytes at the lane's address, later lanes over earlier ones, and no other byte of memory.
R165, R164, R162: a load that performs at the home of its line, of which its core holds no copy, gives each lane the bytes at its
address, extended to 32 bits; a lane of a poisoned line gets 0 and poison. It changes no byte of memory. -/
def Obligations.HomeAccessesPerform : Prop :=
  (∀ (s : State) (r : Req) (ty : StTy), r.kind = .store ty → r.path ≠ .cached → r.acq = none → r.rel = none →
     tget? (s.core r.core).cache r.line = none → Memory.wf s.ms.mem = true →
     (∀ x ∈ r.lanes, x.pa / 128 = r.line ∧ x.pa % 128 + ty.bytes ≤ 128) →
     let t := (perform s r).1
     Memory.wf t.ms.mem = true ∧
     (∀ a, (∀ x ∈ r.lanes, a < x.pa ∨ x.pa + ty.bytes ≤ a) → memGet t.ms.mem a = memGet s.ms.mem a) ∧
     (∀ l1 x l2 a, r.lanes = l1 ++ x :: l2 → x.pa ≤ a → a < x.pa + ty.bytes → (∀ y ∈ l2, a < y.pa ∨ y.pa + ty.bytes ≤ a) →
       memGet t.ms.mem a = BitVec.ofNat 8 (x.x.toNat / 256 ^ (a - x.pa))) ∧
     (∀ c, (t.core c).scratch = (s.core c).scratch) ∧ (∀ c w, SameScalars (s.warp c w) (t.warp c w))) ∧
  (∀ (s : State) (r : Req) (ty : LdTy), r.kind = .load ty → r.path ≠ .cached → r.acq = none → r.rel = none →
     tget? (s.core r.core).cache r.line = none →
     (∀ x ∈ r.lanes, x.pa / 128 = r.line ∧ x.pa % 128 + ty.bytes ≤ 128 ∧ x.bad = false) →
     let t := perform s r
     SameBytes s t.1 ∧
     t.2.lanes = r.lanes.map (fun x =>
       if s.ms.poisoned.contains r.line then { x with val := 0, bad := true }
       else { x with val := (ty.extend (memRead s.ms.mem x.pa ty.bytes)).setWidth 64 }))

/-- R174 to R177: a RED that evicts nothing through a full port puts its lanes into the reduction buffer of its core, and its result
arrives at once where nothing was sent. FLUSHR, where no port that it needs is full, takes the entries of its group out of the
buffer and sends every valid element of them, and nothing else, to its home as an atomic of the entry's operation, which its result
waits for. FLUSHR.ordered takes out the entries of its own warp and makes one record for each listed home, with the session's key
and the entries for that home in their order.
R174: the first value of an element of an entry of the reduction buffer is held exactly, and a later one is combined with it; the other elements stay. -/
def Obligations.ReductionBufferResults : Prop :=
  (∀ (s s1 : State), s.me.region = none →
     (∀ (o : MWOps) (ls : List LaneReq), resultRoom s1.me o.ac = true →
       let m := activeMask s o.p
       let go (i : Instr) (op : RedOp) : Prop :=
         let v := srcVal s (redImm op) o.dat
         let u := (ls.map (fun x => { x with x := (v.lane x.lane).setWidth 64 })).foldl (redPut (o.seg == sgf) op) s1.fresh.2
         Ready i s s1 → memLanes s m o.seg o.adr o.ofs.toInt 4 2 .write = .ok (.ok ls) →
         v.poison &&& m = 0 → drainsFull s1.fresh.2 u = false →
         exec i s = .next (settleResult (addResult u (Result.new s1.nextId o.ac [] m)) s1.nextId)
       go (.redAddF32 o) .addF32 ∧ go (.redAddN32 o) .addN32 ∧ go (.redMinF32 o) .minF32 ∧ go (.redMaxF32 o) .maxF32 ∧
       go (.redAddBf16 o) .addBf16) ∧
     (∀ p ac, p.never = false → activeMask s p ≠ 0 → resultRoom s.me ac = true →
       (∀ c w, ∀ x ∈ (s.warp c w).results, x.rid ≠ s.nextId) →
       let mine (e : RedEntry) : Prop := e ∈ s.myCore.red ∧ e.handle = s.me.handle
       (∀ e, mine e → e.fabric = false → portFull s .home (entryLanes e) = false) →
       ∃ t qs, exec (.flushr p ac) s = .next t ∧ (∀ e, e ∈ t.myCore.red ↔ e ∈ s.myCore.red ∧ e.handle ≠ s.me.handle) ∧
         t.me.evicted = false ∧ OnlyIssues s t ∧ (∃ r, r ∈ t.me.results ∧ r.rid = s.nextId ∧ r.ctr = ac) ∧
         t.ms.reqs = s.ms.reqs ++ qs ∧
         (∀ e, mine e → ∀ x ∈ e.elems, ∃ q ∈ qs, q.kind = .red e.op ∧ q.path = (if e.fabric then .fabric else .home) ∧
           ∃ y ∈ q.lanes, y.addr = BitVec.ofNat 64 (e.block * 64 + 4 * x.1) ∧ y.x = x.2.setWidth 64 ∧
             (e.fabric = false → y.pa = e.block * 64 + 4 * x.1)) ∧
         (∀ q ∈ qs, q.rid = some s.nextId ∧ q.core = s.cur.core ∧ q.warp = s.cur.warp ∧ q.stage = .waiting ∧
           ∀ y ∈ q.lanes, ∃ e, mine e ∧ q.kind = .red e.op ∧ y ∈ entryLanes e) ∧
         ((qs.map (·.lanes)).flatten).length =
           ((s.myCore.red.filter (fun e => e.handle == s.me.handle)).map (fun e => e.elems.length)).sum) ∧
     (∀ p adr ofs ac ad (x : LaneReq), Ready (.flushrOrdered p adr ofs ac ad) s s1 → resultRoom s1.me ac = true →
       oneAddress s (activeMask s p) adr ofs.toInt 64 0 .read = .ok (.ok [x]) →
       let u := warpRead s1.fresh.2 x.pa 64
       let d := SessDesc.parse (u.2.map (·.1))
       let mine := s1.myCore.red.filter (fun e => e.warp == s1.cur.warp)
       d.ok = true →
       ∃ t fs, exec (.flushrOrdered p adr ofs ac ad) s = .next t ∧
         (∀ e, e ∈ t.myCore.red ↔ e ∈ s1.myCore.red ∧ e.warp ≠ s1.cur.warp) ∧ t.me.evicted = false ∧ SameBytes u.1 t ∧
         SameScalars s1.me t.me ∧ SameSpecial s1.me t.me ∧
         t.ms.flushes = s1.ms.flushes ++ fs ∧ fs.map (fun f => (f.dest, f.die)) = d.homes ∧
         ∀ f ∈ fs, f.sid = d.sid ∧ f.ncon = d.ncon ∧ f.doneAddr = BitVec.ofNat 64 d.done ∧ f.core = s1.cur.core ∧
           f.warp = s1.cur.warp ∧ f.rid = s1.nextId ∧ f.evicted = s1.me.evicted ∧ f.part = s1.hd.control.self.toNat ∧
           f.ents = mine.filter (fun e => !entryLost u.1 d.homes e && entryAt u.1 e (f.dest, f.die)))) ∧
  (∀ (e : RedEntry) (i j : Nat) (x : Word),
     (tget? e.elems i = none → tget? (e.put i x).elems i = some x) ∧
     (∀ y, tget? e.elems i = some y → tget? (e.put i x).elems i = some (e.op.apply y x)) ∧
     (j ≠ i → tget? (e.put i x).elems j = tget? e.elems j) ∧
     (e.put i x).block = e.block ∧ (e.put i x).op = e.op ∧ (e.put i x).warp = e.warp)

/-- R179, R180, R184: fences and XFENCE add ordering points behind the accesses their rules name, and WATCH arms the line of its address
or disarms; none of them changes a register or a byte of memory. -/
def Obligations.FenceAndWatchResults : Prop :=
  ∀ (s s1 : State) (p : Guard), p.never = false → activeMask s p ≠ 0 →
    (∀ sc, ∃ (t : State) (q : Req), exec (.fenceAcq p sc) s = .next t ∧ t.ms.reqs = s.ms.reqs ++ [q] ∧ q.kind = .acquire sc ∧
      q.orders = true ∧ q.deps = openLoads s ∧ q.behind = some (s.gcc, s.cur.slot.num) ∧ OnlyIssues s t) ∧
    (∀ sc, ∃ (t : State) (q : Req), exec (.fenceRel p sc) s = .next t ∧ t.ms.reqs = s.ms.reqs ++ [q] ∧ q.kind = .release sc ∧
      q.orders = true ∧ q.behind = some (s.gcc, s.cur.slot.num) ∧ q.deps = openIds s s.cur.core s.cur.warp ∧ OnlyIssues s t) ∧
    (∀ sc, ∃ (t : State) (q q' : Req), exec (.fenceAr p sc) s = .next t ∧ t.ms.reqs = s.ms.reqs ++ [q, q'] ∧ q.kind = .release sc ∧
      q'.kind = .acquire sc ∧ q.orders = true ∧ q'.orders = true ∧ q.deps = openIds s s.cur.core s.cur.warp ∧
      q.behind = some (s.gcc, s.cur.slot.num) ∧ q'.deps = q.deps ++ [q.id] ∧ OnlyIssues s t) ∧
    (∀ up down sc, ∃ (t : State) (q : Req) (l : List Req), exec (.xfence p up down sc) s = .next t ∧ t.ms.reqs = s.ms.reqs ++ q :: l ∧
      q.deps = (if up.getLsbD 0 then openIds s s.cur.core s.cur.warp else []) ∧
      q.behind = (if up.getLsbD 0 then some (s.gcc, s.cur.slot.num) else none) ∧ q.orders = down.getLsbD 0 ∧
      (∀ i, 1 ≤ i → i < 7 → down.getLsbD i = true → q.id ∈ tget [] t.me.xgate i) ∧
      (∀ i, down.getLsbD i = false → tget [] t.me.xgate i = tget [] s.me.xgate i) ∧ OnlyIssues s t) ∧
    (∀ adr ofs ad (x : LaneReq), Ready (.watchArm p adr ofs ad) s s1 →
      oneAddress s (activeMask s p) adr ofs.toInt 1 0 .read = .ok (.ok [x]) →
      ∃ t, exec (.watchArm p adr ofs ad) s = .next t ∧ t.me.watch = some (x.pa / 128) ∧ t.me.watchHit = false ∧ OnlyIssues s1 t) ∧
    (∀ adr ofs ad (x : LaneReq), Ready (.watchDisarm p adr ofs ad) s s1 →
      oneAddress s (activeMask s p) adr ofs.toInt 1 0 .read = .ok (.ok [x]) →
      ∃ t, exec (.watchDisarm p adr ofs ad) s = .next t ∧ t.me.watch = none ∧ t.me.watchHit = false ∧ OnlyIssues s1 t)

/-! ## The matrix engine, weights, textures, rays, copies and tiles (R189 to R249, R258, R259) -/

/-- R207, R218 to R222, R195, R201, R202, R205: for a warp of the group that holds the lease, with no fault of the engine
outstanding, MCALL and MPSW join the matrix queue, MCALL with one result more than its routine has SYNC steps, as the directory
stands behind the writes still queued; MPAR and MFMT write the parameters of the warp, MFMT with the reserved bit clear; WST sets
its buffer FILLING and adds a fill; MSTAT and WSTAT are sampled after two cycles, in a static region too. -/
def Obligations.MatrixCommandResults : Prop :=
  ∀ (s s1 : State) (x : XCtl),
    let e := engOf s s.cur.core
    (∀ (k o : ImmOrS), Ready (.mcall x k o) s s1 → holdsLease s = true → EngTime s x →
      e.flt = false → owesFault s = false → (k.val s.me).toNat < 256 → (o.val s.me).toNat < 8192 →
      (s.me.region = none ∨ e.ov = false) → e.queue.length < 4 →
      let n := if x.ae then ((dirSeen e (k.val s.me).toNat).extractLsb' 27 4).toNat + 1 else 0
      (s.me.results.filter (fun r => r.ctr == x.ac)).length + n ≤ 63 → s.me.results.length + n ≤ 128 →
      ∃ (t : State) (m : MCall), exec (.mcall x k o) s = .next t ∧ OnlyIssues s1 t ∧ (engOf t s.cur.core).queue = e.queue ++ [MxCmd.mcall m] ∧
        m.warp = s.cur.warp ∧ m.alive = true ∧ m.k = (k.val s.me).toNat ∧ m.o = (o.val s.me).toNat ∧ m.fmt = s.me.mfmt ∧
        m.q = (List.range 8).map (fun i => tget 0 s.me.q i) ∧ m.ov = e.ov ∧ m.ae = x.ae ∧
        m.start = s.me.region.map (fun r => r.s + r.z + x.sco.toNat) ∧ m.rids = (List.range n).map (fun i => s1.nextId + i) ∧
        t.me.results = s1.me.results ++ m.rids.map (fun i => Result.new i x.ac [] 0)) ∧
    (∀ (v w : BitVec 7), Ready (.mpsw x v w) s s1 → holdsLease s = true → e.flt = false → owesFault s = false → e.queue.length < 4 →
      ∃ (t : State) (id : Nat), exec (.mpsw x v w) s = .next t ∧ OnlyIssues s1 t ∧ t.me.results = s1.me.results ∧
        (engOf t s.cur.core).queue =
          e.queue ++ [MxCmd.mpsw id s.cur.warp (sPairGet s.me v) (sGet s.me w) (gateIds s 3)]) ∧
    (∀ (q : BitVec 3) (v : ImmOrS), Ready (.mpar x q v) s s1 →
      ∃ t, exec (.mpar x q v) s = .next t ∧
        (∀ i, i ≠ q.toNat → tget 0 t.me.q i = tget 0 s1.me.q i) ∧
        tget 0 t.me.q q.toNat = (match v with | .imm b => b.setWidth 64 | .s n => sPairGet s.me n) ∧
        SameScalars s1.me t.me ∧ SameBuffers s1.me t.me ∧ SameFlow s1.me t.me ∧ SameWaits s1.me t.me ∧
        SameOthers s1 t ∧ SameOutside s1 t ∧ SameBytes s1 t) ∧
    (∀ (v : ImmOrS), Ready (.mfmt x v) s s1 → (v.val s.me).toNat < 256 → fmtOk (BitVec.ofNat 8 (v.val s.me).toNat) = true →
      ∃ t, exec (.mfmt x v) s = .next t ∧ t.me.mfmt = s1.me.mfmt ∧
        t.me.mfmtNext = s1.me.mfmtNext ++ [(4, BitVec.ofNat 8 (v.val s.me).toNat &&& 0xFE)] ∧
        SameScalars s1.me t.me ∧ SameBuffers s1.me t.me ∧ SameFlow s1.me t.me ∧ SameWaits s1.me t.me ∧
        SameOthers s1 t ∧ SameOutside s1 t ∧ SameBytes s1 t) ∧
    (∀ (a : BitVec 7) (wb : Bool), Ready (.wst x a wb) s s1 → holdsLease s = true → EngTime s x →
      (sPairGet s.me a).toNat % 64 = 0 → e.fills.length < 8 →
      (x.ae = true → resultRoom s1.me x.ac = true) →
      ∃ (t : State) (f : Fill), exec (.wst x a wb) s = .next t ∧ OnlyIssues s1 t ∧ (engOf t s.cur.core).fills = e.fills ++ [f] ∧
        f.wb = wb ∧ f.desc = sPairGet s.me a ∧ f.warp = s.cur.warp ∧ f.rid = (if x.ae then some s1.nextId else none) ∧
        cmdDue s x 0 + 1 ≤ f.due ∧ ((engOf t s.cur.core).wbuf wb).state = .filling ∧
        ((engOf t s.cur.core).wbuf wb).bytes = (e.wbuf wb).bytes ∧
        (engOf t s.cur.core).wbuf (!wb) = e.wbuf (!wb) ∧ (engOf t s.cur.core).queue = e.queue) ∧
    (∀ (d : BitVec 7), Ready (.mstat x d) s s1 → holdsLease s = true → owesFault s = false →
      (x.ae = true → resultRoom s1.me x.ac = true) → ∃ t, exec (.mstat x d) s = .next t ∧
        CmdIssued s s1 t x 3 0 [.sreg d 0, .sreg (d + 1) 0] (s.gcc + 2) false (.mstat d)) ∧
    (∀ (d : BitVec 7), Ready (.wstat x d) s s1 → holdsLease s = true →
      (x.ae = true → resultRoom s1.me x.ac = true) → ∃ t, exec (.wstat x d) s = .next t ∧
        CmdIssued s s1 t x 3 0 [.sreg d 0, .sreg (d + 1) 0] (s.gcc + 2) false (.wstat d))

/-- R188, R189, R231, R236, R240, R244, R258, R259, R322: a command to the texture unit, the ray unit or the composite path, with a
well-formed descriptor, joins its core's commands with the operands it captured; COPY joins its queue with its record. Descriptors
are read at issue as loads of the warp, which leave every warp's registers, flow and special registers as they are. MARK takes
the numbers of the commands that stand in its queues, and MARKW waits for those of its marker and for the warp's stores, and for
nothing where its marker was never placed. That a build descriptor need not be aligned, and that a tile submit of KIND 2 whose PAY
is not zero is an illegal operand, is the model's choice (log entries 51 and 92). -/
def Obligations.EngineCommandResults : Prop :=
  ∀ (s s1 : State) (x : XCtl), EngTime s x → (x.ae = true → resultRoom s1.me x.ac = true) →
    let m := activeMask s x.p
    let regs (b : BitVec 9) (n : Nat) : List VReg := (blockNames b n).map (vGet s.myCore s.me)
    (∀ va align n s2 d, DescIs s s1 va align n s2 d → d.length = n ∧ ∀ c w,
      SameScalars (s1.warp c w) (s2.warp c w) ∧ SameFlow (s1.warp c w) (s2.warp c w) ∧ SameSpecial (s1.warp c w) (s2.warp c w)) ∧
    (∀ (b : BitVec 9) (a : BitVec 7) (s2 : State) (d : List Byte), DescIs s s1 (sPairGet s.me a) 64 64 s2 d →
      (TexDesc.parse d).ok = true →
      (Ready (.texF x b a) s s1 → ∃ t, exec (.texF x b a) s = .next t ∧
        EngIssued s s2 t x 4 m (blockTodo s2 b 4 m) 1 (.tex 1 b (regs b 4) d [])) ∧
      (Ready (.texL x b a) s s1 → ∃ t, exec (.texL x b a) s = .next t ∧
        EngIssued s s2 t x 4 m (blockTodo s2 b 4 m) 1 (.tex 2 b (regs b 4) d [])) ∧
      (Ready (.texq x b a) s s1 → ∃ t, exec (.texq x b a) s = .next t ∧
        EngIssued s s2 t x 4 m (blockTodo s2 b 4 m) 1 (.tex 3 b (regs b 4) d [])) ∧
      (Ready (.texS x b a) s s1 → ∃ t draws u, exec (.texS x b a) s = .next t ∧
        (∀ l, m.getLsbD l = false → noiseGet u.me l = noiseGet s1.me l) ∧
        (∀ l, l < 128 → m.getLsbD l = true → noiseGet u.me l = noiseNext (noiseGet s1.me l) ∧
          draws.getD l 0 = noiseOut (noiseNext (noiseGet s1.me l))) ∧
        SameScalars s1.me u.me ∧ u.ms = s2.ms ∧ u.nextId = s2.nextId ∧ u.cur = s2.cur ∧
        EngIssued s u t x 4 m (blockTodo s2 b 4 m) 1 (.tex 0 b (regs b 4) d draws))) ∧
    (∀ (b : BitVec 9) (a : BitVec 7), (sPairGet s.me a).extractLsb' 2 4 = 0 →
      let h := (sPairGet s.me a).toNat / 64 * 64
      let go (i : Instr) (kind n : Nat) : Prop := Ready i s s1 → ∃ t, exec i s = .next t ∧
        EngIssued s s1 t x 4 m (blockTodo s1 b n m) 1
          (.ray kind b (regs b 8) h ((sPairGet s.me a).getLsbD 0) ((sPairGet s.me a).getLsbD 1))
      go (.rqCl x b a) 0 4 ∧ go (.rqAn x b a) 1 4 ∧ go (.rqOc x b a) 2 1) ∧
    (∀ (a : BitVec 7) (pa : Nat → Nat), (∀ i, i < 64 →
        tlbLook s s.cur.core s.cur.warp s.me.level .read ((sPairGet s.me a).toNat + i) = .ok (pa i)) →
      let r := warpBytes ((List.range 64).map pa) s1
      let bad (o : Option (Nat × Bool)) : Prop :=
        (o = none ↔ ∀ y ∈ r.2, y.2 = false) ∧
        ∀ y, o = some y → ∃ i, i < 64 ∧ (r.2.getD i (0, false)).2 = true ∧ y = ((sPairGet s.me a).toNat + i, decide (8 ≤ i))
      (Ready (.bvhb x a) s s1 → ∃ t o, exec (.bvhb x a) s = .next t ∧ r.2.length = 64 ∧ bad o ∧
        EngIssued s r.1 t x 4 0 [] 1 (.build (r.2.map (·.1)) false o)) ∧
      (Ready (.bvhf x a) s s1 → ∃ t o, exec (.bvhf x a) s = .next t ∧ r.2.length = 64 ∧ bad o ∧
        EngIssued s r.1 t x 4 0 [] 1 (.build (r.2.map (·.1)) true o))) ∧
    (∀ (a : BitVec 7) (q : BitVec 2) (s2 : State) (b : List Byte), Ready (.copy x a q) s s1 →
      DescIs s s1 (sPairGet s.me a) 64 64 s2 b → (tget [] s.myCore.copyq q.toNat).length < 16 →
      ∃ t r, exec (.copy x a q) s = .next t ∧ OnlyIssues s2 t ∧
        tget [] t.myCore.copyq q.toNat = tget [] s1.myCore.copyq q.toNat ++ [r] ∧
        (∀ j, j ≠ q.toNat → tget [] t.myCore.copyq j = tget [] s1.myCore.copyq j) ∧
        r.bytes = b ∧ r.core = s.cur.core ∧ r.warp = s.cur.warp ∧ r.handle = s.me.handle ∧ r.level = s.me.level ∧
        r.row = 0 ∧ r.started = false ∧ r.halted = false ∧ r.stream = none ∧ r.due = cmdDue s x 1 ∧
        r.rid = (if x.ae then some s1.nextId else none) ∧
        t.me.results = s1.me.results ++ (if x.ae then [Result.new s1.nextId x.ac [] 0] else [])) ∧
    (∀ (a : BitVec 7) (s2 : State) (b : List Byte), Ready (.cmpt x a) s s1 → DescIs s s1 (sPairGet s.me a) 32 32 s2 b →
      (cmptOk b = true → ∃ t, exec (.cmpt x a) s = .next t ∧ EngIssued s s2 t x 5 0 [] 1 (.cmpt b)) ∧
      (cmptOk b = false → exec (.cmpt x a) s = .next (takeTrap s (.of .illegalOperand)))) ∧
    (∀ (d sn : BitVec 7), Ready (.cmpq x d sn) s s1 → ∃ t, exec (.cmpq x d sn) s = .next t ∧
      EngIssued s s1 t x 5 0 [.sreg d 0, .sreg (d + 1) 0] 2 (.cmpq d (sGet s.me sn))) ∧
    (∀ (n : BitVec 3), Ready (.markw x n) s s1 → ∃ t, exec (.markw x n) s = .next t ∧
      EngIssued s s1 t x 0 0 [] 1 (.hold (markWait s n).1 (markWait s n).2) ∧
      t.me.mwaits = s1.me.mwaits ++ (if x.ae then [s1.nextId] else [])) ∧
    (∀ (mask : BitVec 9) (n : BitVec 3), Ready (.mark x mask n) s s1 → ∃ t, exec (.mark x mask n) s = .next t ∧
      (∀ i, i ∈ tget [] t.me.markers n.toNat ↔
        ∃ q, q < 9 ∧ mask.getLsbD q = true ∧ i ∈ queueIds s s.cur.core q) ∧
      (∀ j, j ≠ n.toNat → tget [] t.me.markers j = tget [] s1.me.markers j) ∧ OnlyIssues s1 t)

/-- R208 to R217: what each step of a routine does when its turn has come and its unit is free: loads of the shadow stationary,
their exchange with the active one, the rows that enter, scale, clear or drain, loops and waits; the routine then goes on, and the
accumulators change at ZERO only. That LDSB takes its elements whole at issue is the model's choice (log entry 45). -/
def Obligations.MatrixStepResults : Prop :=
  ∀ (s : State) (r : Routine) (q : StepQ), stepTurn s s.ev.core = some r →
    let c := s.ev.core
    let e := engOf s c
    let loadFree := e.loadFree ≤ s.gcc ∧ e.ldJob = none
    let rowOf (row : Byte) : Nat := row.toNat + qField r q 2
    let rowFree (bk : Bool) (row m : Byte) : Prop := rowUnitFree e r s.gcc = true ∧ rowOf row + m.toNat + 1 ≤ 256 ∧
      rowsReady e r s.gcc bk (rowOf row) (m.toNat + 1) = true
    let waits (t : State) (b : Block) : Prop := OnlyEngine s t c ∧ (engOf t c).run = some { r with block := b }
    (∀ wb ofs kb n sofs, loadFree → (fmtBs r.fmt = false → sofs = 0) → (e.wbuf wb).state = .filled →
      kb.toNat + 1 ≤ fmtKM r.fmt →
      let ea := 64 * (BitVec.toNat ofs + qField r q 1)
      let sa := 64 * (BitVec.toNat sofs + qField r q 1)
      let cols := (BitVec.toNat n + 1) * (kb.toNat + 1)
      ea + cols * fmtEB r.fmt ≤ 2 ^ 21 → (fmtBs r.fmt = true → sa + cols ≤ 2 ^ 21) →
      ∃ t x, exec (.ldsb q wb ofs kb n sofs) s = .next t ∧ StepIssued s t r ∧ (engOf t c).shadow = some x ∧
        x.kb = kb.toNat + 1 ∧ x.n = n.toNat + 1 ∧ x.fmt = fmtKeyB r.fmt ∧
        x.elems = memBytes (e.wbuf wb).bytes ea (cols * fmtEB r.fmt) ∧
        x.scales = (if fmtBs r.fmt then memBytes (e.wbuf wb).bytes sa cols else []) ∧
        (engOf t c).active = e.active ∧ (engOf t c).acc = e.acc ∧
        (engOf t c).loadFree = s.gcc + 8 + (cols * fmtEB r.fmt + (if fmtBs r.fmt then cols else 0) + 511) / 512) ∧
    (∀ vb vs kb n, loadFree → (fmtBs r.fmt = false → vs = 0) → kb.toNat + 1 ≤ fmtKM r.fmt →
      let names (v : BitVec 9) (per : Nat) : List Nat :=
        (List.range ((BitVec.toNat n + 1 + per - 1) / per)).map (fun i => v.toNat + qField r q 0 + i)
      let regs := names vb (fmtPer r.fmt) ++ (if fmtBs r.fmt then names vs (fmtSr r.fmt) else [])
      (∀ x ∈ regs, x ≤ 511) →
      ∃ t, exec (.ldsv q vb vs kb n) s = .next t ∧ StepIssued s t r ∧
        (engOf t c).ldJob = some ⟨r.rank, r.base + r.pos, regs, [], kb.toNat + 1, n.toNat + 1⟩ ∧
        (engOf t c).loadFree = s.gcc + 4 + regs.length ∧ (engOf t c).acc = e.acc ∧ (engOf t c).active = e.active) ∧
    (loadFree → e.arrJob = none → e.entered < s.gcc →
      ∃ t, exec .swap s = .next t ∧ StepIssued s t r ∧ (engOf t c).active = e.shadow ∧ (engOf t c).shadow = e.active ∧
        (engOf t c).acc = e.acc) ∧
    (∀ (clear : Bool) va vs bk (row m : Byte), e.arrJob = none → e.arrayFree ≤ s.gcc → rowOf row + m.toNat + 1 ≤ 256 →
      rowsReady e r s.gcc bk (rowOf row) (m.toNat + 1) = true → (fmtAs r.fmt = false → vs = 0) →
      (∃ x, e.active = some x ∧ x.fmt = fmtKeyB r.fmt) →
      va.toNat + qField r q 0 + (m.toNat + 1 + fmtPer r.fmt - 1) / fmtPer r.fmt ≤ 512 →
      (fmtAs r.fmt = true → vs.toNat + qField r q 0 + (m.toNat + 1 + fmtSr r.fmt - 1) / fmtSr r.fmt ≤ 512) →
      ∃ t j, exec (if clear then .strm q va vs bk row m else .acc q va vs bk row m) s = .next t ∧ StepIssued s t r ∧
        (engOf t c).arrJob = some j ∧ j.clear = clear ∧ j.bk = bk ∧ j.row = rowOf row ∧ j.m = m.toNat + 1 ∧ j.j = 0 ∧
        j.next = s.gcc ∧ j.va = va.toNat + qField r q 0 ∧ j.vs = vs.toNat + qField r q 0 ∧
        (∀ i, i ≤ m.toNat → tget 0 (engOf t c).rows (rowKey bk (rowOf row + i)) = s.gcc + i + 20) ∧
        (engOf t c).arrayFree = s.gcc + m.toNat + 1 ∧ (engOf t c).acc = e.acc) ∧
    (∀ vf bk (row m : Byte), rowFree bk row m → fmtClass r.fmt ≠ 2 →
      vf.toNat + qField r q 0 + (m.toNat + 1 + 127) / 128 ≤ 512 →
      ∃ t j, exec (.scal q vf bk row m) s = .next t ∧ StepIssued s t r ∧ (engOf t c).rowJob = some j ∧ j.scal = true ∧
        j.bk = bk ∧ j.row = rowOf row ∧ j.m = m.toNat + 1 ∧ j.va = vf.toNat + qField r q 0 ∧
        (∀ i, i ≤ m.toNat → tget 0 (engOf t c).rows (rowKey bk (rowOf row + i)) = s.gcc + i + 6) ∧
        (engOf t c).acc = e.acc) ∧
    (∀ bk (row m : Byte), rowFree bk row m →
      ∃ t, exec (.zero q bk row m) s = .next t ∧ StepIssued s t r ∧
        (∀ i n, i ≤ m.toNat → n < 256 → accGet (engOf t c) (rowKey bk (rowOf row + i)) n = 0) ∧
        (∀ i, i ≤ m.toNat → rowKey bk (rowOf row + i) ∉ (engOf t c).rowPoison) ∧
        (∀ k n, n < 256 → (∀ i, i ≤ m.toNat → k ≠ rowKey bk (rowOf row + i)) → accGet (engOf t c) k n = accGet e k n) ∧
        (∀ i, i ≤ m.toNat → tget 0 (engOf t c).rows (rowKey bk (rowOf row + i)) = s.gcc + i / 4 + 1)) ∧
    (∀ bk (row m : Byte) (p : BitVec 2) (sync rel : Bool), rowFree bk row m →
      (sync = true → r.region = false ∧ r.syncs ≠ 0) →
      ∃ t d, exec (.drn q bk row m p sync rel) s = .next t ∧ StepIssued s t r ∧ (engOf t c).acc = e.acc ∧
        (∃ r', (engOf t c).run = some r' ∧ r'.drain = some d) ∧ d.bk = bk ∧ d.row = rowOf row ∧ d.m = m.toNat + 1 ∧
        d.p = p.toNat + 1 ∧ d.rel = rel ∧ (sync = false → d.start = some (s.gcc + 4))) ∧
    (∀ (cnt : BitVec 12) body be qd qs, (cnt ≠ 0 ∨ q.qe = true) →
      let count := if cnt = 0 then qField r q 3 else cnt.toNat
      let last := r.pos + BitVec.toNat body + 1
      last < r.len → (∀ l, r.loops.getLast? = some l → last ≤ l.last) → (count = 0 ∨ r.loops.length < 2) →
      ∃ t, exec (.stepLoop q cnt body be qd qs) s = .next t ∧ OnlyEngine s t c ∧
        (engOf t c).run = some (if count = 0 then goTo r (last + 1) s.gcc
          else { r with pos := r.pos + 1, next := s.gcc + 1, loops := r.loops ++ [⟨r.pos + 1, last, count, be, qd, qs⟩] })) ∧
    (∀ wb, ((e.wbuf wb).state = .filled → ∃ t, exec (.waitf wb) s = .next t ∧ StepIssued s t r) ∧
      ((e.wbuf wb).state = .filling → r.region = false → ∃ t, exec (.waitf wb) s = .next t ∧ waits t (.waitf wb)) ∧
      ((e.wbuf wb).state ≠ .filled → r.region = true → exec (.waitf wb) s = .next (stopRegion s r)) ∧
      ((e.wbuf wb).state = .error → r.region = false → exec (.waitf wb) s = .next (runFault s c 4))) ∧
    (r.ae = true → r.syncs < r.ns → ∃ t, exec .sync s = .next t ∧ waits t .sync) ∧
    ((r.ae = false ∨ r.ns ≤ r.syncs) → exec .sync s = .next (runFault s c 6)) ∧
    (r.ns ≤ r.syncs → ∃ t, exec .endStep s = .next t ∧ waits t .fin) ∧
    (r.syncs < r.ns → exec .endStep s = .next (runFault s c 6))

/-! ## Events: what reaches a core (R49, R66, R163, R181 to R183, R202, R218, R290, R303, R307, R321, R390, R391) -/

/-- R49, R66, R69, R163, R181 to R183, R290, R303: landings, late replies, arrivals, the end of waits, waking, timed
packets, the quad window, retirement, the watchdog and the entry of a static region. A result whose bank is taken, late or not, is
carried over; any other leaves the list and writes, in the lanes of its mask, what it is for: a scalar register, a flag, a predicate, a
vector register, a latch, a partial sum or an entry of the operand cache. -/
def Obligations.CoreArrivalEvents : Prop :=
  ∀ (s : State), let c := s.ev.core; let w := s.ev.warp; let k := s.core c
    (∀ p, nextLanding k = some p →
      let taken := p.skip = false ∧ ∃ b, p.wr.bank = some b ∧ k.ports.getLsbD b = true
      let out (t : State) : Prop := OnlyCore s t c ∧ (taken → CarriedOver k (t.core c) p) ∧
        (¬taken → Landed k (t.core c) p ∧
          ∀ b, p.skip = false → p.wr.bank = some b → (t.core c).ports = k.ports ||| (1#8 <<< b))
      (lateWrite k p = false → ∃ t, exec .resultLanding s = .next t ∧ out t) ∧
      (lateWrite k p = true → ∃ t, exec .lateReplyArrival s = .next t ∧ out t ∧ (t.warp c p.warp).frozen = 0)) ∧
    (∀ m (v u : VReg), v.full → u.full → ∀ l, l < 128 →
      (VReg.merge m v u).lane l = (if m.getLsbD l then u.lane l else v.lane l) ∧
      (VReg.merge m v u).poison.getLsbD l = (if m.getLsbD l then u.poison.getLsbD l else v.poison.getLsbD l)) ∧
    (∀ r, s.ev.ans = none → nextAnswer s c = some r →
      ∃ t, exec .arrival s = .next t ∧ (∀ x ∈ t.ms.reqs, x.id ≠ r.id) ∧ SameBytes s t ∧
        (t.core c).pw.length = k.pw.length ∧ ∀ d i, SameScalars (s.warp d i) (t.warp d i)) ∧
    (∀ x, s.ev.ans = none → nextAnswer s c = none → cmdArrived s c = some x →
      ∃ t, exec .arrival s = .next t ∧ OnlyCore s t c ∧ (∀ y, y ∈ (t.core c).ecmds ↔ y ∈ k.ecmds ∧ y.id ≠ x.id) ∧
        (∀ y ∈ k.warps, ∀ r ∈ (t.warp c y.1).results, x.rid = some r.rid → r.arrived = true)) ∧
    (∀ cover, (s.warp c w).susp = .waita cover → waitaDone (s.warp c w) = true →
      ∃ t, exec .waitaRetire s = .next t ∧ (t.warp c w).ready = some (s.gcc - 1) ∧
        (t.warp c w).susp = (s.warp c w).also.headD .none ∧ SameScalars (s.warp c w) (t.warp c w) ∧
        (∀ i, i ≠ w → t.warp c i = s.warp c i) ∧
        ((∀ i ∈ (s.warp c w).mwaits, i ∉ cover) → OnlyCore s t c) ∧
        ((∃ i ∈ (s.warp c w).mwaits, i ∈ cover) → ∃ q q' : Req, t.ms.reqs = s.ms.reqs ++ [q, q'] ∧ q.kind = .release .pk ∧
          q.orders = true ∧ q.deps = openIds s c w ∧ q'.kind = .acquire .pk ∧ q'.orders = true ∧ q'.deps = [q.id])) ∧
    (∀ d mask watch pred num cover, (s.warp c w).susp = .twait d mask watch pred num cover →
      twaitOut s.gcc (s.warp c w) = true →
      ∃ t, exec .twaitTimeout s = .next t ∧ OnlyCore s t c ∧ (t.warp c w).susp = (s.warp c w).also.headD .none ∧
        (if pred then (∀ m, pGet (t.warp c w) m = if m = num ∧ num ≠ 0 then 0 else pGet (s.warp c w) m) ∧
            (t.warp c w).f = (s.warp c w).f
          else (∀ m, fGet (t.warp c w) m = if m = num ∧ num ≠ 0 then false else fGet (s.warp c w) m) ∧
            (t.warp c w).p = (s.warp c w).p) ∧
        (∀ n, sGet (t.warp c w) n = sGet (s.warp c w) n) ∧ ∀ i, i ≠ w → t.warp c i = s.warp c i) ∧
    (∀ r, k.gated = true → earliestReady k = some r →
      ∃ t, exec .coreWake s = .next t ∧ OnlyCore s t c ∧
        t.core c = { k with gated := false, wakewhy := k.wakewhy ||| k.why, free := max k.free (r + 60) }) ∧
    (∀ d m x, (s.warp c w).susp = .wfw (some d) m x → d ≤ s.gcc → s.pt.pmWake &&& m = 0 →
      ∃ t, exec .wfwTimeout s = .next t ∧ OnlyCore s t c ∧ sGet (t.warp c w) x = 0 ∧
        (∀ n, n ≠ x → sGet (t.warp c w) n = sGet (s.warp c w) n) ∧ (t.warp c w).susp = (s.warp c w).also.headD .none) ∧
    (∀ p, k.packets.find? (fun p => decide (p.due ≤ s.gcc)) = some p →
      ∃ t, exec .timedPacketLanding s = .next t ∧ (t.core c).packets = k.packets.erase p ∧ SameBytes s t ∧
        (inboxSaved s c = true → (t.core c).inbox = k.inbox) ∧
        (inboxSaved s c = false → OnlyCore s t c ∧
          tget? (t.core c).inbox p.slot = some ⟨p.val, p.stamp, (tget? k.inbox p.slot).isSome⟩ ∧
          ∀ i, i ≠ p.slot → tget? (t.core c).inbox i = tget? k.inbox i)) ∧
    (∀ q, nextWin s c = some q →
      ∃ t, exec .windowPortService s = .next t ∧ OnlyCore s t c ∧
        t.core c = { k with winq := k.winq.erase q, winFree := s.gcc + q.k, accs := k.accs ++ winAccesses q }) ∧
    (canRetire s c w = true → (s.warp c w).handlerOf = none →
      ∃ t, exec .warpRetire s = .next t ∧ SameButReserve s t ∧
        (∀ r, (engOf s c).run = some r → r.warp = w → ∃ r', (engOf t c).run = some r' ∧ r'.alive = false) ∧
        (t.core c).current ≠ some w ∧
        ((s.warp c w).wnum < 16 → (t.warp c w).status = .ended ∧ (t.warp c w).map = []) ∧
        (16 ≤ (s.warp c w).wnum → (t.warp c w).status = .free)) ∧
    (canRetire s c w = true → (s.warp c w).handlerOf.isSome = true → exec .warpRetire s = .next (endHandler s c w)) ∧
    (∀ i e, nextIssue s c = some (i, e) →
      let b := beginBundle s c i e 0
      b.me.after = none →
      (budgetOf b = 0 → exec .watchdog s = .next (trapHere b (.of .watchdog) 0xFF)) ∧
      (∀ r, budgetOf b ≠ 0 → regionAsk b = .enter r → fetchBytes b c i b.me.level e.pc 2 ≠ .miss →
        let at_ := if r.abs then r.gcc else (s.gcc + 2 ^ r.aln - 1) / 2 ^ r.aln * 2 ^ r.aln
        s.gcc ≤ at_ → at_ ≤ s.gcc + 2 ^ 20 → b.me.entries.length + b.me.spilled.length ≤ 1 → transferPending b.me = false →
        ∃ t, exec .regionEntry s = .next t ∧ (t.warp c i).region = some ⟨r.start, r.stop, r.len, r.pol, at_, 0⟩ ∧
          (s.gcc < at_ → nextIssue t c = none) ∧ SameScalars (s.warp c i) (t.warp c i) ∧ SameBytes s t))

/-- R161, R202, R207, R215, R218, R239, R307, R321, R390, R391, R442: what ends or enters in the memory system and the
engines: walks, requests at the L2, lines, positions of SC accesses, invalidations, rows, fills, routines and builds. That a request
to a line at which nothing stands any more is the fault absentAddress, and that builds wait while a channel under repair holds its
reads, is the model's choice (log entries 88 and 83). -/
def Obligations.EngineAndMemoryEvents : Prop :=
  ∀ (s : State), let c := s.ev.core; let e := engOf s c
    (e.release ≠ [] →
      ∃ t, exec .rowRelease s = .next t ∧ OnlyEngine s t c ∧ (engOf t c).release = [] ∧
        (∀ k n, n < 256 → accGet (engOf t c) k n = if k ∈ e.release then 0 else accGet e k n) ∧
        ∀ k, k ∈ (engOf t c).rowPoison ↔ k ∈ e.rowPoison ∧ k ∉ e.release) ∧
    (∀ f, firstFill e (s.ev.idx == 1) = some f → fillReady s c f = true →
      ∃ t, exec .fillEnd s = .next t ∧ (engOf t c).fills = e.fills.filter (fun x => x != f) ∧
        (engOf t c).wbuf (s.ev.idx != 1) = e.wbuf (s.ev.idx != 1) ∧ (engOf t c).acc = e.acc ∧
        (((engOf t c).wbuf (s.ev.idx == 1)).state = .filling ↔ ∃ x ∈ e.fills, x ≠ f ∧ x.wb = (s.ev.idx == 1)) ∧
        ∀ d i, SameScalars (s.warp d i) (t.warp d i)) ∧
    (∀ m l, e.queue = .mcall m :: l → mcallReady s c m = true →
      let d := tget 0 e.dir m.k
      d.getLsbD 31 = true → (d.extractLsb' 0 13).toNat + (d.extractLsb' 13 14).toNat ≤ 8192 →
      m.o < (d.extractLsb' 13 14).toNat →
      ∃ t r, exec .routineStart s = .next t ∧ OnlyEngine s t c ∧ (engOf t c).queue = l ∧ (engOf t c).run = some r ∧
        r.pos = m.o ∧ r.base = (d.extractLsb' 0 13).toNat ∧ r.len = (d.extractLsb' 13 14).toNat ∧ r.q = m.q ∧
        r.fmt = m.fmt ∧ r.warp = m.warp ∧ r.rids = m.rids ∧ r.block = .none ∧ r.loops = [] ∧ r.next = s.gcc) ∧
    (∀ i w v (a : Word) deps l, e.queue = .mpsw i w v a deps :: l → mpswReady s c deps = true →
      (a.getLsbD 31 = true → a.extractLsb' 8 23 = 0 → BitVec.extractLsb' 32 32 v = 0 →
        ∃ t, exec .mpswApply s = .next t ∧ OnlyEngine s t c ∧ (engOf t c).queue = l ∧
          (∀ k, tget 0 (engOf t c).dir k = if k = (a.extractLsb' 0 8).toNat then BitVec.extractLsb' 0 32 v else tget 0 e.dir k) ∧
          (engOf t c).store = e.store) ∧
      (a.getLsbD 31 = false → a.extractLsb' 13 18 = 0 →
        ∃ t, exec .mpswApply s = .next t ∧ OnlyEngine s t c ∧ (engOf t c).queue = l ∧
          (∀ k, tget 0 (engOf t c).store k = if k = (a.extractLsb' 0 13).toNat then v else tget 0 e.store k) ∧
          (engOf t c).dir = e.dir)) ∧
    (∀ b, s.sched.builds.find? (fun b => b.id == s.ev.idx) = some b → b.due ≤ s.gcc → anyHeld s = false →
      ∃ t, exec .bvhCompletion s = .next t ∧ (∀ x, x ∈ t.sched.builds ↔ x ∈ s.sched.builds ∧ x.id ≠ b.id)) ∧
    (let d := s.ev.idx; let v := s.ev.addr.toNat; let l := s.ms.walks.filter (walkOf d v);
      (∃ k ∈ l, k.due ≤ s.gcc) → v ∈ walking s d → (∀ n ∈ walkLines s d v, readHeld s n = false) →
      ∃ t, exec .tableWalk s = .next t ∧ (∀ k ∈ t.ms.walks, walkOf d v k = false) ∧
        (∀ c i, SameScalars (s.warp c i) (t.warp c i)) ∧
        ∀ x, walkAt s d v = .ok x → x ∈ tget [] t.ms.tcache d ∧ ∀ k ∈ l, x ∈ (t.core k.core).tlb) ∧
    (∀ r, getReq s s.ev.idx = some r → homeReady s r = true →
      (present s (r.line * 128) = true → exec .l2RequestEntry s = .next (enterHome (eccAt s r.line s.ev.idx2) r)) ∧
      (present s (r.line * 128) = false → exec .l2RequestEntry s = .fault .absentAddress)) ∧
    (∀ m, s.ms.misses.find? (fun m => m.line == s.ev.idx) = some m → missReady s m = true →
      ∃ t, exec .l2LineArrival s = .next t ∧ m.line ∈ t.ms.l2 ∧
        (m.list.length ≤ 1 → ∀ x ∈ t.ms.misses, x.line ≠ m.line)) ∧
    (∀ i l, (s.core c).scq = i :: l → wheelFree s c = true →
      ∃ t, exec .scOrderEntry s = .next t ∧ (t.core c).scq = l ∧ tget 0 t.ms.wheel c = s.gcc + 1 ∧ SameBytes s t ∧
        (∀ x ∈ t.ms.reqs, x.rid = some i → x.core = c → x.scKey = some s.gcc) ∧ t.ms.reqs.length = s.ms.reqs.length) ∧
    (s.ms.busy = true → droppedInUse s = false →
      ∃ t, exec .invalidationDone s = .next t ∧ t.ms.busy = false ∧ (∀ d i, SameScalars (s.warp d i) (t.warp d i)) ∧
        (∀ d, ∀ x ∈ (t.core d).tlb, invCovers s.ms.sz s.ms.invva x = false) ∧
        (∀ d, ∀ x ∈ tget [] t.ms.tcache d, invCovers s.ms.sz s.ms.invva x = false) ∧
        (∀ d ln l, tget? (t.core d).cache ln = some l → l.dirty = 0) ∧
        t.ms.root = if s.ms.sz = 3 then s.ms.ptrh ++ s.ms.ptrl else s.ms.root)

/-! ## Events: groups, warps and trap handlers (R254, R362 to R371, R375 to R385) -/

/-- R254, R362, R365, R366, R368 to R372, R375, R376, R380: the events in the life of groups and captured warps: what each leaves
of the warp or the group that it is about, when the condition of its rule holds. A trap-handler warp that traps has a record in the F
ring, where it has room, and one of core 131 counts as a machine check too. That a group whose warps have retired drains its
reduction entries in one step and completes in a second, and that a killed group counts at its grid once its issued work has
performed, is the model's choice (log entry 58); so are the count of machine checks, the place 0x10000 of a handler's context and
the resume of a firmware warp without an image (log entry 64). -/
def Obligations.GroupAndHandlerEvents : Prop :=
  ∀ (s : State), let c := s.ev.core; let w := s.ev.warp; let h := s.ev.idx; let g := s.group h
    (∀ r, (s.warp c w).status = .captured r → (s.warp c w).handlerOf = none →
      tget? s.sched.groups (s.warp c w).handle.toNat = none →
      ∃ t, exec .saveContext s = .next t ∧ (t.warp c w).status = .saved r ∧ SameBytes s t ∧
        SameScalars (s.warp c w) (t.warp c w)) ∧
    (∀ r d, (s.warp c w).status = .captured r → (s.warp c w).handlerOf = none →
      tget? s.sched.groups (s.warp c w).handle.toNat = some d →
      let r' := { r with img := BitVec.ofNat 64 (blockAddr d (s.warp c w).wnum) }
      (∀ a, saveBlock s d w r'.bytes r.pc = .error a → exec .saveContext s = .next (swapFault s r' (.warp c w) a)) ∧
      ∀ t1, saveBlock s d w r'.bytes r.pc = .ok t1 →
        let gb := (d.swap.toNat, groupBlock t1 (s.warp c w).handle.toNat d false (areaCrc t1 d) [])
        (∀ a, writeSpans [gb] t1 = .error a → exec .saveContext s = .next (swapFault s r' (.warp c w) a)) ∧
        ∀ t2, writeSpans [gb] t1 = .ok t2 → ∃ t, exec .saveContext s = .next t ∧ (t.warp c w).status = .saved r' ∧
          SameScalars (s.warp c w) (t.warp c w) ∧ ∀ a, memGet t.ms.mem a = memGet t2.ms.mem a) ∧
    (∀ r, (s.warp c w).status = .captured r → (s.warp c w).handlerOf.isSome →
      ∃ t, exec .saveContext s = .next t ∧ (t.warp c w).status = .saved { r with img := BitVec.ofNat 64 (c * 2 ^ 56 + 0x10000) } ∧
        SameScalars (s.warp c w) (t.warp c w) ∧ (∀ a, memGet t.ms.mem a = memGet s.ms.mem a) ∧
        t.pt.mchecks = s.pt.mchecks + (if c = 131 then 1 else 0) ∧
        (roomAt s true = true → s.rg.fWait = [] → ∃ x, t.rg.fRing = s.rg.fRing ++ [x] ∧ x.rec_.code = r.code ∧ x.rec_.sub = r.sub ∧
          x.own = .warp c w)) ∧
    (∀ f x i, c = ringCore f → nextHandled s f = some x → handlerSlot s c = some i → x.written = true →
      ringEn (if f then s.rg.ringfc else s.rg.ringsc) = true → handlerRoom s c = true →
      ∃ t, exec .trapHandlerStart s = .next t ∧ (t.warp c i).status = .run ∧
        (t.warp c i).level = (if f then .f else .s) ∧ (t.warp c i).handlerOf = some x.rec_ ∧
        (t.warp c i).entries.map (·.pc) = [ringVector s f] ∧
        sPairGet (t.warp c i) 4 = BitVec.ofNat 64 x.rec_.img.toNat ∧ SameBytes s t ∧
        (∀ d j, (d, j) ≠ (c, i) → t.warp d j = s.warp d j)) ∧
    (∀ r, (s.warp c w).status = .resuming r → w < Config.residentSlots → (s.warp c w).handlerOf = none →
      (tget? s.sched.groups (s.warp c w).handle.toNat = none →
        ∃ t, exec .contextRestore s = .next t ∧ OnlyCore s t c ∧ (t.warp c w).status = .run ∧
          SameScalars (s.warp c w) (t.warp c w)) ∧
      (∀ d, tget? s.sched.groups (s.warp c w).handle.toNat = some d → d.status = .resident →
        (checkedBlock s d w (s.warp c w).img.toNat = none →
          ∃ t, exec .contextRestore s = .next t ∧ (t.warp c w).status = .saved r ∧ SameBytes s t) ∧
        ∀ b, checkedBlock s d w (s.warp c w).img.toNat = some b →
          exec .contextRestore s =
            .next (barriersAfterExit (addWhy (restoreBlock (countRead s 8 .s (s.warp c w).img.toNat 0x20000) d c w b) c 7)
              (s.warp c w).handle.toNat))) ∧
    (∀ r, (s.warp c w).status = .resuming r → w < Config.residentSlots → (s.warp c w).handlerOf.isSome →
      ∃ t, exec .contextRestore s = .next t ∧ OnlyCore s t c ∧ (t.warp c w).status = .run ∧
        (t.warp c w).entries.length = field (memBytes (s.core c).scratch 0x10000 0x10000) 0x50 4 / 16 % 32) ∧
    (haltDue s h = true →
      (g.kill = true → exec .preemptionHalt s = .next (killGroup s h)) ∧
      (g.kill = false → ∃ t, exec .preemptionHalt s = .next t ∧
        ∀ i ∈ g.allSlots, (t.warp g.core i).status ≠ .run)) ∧
    (let ms := (quadGroup s h).filter (fun x => (s.group x).status == .leaving);
      h ∈ ms → (∀ x ∈ ms, atRest s x = true ∧ (s.group x).kill = false) →
      ∃ t, exec .swapOut s = .next t ∧ ∀ x ∈ ms, (t.group x).status = .killed ∨ ((t.group x).saved = true ∧
        (t.group x).open_ = true ∧ (t.group x).status = (if (t.group x).record.isSome then .held else .waiting))) ∧
    (g.open_ = true → (g.status = .held ∨ g.status = .waiting) → stillOpen s h = false →
      ∃ t, exec .swapAreaClose s = .next t ∧ (t.group h).open_ = false) ∧
    (∀ ms t, inCheckpoint s = false → (waitingAt s c).find? (fun x => (s.group x).kill) = none →
      readyMembers s c = some ms → (∀ x ∈ ms, (s.group x).fresh = true ∨ imageFits s x = true) → admitAll ms s = some t →
      exec .groupAdmission s = .next t ∧ ∀ x ∈ ms, (t.group x).status = .resident) ∧
    (∀ x, inCheckpoint s = false → (waitingAt s c).find? (fun x => (s.group x).kill) = some x →
      exec .groupAdmission s = .next (killGroup s x)) ∧
    (∀ n, carveDue s c = some n → ∃ t, exec .carveChange s = .next t ∧ (t.core c).carve = n ∧
      (t.core c).cache = [] ∧ t.sched.groups = s.sched.groups) ∧
    (∀ d, moveTarget s h = some d → ∃ t, exec .groupRelocation s = .next t ∧ (t.group h).core = d) ∧
    (allRetired s h = true → outstanding s h = false →
      ((flushOrder s g.core (BitVec.ofNat 32 h)).isEmpty = true →
        ∃ t, exec .groupCompletion s = .next t ∧ (t.group h).status = .done) ∧
      ((flushOrder s g.core (BitVec.ofNat 32 h)).isEmpty = false →
        ∃ t, exec .groupCompletion s = .next t ∧ (t.group h).status = .resident)) ∧
    (g.status = .killed → g.gone = false → outstanding s h = false →
      ∃ t, exec .groupCompletion s = .next t ∧ (t.group h).gone = true ∧ (t.group h).status = .killed) ∧
    (∀ x, launchReady s c h = some x →
      ∃ t, exec .launchEnqueue s = .next t ∧ (t.core c).launchq = (s.core c).launchq.filter (fun y => y != x) ∧
        (x.d ≠ 0 → sGet (t.warp c x.warp) x.d = BitVec.ofNat 32 (popcount128 x.mask)) ∧
        tget [] (t.core c).childq x.q = tget [] (s.core c).childq x.q ++ childrenOf s c x.warp x.mask x.base x.pkts ∧
        (t.warp c x.warp).lseq = (s.warp c x.warp).lseq + 1 ∧ SameButReserve s t) ∧
    (∀ x l, tget [] (s.core c).childq h = x :: l → launchOpen s (readLaunch s x.body) = true → inCheckpoint s = false →
      ∃ t, exec .childTake s = .next t ∧ tget [] (t.core c).childq h = l)

/-! ## Events: command streams (R350 to R361, R393 to R396, R404, R413, R459) -/

/-- R350 to R355, R361, R459: what the command core does with a well-formed command of each kind that it takes up, the looks of
waiting streams, and the doorbell; a command that cannot be done stops its stream with its code. That a command or counter which
cannot be read stops the stream with code 2 and a malformed pointer with code 1, that a waiting stream looks again after a bounded
time, and what the doorbell's record holds, is the model's choice (log entries 56, 57 and 91). -/
def Obligations.CommandStreamEvents : Prop :=
  ∀ (s : State) (i : Nat) (c : Command),
    let u := countRead { s with sched := { s.sched with lastStream := i } } 8 .s (streamOf s i).head.toNat 32
    (∃ t, exec .streamTableAddress s = .next t ∧ t.sched.streamTable = s.ev.val) ∧
    (∃ t, exec .doorbell s = .next t ∧ SameBytes s t ∧ t.cores = s.cores ∧ t.sched = s.sched ∧
      (roomAt s false = true → ∃ x, t.rg.sRing = s.rg.sRing ++ [x] ∧ x.rec_.code = .doorbell ∧ x.written = false) ∧
      (roomAt s false = false → t.rg.sRing = s.rg.sRing)) ∧
    (∀ v g, TakesUp s 1 i c → launch (countRead u 8 .s c.arg 64) (packetAt u c.arg) (some i) ((streamOf u i).ctl.toNat % 8) = (v, none, g) →
      ∃ t, exec .launchGrid s = .next t ∧ Passed s t i ∧ ∃ x ∈ (streamOf t i).cmds, x.grid = some g ∧ x.op = 1) ∧
    (∀ v g e, TakesUp s 1 i c → launch (countRead u 8 .s c.arg 64) (packetAt u c.arg) (some i) ((streamOf u i).ctl.toNat % 8) = (v, some e, g) →
      ∃ t, exec .launchGrid s = .next t ∧ Stopped s t i e) ∧
    (TakesUp s 2 i c →
      let x := setStream (passCommand u i) i (fun x => { x with waitEv := some (BitVec.ofNat 64 c.arg, c.val) })
      (∀ b, readVa x .s (BitVec.ofNat 64 c.arg).toNat 8 = .ok b → ∃ t, exec .waitEvent s = .next t ∧ Passed s t i ∧
        (streamOf t i).state = (if c.val.toNat ≤ ofBytes b then 1 else 3) ∧
        (streamOf t i).waitEv = (if c.val.toNat ≤ ofBytes b then none else some (BitVec.ofNat 64 c.arg, c.val))) ∧
      (∀ e, readVa x .s (BitVec.ofNat 64 c.arg).toNat 8 = .error e → ∃ t, exec .waitEvent s = .next t ∧
        (streamOf t i).state = 4 ∧ (streamOf t i).err = 2)) ∧
    (∀ a v b, s.ev.idx = i → pollDue s i 3 = true → (streamOf s i).waitEv = some (a, v) → readVa s .s a.toNat 8 = .ok b →
      ∃ t, exec .waitEventPoll s = .next t ∧ (streamOf t i).head = (streamOf s i).head ∧
        (v.toNat ≤ ofBytes b → (streamOf t i).state = 1 ∧ (streamOf t i).waitEv = none) ∧
        (¬v.toNat ≤ ofBytes b → (streamOf t i).state = 3 ∧ (streamOf t i).waitEv = some (a, v) ∧
          s.gcc < (streamOf t i).nextPoll)) ∧
    (∀ v, TakesUp s 3 i c → (if c.sel = 0 then (addCounter u .s c.arg c.val).toOption
        else (writeVa u .s c.arg (bytesOf 8 c.val.toNat)).toOption) = some v →
      ∃ t, exec .signal s = .next t ∧ Passed s t i) ∧
    (∀ b, TakesUp s 4 i c → readVa u .s c.arg 64 = .ok b →
      ∃ t r, exec .copyCommand s = .next t ∧ Passed s t i ∧
        tget [] (t.core 128).copyq c.sel = tget [] (s.core 128).copyq c.sel ++ [r] ∧ r.bytes = b ∧ r.stream = some i ∧
        r.row = 0 ∧ ∃ x ∈ (streamOf t i).cmds, x.id = r.id ∧ x.op = 4) ∧
    (TakesUp s 9 i c → ∃ t, exec .next s = .next t ∧ t.sched.lastStream = i ∧
      (c.arg ≠ 0 → (streamOf t i).head = BitVec.ofNat 64 c.arg ∧ (streamOf t i).state = (streamOf s i).state) ∧
      (c.arg = 0 → (streamOf t i).head = (streamOf s i).head ∧ (streamOf t i).state = 2)) ∧
    (∀ b, s.ev.idx = i → pollDue s i 2 = true → readVa s .s ((streamOf s i).head.toNat + 8) 8 = .ok b →
      ∃ t, exec .nextPointerSeen s = .next t ∧
        (ofBytes b = 0 → (streamOf t i).state = 2 ∧ (streamOf t i).head = (streamOf s i).head) ∧
        (ofBytes b ≠ 0 → ofBytes b % 32 = 0 →
          (streamOf t i).state = 1 ∧ (streamOf t i).head = BitVec.ofNat 64 (ofBytes b)) ∧
        (ofBytes b ≠ 0 → ofBytes b % 32 ≠ 0 → Stopped s t i 1)) ∧
    (∀ r, copyHead s s.ev.core s.ev.idx = some r → copyMoved r = true → evtTurn s s.ev.core s.ev.idx r = true →
      ((CopyDesc.parse r.bytes).evi = false ∨ ∃ v, addCounter s r.level (CopyDesc.parse r.bytes).evt 1 = .ok v) →
      ∃ t, exec .copyRecordCompletion s = .next t ∧ ((CopyDesc.parse r.bytes).evi = false → SameBytes s t) ∧
        tget [] (t.core s.ev.core).copyq s.ev.idx = (tget [] (s.core s.ev.core).copyq s.ev.idx).tail ∧
        (∀ n, r.stream = some n → ∀ x ∈ (streamOf t n).cmds, x.id ≠ r.id)) ∧
    (∀ e, nextStream s = some (i, none) → e = 2 → ∃ t, exec .launchGrid s = .next t ∧ Stopped s t i e)

/-- R393 to R396, R404 to R408, R413: BIN and COVER write their areas and then run until they complete; GOVERN opens a frame,
whose acknowledgements count up to its steps; COMPOSE opens a session. A governor write that has come sets its entries but for the
reserved 8 to 15. That the areas of BIN and COVER are written as the command is taken up, and that a malformed block stops its
stream with code 8, or 9 for COMPOSE, is the model's choice (log entries 70 and 56). -/
def Obligations.FrameCommandEvents : Prop :=
  ∀ (s : State) (i : Nat) (c : Command) (b : List Byte),
    let u := countRead { s with sched := { s.sched with lastStream := i } } 8 .s (streamOf s i).head.toNat 32
    (∀ u1 v, TakesUp s 5 i c → binRead u c.sel c.arg 64 = (u1, .ok b) → (BinBlock.parse false c.arg b).ok = true →
      binAreas u1 c.sel (BinBlock.parse false c.arg b) = (v, true) →
      ∃ t n, exec .bin s = .next t ∧ Passed v t i ∧ t.fr.binCover = v.fr.binCover ++ [(i, n, c.sel)] ∧
        ∃ x ∈ (streamOf t i).cmds, x.id = n ∧ x.op = 5) ∧
    (∀ u1 v, TakesUp s 6 i c → binRead u c.sel c.arg 64 = (u1, .ok b) → (BinBlock.parse true c.arg b).ok = true →
      coverAreas u1 c.sel (BinBlock.parse true c.arg b) = (v, true) →
      ∃ t n, exec .cover s = .next t ∧ Passed v t i ∧ t.fr.binCover = v.fr.binCover ++ [(i, n, c.sel)] ∧
        ∃ x ∈ (streamOf t i).cmds, x.id = n ∧ x.op = 6) ∧
    (∀ u1, TakesUp s 5 i c → binRead u c.sel c.arg 64 = (u1, .ok b) → (BinBlock.parse false c.arg b).ok = false →
      ∃ t, exec .bin s = .next t ∧ Stopped s t i 8) ∧
    (∀ u1, TakesUp s 6 i c → binRead u c.sel c.arg 64 = (u1, .ok b) → (BinBlock.parse true c.arg b).ok = false →
      ∃ t, exec .cover s = .next t ∧ Stopped s t i 8) ∧
    (∀ x, s.fr.binCover.find? (fun x => x.1 == s.ev.idx && x.2.1 == s.ev.idx2) = some x →
      ∃ t, exec .binCoverCompletion s = .next t ∧ t.fr.binCover = s.fr.binCover.erase x ∧
        (∀ y, y ∈ (streamOf t s.ev.idx).cmds ↔ y ∈ (streamOf s s.ev.idx).cmds ∧ y.id ≠ s.ev.idx2) ∧ SameBytes s t) ∧
    (TakesUp s 7 i c → readVa u .s c.arg 128 = .ok b → c.arg % 64 = 0 → (SDesc.parse b).ncon ≠ 0 →
      ((SDesc.parse b).ok b = true → sessOf s (SDesc.parse b).sess = none → s.hd.csess.length < 16 →
        ∃ t x, exec .compose s = .next t ∧ Passed s t i ∧ t.hd.csess = s.hd.csess ++ [x] ∧ x.desc = b ∧
          x.sess = BitVec.ofNat 32 (SDesc.parse b).sess ∧ x.late = 0 ∧ (ranksDown s (SDesc.parse b) = [] → x.nodes = [])) ∧
      ((SDesc.parse b).ok b = false → ∃ t, exec .compose s = .next t ∧ Stopped s t i 9 ∧ t.hd.csess = s.hd.csess ∧
        t.hd.closed = s.hd.closed)) ∧
    (TakesUp s 7 i c → readVa u .s c.arg 128 = .ok b → c.arg % 64 = 0 → (SDesc.parse b).ncon = 0 → (SDesc.parse b).sess ≠ 0 →
      zeroAt b 64 64 = true → ∃ t, exec .compose s = .next t ∧ Passed s t i ∧ sessOf t (SDesc.parse b).sess = none) ∧
    (TakesUp s 8 i c → readVa u .s c.arg 64 = .ok b →
      (govBlockOk c.arg b = true →
        ∃ t f, exec .govern s = .next t ∧ Passed s t i ∧ t.fr.frame = some f ∧ f.k = 0 ∧ f.t0 = s.gcc ∧
          f.deadline = BitVec.ofNat 64 (field b 8 8) ∧ field b 4 1 ≤ f.steps ∧ f.steps ≤ field b 5 1 ∧
          t.fr.gov = s.fr.gov ∧ t.fr.govWrites.length = s.fr.govWrites.length + 4) ∧
      (govBlockOk c.arg b = false → ∃ t, exec .govern s = .next t ∧ Stopped s t i 8)) ∧
    (∀ f, ackDue s = some f →
      ∃ t, exec .governorAck s = .next t ∧ t.fr.gov = s.fr.gov ∧ SameBytes s t ∧
        (∀ x, t.fr.frame = some x → x.k = f.k + 1 ∧ x.steps ≤ f.steps ∧ x.k < x.steps) ∧
        (t.fr.frame = none → s.fr.govWrites.length + 5 = t.fr.govWrites.length)) ∧
    (∀ due n l r, s.fr.govWrites = (due, n, l) :: r → due ≤ s.gcc →
      ∃ t, exec .governorTableUpdate s = .next t ∧ t.fr.govWrites = r ∧
        (∀ k, tget 0 t.fr.gov k =
          if n ≤ k ∧ k < n + l.length ∧ ¬(8 ≤ k ∧ k < 16) then l.getD (k - n) 0 else tget 0 s.fr.gov k) ∧
        t.cores = s.cores ∧ t.ms = s.ms)

/-! ## Events: tiles, increments, Hedgerow and the host (R252, R279, R281, R398 to R428, R459, R460) -/

/-- R252, R279, R281, R400 to R402: senders take their records in turn, a sound record sends its tile, a tile that fits lands its
bytes, an increment adds to its word or is dropped, and a queued start becomes a handler warp. That an increment's word lies at its
offset of the region of the grid's group on the destination core, and that a tile is read at one instant, is the model's choice (log
entries 37 and 71). -/
def Obligations.TileAndHandlerEvents : Prop :=
  ∀ (s : State),
    (∀ x, nextSend s s.ev.idx = some x → dieOf x.core = s.ev.idx → s.ev.idx < 4 →
      let g := s.group x.handle.toNat
      let k := s.core x.core
      let r := SendRec.parse (memBytes k.scratch (g.region + x.off) 64)
      ∃ t, exec .privetSend s = .next t ∧ tget [] t.fr.sends x.core = (tget [] s.fr.sends x.core).tail ∧
        (spanPoison k (g.region + x.off) 64 = false → r.ok = true → r.srco + 16384 ≤ g.allot →
          (∀ o, r.doneo = some o → o + 4 ≤ g.allot) → spanPoison k (g.region + r.srco) 16384 = false →
          ∃ y, tget [] t.fr.guides s.ev.idx = tget [] s.fr.guides s.ev.idx ++ [y] ∧ y.src = x.core ∧
            y.dst = 16 * (s.ev.idx + 4) + r.dcore ∧ y.dsto = r.dsto ∧ y.handle = x.handle ∧
            y.bytes = memBytes k.scratch (g.region + r.srco) 16384) ∧
        (r.ok = false → tget [] t.fr.guides s.ev.idx = tget [] s.fr.guides s.ev.idx)) ∧
    (∀ x, landable s [] (tget [] s.fr.guides s.ev.idx) = some x →
      ∃ t, exec .privetLanding s = .next t ∧ tget [] t.fr.guides s.ev.idx = (tget [] s.fr.guides s.ev.idx).erase x ∧
        (∀ h g, landGroup s (gridOf x.handle) x.dst = some (h, g) → x.dsto + 16384 ≤ g.allot →
          (x.semo = 0xFFFFFFFF ∨ x.semo + 4 ≤ g.allot) → Memory.wf (s.core x.dst).scratch = true →
          memBytes (t.core x.dst).scratch (g.region + x.dsto) x.bytes.length = x.bytes ∧
          ∀ a, (a < g.region + x.dsto ∨ g.region + x.dsto + x.bytes.length ≤ a) →
            memGet (t.core x.dst).scratch a = memGet (s.core x.dst).scratch a) ∧
        (∀ h g, landGroup s (gridOf x.handle) x.dst = some (h, g) → x.dsto + 16384 ≤ g.allot →
          (x.semo = 0xFFFFFFFF ∨ x.semo + 4 ≤ g.allot) → t.fr.tails = s.fr.tails ++
            [⟨s.gcc + 1, h, if x.semo = 0xFFFFFFFF then none else some (g.region + x.semo), x⟩]) ∧
        (landGroup s (gridOf x.handle) x.dst = none → t.cores = s.cores)) ∧
    (∀ x, nextIncr s = some x → ∃ t, exec .stcmtIncrement s = .next t ∧ t.sched.incrs = s.sched.incrs.erase x ∧
      (∀ b h g, groupBaseOn s x.grid x.core = some (b, h, g) → Memory.wf (s.core x.core).scratch = true → x.n < 2 ^ 32 →
        (spadWord (t.core x.core) (b + x.word)).toNat =
          min ((spadWord (s.core x.core) (b + x.word)).toNat + x.n) 0xFFFFFFFF) ∧
      (∀ b h g, groupBaseOn s x.grid x.core = some (b, h, g) →
        (t.core x.core).semRel = (s.core x.core).semRel ++ [(b + x.word, none, x.sc, x.n)]) ∧
      (groupBaseOn s x.grid x.core = none → t.cores = s.cores)) ∧
    (∀ x n i, nextStart s s.ev.core = some x →
      (List.range 4).find? (fun n => !(handlerNumbers s s.ev.core).contains n) = some n →
      (freeSlots s [] s.ev.core).head? = some i → (∀ y ∈ (s.core s.ev.core).warps, y.2.region = none) →
      ∃ t, exec .arrivalHandlerStart s = .next t ∧ (t.core s.ev.core).hqueue = (s.core s.ev.core).hqueue.erase x ∧
        (t.warp s.ev.core i).wnum = 16 + n ∧ (t.warp s.ev.core i).prio = 7 ∧
        (t.warp s.ev.core i).entries.map (·.pc) = [x.h] ∧ tget? (t.group x.handle.toNat).handlers n = some i ∧ SameBytes s t)

/-- R409, R411, R412, R415, R416, R420, R423 to R426, R460: the control block, ports, the joining of a domain, submits and
packets, fill times, vsyncs, writes of so.mode, and accesses and flush records of other parts. A change of the size of a head waits
for its next vsync. A store with release does not land in a range, as no atomic and no reduction does. That a write of so.mode with
EN 2 or 3 is ignored, what a port drops that goes down, that the lowest range with a lane of the packet governs it, and that a
domain is joined at once, within 4 cycles, is the model's choice (log entries 75, 76, 77 and 79). -/
def Obligations.HedgerowEvents : Prop :=
  ∀ (s : State),
    (∀ b, readVa s .s Config.controlAddr 4096 = .ok b → field b 0 4 = 1 →
      ∃ t, exec .controlBlockReload s = .next t ∧
        (controlOk b = true → t.hd.control = ⟨BitVec.ofNat 8 (field b 4 1), BitVec.ofNat 64 (field b 8 8),
          BitVec.ofNat 64 (field b 16 8), (b.drop 512).take 256, (b.drop 768).take 512⟩) ∧
        (controlOk b = false → t.hd.control = s.hd.control)) ∧
    (s.ev.idx < 12 → (tget Port.reset s.hd.ports s.ev.idx).up = true →
      ∃ t, exec .portDown s = .next t ∧ (tget Port.reset t.hd.ports s.ev.idx).up = false ∧
        ∀ p, p ≠ s.ev.idx → (tget Port.reset t.hd.ports p).up = (tget Port.reset s.hd.ports p).up) ∧
    (s.hd.joined = false → ∃ t, exec .domainJoin s = .next t ∧ t.hd.joined = true ∧ s.ev.val.toNat ≤ t.gcc + 4 ∧
      t.gcc ≤ s.ev.val.toNat + 4 ∧ SameBytes s t ∧ ∀ c w, SameScalars (s.warp c w) (t.warp c w)) ∧
    (∀ p, s.ev.pkt = some p → portUp s p.port = true → ∃ t, exec .compositePacketReceipt s = .next t ∧
      ((sessOf s (field p.header 0 4) = none ∨
        ∃ x, sessOf s (field p.header 0 4) = some x ∧ packetOk x.d p = false) → t.hd = s.hd)) ∧
    (∀ x b, s.ev.pkt = none → (s.core s.ev.core).ecmds.find? (fun x => x.id == s.ev.idx) = some x → x.op = .cmpt b →
      cmdOpen s x = true → ∃ t, exec .compositePacketReceipt s = .next t ∧
        ∀ y ∈ (t.core s.ev.core).ecmds, y.id = x.id → y.op = .done ∧ s.gcc < y.due) ∧
    (∀ x, s.hd.csess.find? (fillDue s) = some x → sessOf s x.sess.toNat = some x →
      ∃ t, exec .fillTime s = .next t ∧ ∃ y, sessOf t x.sess.toNat = some y ∧ y.filled = x.filled + 1 ∧ y.desc = x.desc) ∧
    (∀ x, vsyncDue s s.ev.idx = some x →
      ∃ t, exec .vsync s = .next t ∧ (headOf t s.ev.idx).shown = some (x.d.frame0 + x.vs) ∧
        (headOf t s.ev.idx).pending = none ∧
        (headOf t s.ev.idx).mode = (headOf s s.ev.idx).pending.getD (headOf s s.ev.idx).mode ∧
        (∀ y ∈ t.hd.csess, y.sess.toNat = x.sess.toNat → y.lfr = BitVec.ofNat 32 (x.d.frame0 + x.vs) ∧ y.st = 3) ∧
        (∀ h, h ≠ s.ev.idx → headOf t h = headOf s h) ∧ SameBytes s t) ∧
    (s.ev.idx < 8 →
      let v : Word := BitVec.extractLsb' 0 32 s.ev.val &&& (if s.ev.idx < 2 then 0x003FFFFF else 0x003FFFFB)
      ∃ t, exec .soMode s = .next t ∧ (∀ h, h ≠ s.ev.idx → headOf t h = headOf s h) ∧
        ((v.extractLsb' 0 2 = 0 ∨ v.extractLsb' 0 2 = 1 ∧ v.extractLsb' 4 9 ≠ 0 ∧ v.extractLsb' 13 9 ≠ 0 ∧
            (v.extractLsb' 4 9).toNat ≤ 480 ∧ (v.extractLsb' 13 9).toNat ≤ 270) →
          (headOf t s.ev.idx).mode.extractLsb' 0 4 = v.extractLsb' 0 4 ∧
          (headOf t s.ev.idx).mode.extractLsb' 4 28 = (headOf s s.ev.idx).mode.extractLsb' 4 28 ∧
          (headOf t s.ev.idx).pending =
            (if v.extractLsb' 4 18 = (headOf s s.ev.idx).mode.extractLsb' 4 18 then none else some v)) ∧
        (2 ≤ (v.extractLsb' 0 2).toNat → t = s) ∧
        (v.extractLsb' 0 2 = 1 → (v.extractLsb' 4 9 = 0 ∨ v.extractLsb' 13 9 = 0 ∨ 480 < (v.extractLsb' 4 9).toNat ∨
          270 < (v.extractLsb' 13 9).toNat) → t = s)) ∧
    (∀ q, s.ev.req = some q → inCheckpoint s = false → startHeld s q = false → q.port < 12 →
      (tget Port.reset s.hd.ports q.port).up = true →
      ∃ t l a, exec .remoteAccess s = .next t ∧ t.hd.outbox = l ++ [(q.port, .answer q.src q.id a)] ∧
        a.vals.length = q.lanes.length ∧
        (∀ r, governing s q = some r → storeBytes q.op = none → (∀ ty, q.op ≠ .load ty) → t.cores = s.cores ∧ t.ms = s.ms) ∧
        (∀ r ty g x, governing s q = some r → q.op = .store ty false → landTarget s q r ty.bytes = some g → q.lanes = [x] →
          Memory.wf (s.core g.core).scratch = true → (∀ n, memGet t.ms.mem n = memGet s.ms.mem n) ∧
          memRead (t.core g.core).scratch (g.region + (r.dsto + (x.ofs - r.olo))) ty.bytes = x.x.toNat % 2 ^ (8 * ty.bytes)) ∧
        (∀ x pa ty rel, governing s q = none → q.lanes = [x] → q.op = .store ty rel →
          windowPa (countLines s q) .write x.ofs = .ok pa → Memory.wf (countLines s q).ms.mem = true →
          ∀ i, i < ty.bytes → pa % 128 + i < 128 → memGet t.ms.mem (pa + i) = BitVec.ofNat 8 (x.x.toNat / 256 ^ i))) ∧
    (∀ r, s.ev.flu = some r → inCheckpoint s = false → portUp s r.port = true → ∃ t, exec .flushRecordArrival s = .next t ∧
      (r.mark = true → t = markAt s ⟨r.die, r.sid, r.part, r.core, r.rid⟩) ∧
      (r.mark = false → s.ev.write = true → ∀ u, addCounter s .u r.doneAddr.toNat s.ev.val = .ok u → t = u)) ∧
    (∀ f, s.ev.flu = none →
      s.ms.flushes.find? (fun f => f.id == s.ev.idx && f.dest == s.hd.control.self.toNat) = some f →
      ∃ t, exec .flushRecordArrival s = .next t ∧ ∀ x ∈ t.ms.flushes, x.id ≠ s.ev.idx)

/-- R224, R328, R391, R444 to R449, R459: host accesses, host reads and writes of the register window, invalidations, errors of
memory, checkpoints and the repair of lanes. A burst that fails its link CRC is replayed up to four times. A checkpoint that has
been sealed is restored, where the region's header and state area are sound, to what its area holds, with HBM copied back. That the
event says which line and lane an error meets, that windows of correction rates end at multiples of 2^31, which reads a repair
window holds, and that a checkpoint is copied in one step with its header at an open place, is the model's choice (log entries 69,
82, 83 and 84). -/
def Obligations.HostAndTierEvents : Prop :=
  ∀ (s : State), let d := s.ev.idx
    (d < 8 → (s.ev.val = 0 ∨ s.ev.val = 1 ∧ wheelOpen s (152 + d) = true) → s.ev.write = false →
      hostHeld s s.ev.addr.toNat s.ev.idx2 = false → ∃ t l b, exec .hostMemoryAccess s = .next t ∧
        t.hd.outbox = l ++ [(hostPort, .hostData d b)] ∧ b.length = s.ev.idx2) ∧
    (d < 8 → s.ev.val = 2 → s.ev.write = false → s.ev.addr.toNat < scBase →
      exec .hostMemoryAccess s = .next (toHost s d (bytesOf s.ev.idx2 (readWindow s s.ev.addr.toNat s.ev.idx2)))) ∧
    (∀ b pa, d < 8 → s.ev.val = 0 → s.ev.write = true → inCheckpoint s = false → s.ev.data = [b] →
      hostHeld s s.ev.addr.toNat 1 = false → xlate s .s .write s.ev.addr.toNat = .ok pa →
      ∃ t, exec .hostMemoryAccess s = .next t ∧
        (Memory.wf (netAccess s (lineOf pa)).ms.mem = true → memGet t.ms.mem pa = b)) ∧
    (s.ev.addr.toNat < scBase → s.ev.data = [] → ∃ t, exec .hostRegisterWrite s = .next t ∧
      (s.ev.addr = 0 → t = writeStreamTable s s.ev.val) ∧ (s.ev.addr = 8 → t = ringDoorbell s) ∧
      (s.ev.addr = 0x400 → t.pt.pmWake = s.pt.pmWake ||| BitVec.extractLsb' 0 32 s.ev.val)) ∧
    (s.ev.addr = 4 → s.ev.data.length = 4 → exec .hostRegisterWrite s =
      .next (writeStreamTable s (BitVec.ofNat 32 (ofBytes s.ev.data) ++ s.sched.streamTable.extractLsb' 0 32))) ∧
    (∃ t, exec .tlbinv s = .next t ∧ SameBytes s t ∧ t.ms.busy = true ∧
      (s.ms.busy = true → t.ms.lost = true ∧ t.cores = s.cores ∧ t.ms.sz = s.ms.sz) ∧
      (s.ms.busy = false → t.ms.sz = (BitVec.extractLsb' 0 2 s.ev.val).toNat)) ∧
    (∃ t, exec .fclr s = .next t ∧ (engOf t s.ev.core).flt = false ∧ (engOf t s.ev.core).fcode = 0 ∧
      (engOf t s.ev.core).queue = [] ∧ (engOf t s.ev.core).acc = (engOf s s.ev.core).acc ∧
      (engOf t s.ev.core).store = (engOf s s.ev.core).store ∧ SameBytes s t) ∧
    (d < 9 → ∃ t, exec .pactlClr s = .next t ∧ (∀ a, inCounters d a = true → memGet t.ms.mem a = 0) ∧
      (∀ a, inCounters d a = false → memGet t.ms.mem a = memGet s.ms.mem a) ∧ t.ms.poisoned = s.ms.poisoned ∧ t.cores = s.cores) ∧
    (d < 9 → (dieRegs s d).win < windowsPast s → ∃ t, exec .eccRateWindow s = .next t ∧
      (dieRegs t d).win = windowsPast s ∧ (dieRegs t d).ecc.extractLsb' 0 16 = 0 ∧
      (dieRegs t d).ecc.extractLsb' 16 16 = (dieRegs s d).ecc.extractLsb' 16 16 ∧ SameBytes s t) ∧
    (∀ x, homeDie (d * 128) = some x → x < 8 →
      (∃ t, exec .patrolScrub s = .next t ∧ (s.ev.idx2 = 0 → t = s) ∧ (s.ev.idx2 = 2 → d ∈ t.ms.poisoned) ∧
        (s.ev.idx2 = 1 → t.ms = s.ms)) ∧
      (let n := Config.channelOf d
       let k := (((chanOf s n).replays.filter (fun r => decide (s.gcc ≤ r.due))).find? (fun r => r.line == d)).elim 0 (·.n)
       ∃ t, exec .hbmCrcError s = .next t ∧ s.gcc ∈ tget [] (chanOf t n).errs s.ev.idx2 ∧
        (k < 4 → ∃ r ∈ (chanOf t n).replays, r.line = d ∧ r.lane = s.ev.idx2 ∧ r.n = k + 1 ∧ s.gcc < r.due) ∧
        (4 ≤ k → (∀ r ∈ (chanOf t n).replays, r.line ≠ d) ∧
          ((chanOf t n).repairing = none → d ∈ t.ms.poisoned) ∧
          (∀ l, (chanOf t n).repairing = some l → d ∈ (chanOf t n).abandoned ∧ t.ms.poisoned = s.ms.poisoned)))) ∧
    (∀ l, (chanOf s d).repairing = some l → (chanOf s d).held = false →
      (∀ r ∈ (chanOf s d).replays, r.lane = l → r.due < s.gcc) →
      ∃ t, exec .laneRemap s = .next t ∧ (chanOf t d).held = true ∧ (chanOf t d).spares = (chanOf s d).spares - 1 ∧
        (chanOf t d).remap = (chanOf s d).remap ++ [(l, 2 - (chanOf s d).spares)] ∧
        (∀ n, n ≠ d → chanOf t n = chanOf s n) ∧ t.ms = s.ms) ∧
    ((chanOf s d).held = true → ∃ t, exec .repairWindowEnd s = .next t ∧ (chanOf t d).held = false ∧
      (∀ l, (chanOf t d).repairing = some l → 16 ≤ (recentErrs s d l).length) ∧ (chanOf t d).abandoned = [] ∧
      t.ms.misses.length = s.ms.misses.length ∧ ((chanOf s d).spares ≠ 0 → t.cores = s.cores ∧ SameBytes s t)) ∧
    (∃ t, exec .checkpointStart s = .next t ∧
      (ckptPresent s = true → (ckptSt s = 0 ∨ ckptSt s = 3) → ckptSt t = 1 ∧ ckptValid t = false) ∧
      ((ckptPresent s = false ∨ (ckptSt s ≠ 0 ∧ ckptSt s ≠ 3)) → t = s)) ∧
    (quiesced s = true → ∃ t, exec .checkpointCopy s = .next t ∧ ckptValid t = false ∧
      ckptSt t = (if s.ev.write then 4 else 2) ∧ (s.ev.write = false → ∃ x, t.pt.ckptState = some x ∧ x.root = s.ms.root ∧
        x.ptrl = s.ms.ptrl ∧ x.ptrh = s.ms.ptrh ∧ x.sched = s.sched ∧ x.fr = s.fr ∧ x.csess = s.hd.csess)) ∧
    (ckptSt s = 2 → s.ev.write = true → ∃ t, exec .checkpointSeal s = .next t ∧ ckptSt t = 4 ∧ ckptValid t = false ∧ SameBytes s t) ∧
    (ckptSt s = 2 → s.ev.write = false → ∃ t, exec .checkpointSeal s = .next t ∧ ckptSt t = 3 ∧ ckptValid t = true ∧
      t.pt.ckptStat.extractLsb' 16 16 = s.pt.ckptStat.extractLsb' 16 16 + 1 ∧
      (Memory.wf s.ms.mem = true → ∀ a, a < headerBase ∨ headerBase + 4096 ≤ a → memGet t.ms.mem a = memGet s.ms.mem a)) ∧
    (∃ t, exec .checkpointRestore s = .next t ∧
      ((ckptPresent s = false ∨ ckptValid s = false ∨ inCheckpoint s = true ∨ standing s ≠ []) → t = s)) ∧
    (let f := flushCaches s.draw.2
     let u := dropCaches (moveImage f Config.ckptBase 0)
     ckptPresent s = true → ckptValid s = true → inCheckpoint s = false → standing s = [] →
      ∃ t, exec .checkpointRestore s = .next t ∧ t.ms.mem = u.ms.mem ∧ t.ms.poisoned = u.ms.poisoned ∧
        (∀ c, (t.core c).cache = [] ∧ (t.core c).tlb = []) ∧
        (Memory.wf f.ms.mem = true → ∀ a, copied f a = true → memGet t.ms.mem a = memGet f.ms.mem (Config.ckptBase + a)) ∧
        ((s.pt.ckptState = none ∨ headerOk u = false) → ckptSt t = 4) ∧
        ∀ x, s.pt.ckptState = some x → headerOk u = true → memBytes u.ms.mem areaBase (areaBytes x.area).length = areaBytes x.area →
          ckptSt t = ckptSt s ∧ t.ms.root = x.root ∧ t.ms.ptrl = x.ptrl ∧ t.ms.ptrh = x.ptrh ∧ t.sched = x.sched ∧ t.fr = x.fr ∧
          t.hd.csess = x.csess ∧ t.hd.closed = x.closed)

/-! ## Events: start, security, power (R16, R17, R265, R450 to R458, R461 to R466) -/

/-- R450 to R457: a start ends started, in recovery mode, or with its failed step counted; a signed image leaves recovery mode; the
life cycle moves one state on; the mailbox commands end with a status; and a refused debug mode sets ERR. Provisioning writes the
identity key and its certificate, and a part without a key answers no attestation. That the failing step is open and what its
alternative leaves, which debug modes the life cycle admits with an unlock that names the mode, and when a part that runs is started
anew or has its dies 0 to 7 reset, is the model's choice (log entries 85, 87 and 114). -/
def Obligations.StartAndSecurityEvents : Prop :=
  ∀ (s : State), let m := (BitVec.extractLsb' 5 2 s.ev.val).toNat; let v : Word := BitVec.extractLsb' 0 32 s.ev.val
    (s.pt.start.started = false → s.pt.start.recovery = false →
      ∃ t, exec .powerOnStart s = .next t ∧
        (t.pt.start.started = true → t.gcc = 0 ∧ t.fr.gov = Frames.reset.gov ∧ (t.warp 130 0).status = .run ∧
          (t.warp 131 0).status = .run ∧ (t.warp 130 0).level = .f ∧ (t.warp 131 0).level = .f) ∧
        (t.pt.start.started = false → t.pt.start.recovery = false → ∃ i, i < 24 ∧ t.pt.start.journal.getD i 0 = 2)) ∧
    (s.ev.write = false → s.pt.start.started = true → ∃ t, exec .powerOnStart s = .next t ∧ t.pt.start.started = false ∧
      t.pt.start.recovery = false ∧ t.pt.start.journal = s.pt.start.journal ∧ t.pt.start.lifecycle = s.pt.start.lifecycle ∧
      t.pt.start.wipe = s.pt.start.wipe ∧ t.pt.start.ident = s.pt.start.ident ∧ t.sched = State.reset.sched ∧
      t.ms.mem = s.ms.mem ∧ ∀ c, t.core c = State.reset.core c) ∧
    (s.ev.write = true → s.pt.start.started = true → diesRest s = true →
      ∃ t, exec .powerOnStart s = .next t ∧ (∀ n, 128 ≤ n → t.core n = s.core n) ∧
        (∀ n, n < 128 → (t.core n).scratch = [] ∧ (t.core n).cache = [] ∧ (t.core n).enabled = (s.core n).enabled) ∧
        ∀ a d, homeDie a = some d →
          (8 ≤ d → memGet t.ms.mem a = memGet s.ms.mem a) ∧ (d < 8 → memGet t.ms.mem a = 0)) ∧
    (s.pt.start.recovery = true → ∃ t, exec .recoveryImageLoad s = .next t ∧
      (Config.signatureOk s.ev.data = true → t.pt.start.recovery = false ∧ t.pt.start.started = false ∧
        t.pt.start.image = some s.ev.data ∧ t.pt.start.journal = List.replicate 24 0 ∧
        t.pt.start.counts = List.replicate 24 0) ∧
      (Config.signatureOk s.ev.data = false → t = s)) ∧
    (s.pt.start.lifecycle < 3 → ∃ t, exec .lifeCycleTransition s = .next t ∧
      t.pt.start.lifecycle = s.pt.start.lifecycle + 1 ∧ (s.pt.start.lifecycle = 2 → t.pt.start.wipe = true) ∧
      (s.pt.start.lifecycle = 0 → ∃ k, t.pt.start.ident = some k ∧ t.pt.start.cert = Config.certificate k) ∧
      (s.pt.start.lifecycle ≠ 0 → t.pt.start.ident = s.pt.start.ident ∧ t.pt.start.cert = s.pt.start.cert) ∧
      t.cores = s.cores ∧ t.ms = s.ms) ∧
    (mailCmd s = 1 → Memory.wf s.pt.mailbox = true → ∃ t, exec .attest s = .next t ∧ mailCmd t = 0 ∧
      field (mailRead t 4 4) 0 4 = (if s.pt.start.ident = none then 3 else 2) ∧
      (∀ k, s.pt.start.ident = some k → t.pt.start.nonce = mailRead s 8 32 ∧ mailRead t 64 144 = reportBody s ∧
        mailRead t 208 384 = (Config.sign k (reportBody s) ++ List.replicate 384 0).take 384) ∧ t.cores = s.cores ∧ t.ms = s.ms) ∧
    (mailCmd s = 2 → Memory.wf s.pt.mailbox = true → ∃ t, exec .unlock s = .next t ∧ mailCmd t = 0 ∧
      (field (mailRead t 4 4) 0 4 = 4 ∨ field (mailRead t 4 4) 0 4 = 5 ∧ t.pt.start.unlocked = s.pt.start.unlocked) ∧
      t.cores = s.cores ∧ t.ms = s.ms) ∧
    (∃ t, exec .dbgCtlMode s = .next t ∧ OnlyCore { s with drawn := t.drawn } t s.ev.core ∧
      (debugAllowed s s.ev.core m = false → (t.core s.ev.core).dbg = 0x80#32 ||| ((s.core s.ev.core).dbg &&& 0x60) ||| (v &&& 3)) ∧
      (debugAllowed s s.ev.core m = true → (t.core s.ev.core).dbg.extractLsb' 5 2 = v.extractLsb' 5 2 ∧
        (m ≠ 2 → (t.core s.ev.core).halt = none)))

/-- R16, R17, R265, R461 to R466: the operations on a quad step through their states and set ERR where they may not act; rails, the
wake bits, WFW, the frequency and throttling. The four images of a quad, each with its CRC-32 at its end, go to its retention area
and come back from there; one that does not match its CRC leaves the quad as it was. That a request of the frequency held during a
phase gives way to a later one, and that a write of an operation which is not accepted, or for a quad that is not there, sets ERR of
the quad named so far, is the model's choice (log entries 110 and 89). -/
def Obligations.PowerEvents : Prop :=
  (∀ (s : State), let q := s.ev.idx; let x := quadState s q
    (q < 36 → q ≠ 32 →
      (∃ t, exec .quiesce s = .next t ∧ quadState t q = if x.st = 0 then { x with st := 1 } else { x with err := true }) ∧
      (x.st = 1 → quadResidents s q = [] → ∃ t, exec .quiesceDone s = .next t ∧ quadState t q = { x with st := 2 } ∧
        ∀ c ∈ quadCores q, (t.core c).hqueue = [] ∧ (t.core c).cache = []) ∧
      (∃ t, exec .saveCoreState s = .next t ∧ t = setQuad s q
        (if x.st = 2 ∧ retOk (retBase x) = true then { x with st := 3 } else { x with err := true })) ∧
      (x.st = 3 → exec .saveDone s = .next (setQuad ([0, 1, 2, 3].foldl
        (fun s p => storeSpan s (imageAt x p) (retImage (s.core (4 * q + p)))) s) q { x with st := 4 })) ∧
      (exec .restoreCoreState s = .next (setQuad s q
        (if x.st = 4 ∧ x.gate = false ∧ x.lvl = 0 ∧ x.ok = true then { x with st := 5 } else { x with err := true }))) ∧
      (x.st = 5 → let u := netAll s ([0, 1, 2, 3].flatMap (fun p => imageLines s (imageAt x p)))
        ((∃ p, p < 4 ∧ readImage u (imageAt x p) = none) →
          exec .restoreDone s = .next (setQuad u q { x with st := 4, err := true })) ∧
        ((∀ p, p < 4 → (readImage u (imageAt x p)).isSome = true) → ∃ t, exec .restoreDone s = .next t ∧
          quadState t q = { x with st := 2 } ∧ t.ms = u.ms ∧ (∀ n, n / 4 ≠ q → t.core n = u.core n) ∧
          (∀ p l, p < 4 → readImage u (imageAt x p) = some l → t.core (4 * q + p) = Core.reload l (u.core (4 * q + p))) ∧
          ∀ n, (t.core n).warps = (u.core n).warps ∧ (t.core n).scratch = (u.core n).scratch)) ∧
      (exec .readmit s = .next (setQuad s q (if x.st = 2 then { x with st := 0 } else { x with err := true }))) ∧
      (exec .pmClkGate s = .next (setQuad s q (if s.ev.write = true then
          (if x.st = 4 then { x with gate := true } else { x with err := true })
        else (if x.lvl = 0 ∧ x.ok = true then { x with gate := false } else { x with err := true })))) ∧
      (∃ t, exec .pmRailLevel s = .next t ∧ let v := s.ev.val.toNat % 4
        if x.ok = true ∧ v ≠ 3 ∧ (v = 0 ∨ x.gate = true) then
          (quadState t q).lvl = v ∧ (quadState t q).ok = false ∧
          ∃ n, (quadState t q).railDue = some n ∧ s.gcc < n ∧ n ≤ s.gcc + railBound x.lvl v
        else t = quadErr s q) ∧
      (∀ n, x.railDue = some n → n ≤ s.gcc →
        exec .railSettled s = .next (setQuad s q { x with ok := true, railDue := none }))) ∧
    (exec .pmWset s = .next { s with pt := { s.pt with pmWake := s.pt.pmWake ||| BitVec.extractLsb' 0 32 s.ev.val } }) ∧
    (phaseOpen s = false → ∃ t, exec .frequencyChange s = .next t ∧ t.pt.freq = s.ev.val.toNat ∧ t.pt.freqReq = none ∧
      ((s.ev.write = true ∨ inDomain s = false ∨ s.ev.val.toNat = s.pt.freq) →
        t = { s with pt := { s.pt with freq := s.ev.val.toNat, freqReq := none } }) ∧
      (s.ev.write = false → inDomain s = true → s.ev.val.toNat ≠ s.pt.freq →
        ∀ p, p < 12 → (tget Port.reset t.hd.ports p).up = false)) ∧
    (phaseOpen s = true → exec .frequencyChange s =
      .next { s with pt := { s.pt with freqReq := some (s.ev.val.toNat, s.ev.write) } }) ∧
    (exec .powerThrottle s = .next { s with pt := { s.pt with throttle := s.ev.write } })) ∧
  (∀ (s : State) (o : S3), flagOn s.me o.g = true → s.me.region = none → s.me.susp = .none →
    ∃ t, exec (.wfw o) s = .next t ∧ t.cur.switch = true ∧
      t.me.susp = .wfw (if sGet s.me o.a = 0 then none else some (s.gcc + (sGet s.me o.a).toNat)) (o.b.val s.me) o.d ∧
      SameScalars s.me t.me ∧ SameFlow s.me t.me ∧ SameSpecial s.me t.me ∧ SameOthers s t ∧ SameOutside s t ∧ SameBytes s t) ∧
  (∀ (s : State) (c w : Nat) (m : Word) (d : BitVec 7), (s.warp c w).found = some (m, d) →
    ((s.warp c w).status = .run → (s.core c).gated = false ∧ (s.core c).free ≤ s.gcc + 1) →
    let t := readWfw s c w
    (t.warp c w).found = none ∧ t.pt.pmWake = s.pt.pmWake &&& ~~~m ∧
    ∀ n, sGet (t.warp c w) n = if n = d ∧ n ≠ 0 then s.pt.pmWake &&& m else sGet (s.warp c w) n) ∧
  (∀ (s : State) (v : Word), let q := (v.extractLsb' 8 6).toNat; let n := (v.extractLsb' 0 3).toNat; let x := quadState s q
    ((q = 32 ∨ 35 < q ∨ opOk x n = false) → writeQctl s v = quadErr s s.pt.qsel) ∧
    (q ≠ 32 → q ≤ 35 → opOk x n = true → (writeQctl s v).pt.qsel = q ∧ quadState (writeQctl s v) q = { x with
      st := if n = 1 then 1 else if n = 2 then 3 else if n = 3 then 5 else if n = 4 then 0 else x.st })) ∧
  ∀ k, let l := retImage k
    4 ≤ l.length ∧ l.length ≤ 0x40000 ∧ l.drop (l.length - 4) = bytesOf 4 (crc32 (l.take (l.length - 4))).toNat

/-! ## Encodings (R22 to R46, R208) -/

/-- The words of the worked examples decode to what the examples say they stand for (R41 to R44, and the examples of the bundle,
loop, branch, reduction, memory, matrix, texture and transfer chapters). -/
def Obligations.WordsOfTheExamplesDecode : Prop :=
  (∀ lv r, let a := (⟨false, 0⟩ : Guard)
    decodeSlot .sa lv r 0x0100A1600800 none = .ok (.iadd ⟨a, 5, 5, .imm 16⟩) ∧
    decodeSlot .va lv r 0x01003004A32A none = .ok (.fadd ⟨a, .v 12, .v 4, .latch 4, true, false, true, 2⟩) ∧
    decodeSlot .ma lv r 0x05005080A080 none = .ok (.ldM .b32 ⟨a, .v 20, 1, .v 5, 64, false⟩) ∧
    decodeSlot .sa lv r 0x460000200282 none = .ok (.loop a (.imm 5) 2) ∧
    decodeSlot .sa lv r 0x470100200180 none = .ok (.lstr a 8 (.imm 3) 0 false) ∧
    decodeSlot .sa lv r 0x420000018000 (some 0x000301000200) = .ok (.brd a 96 ⟨false, 3⟩ 0x0100 0x0200) ∧
    decodeSlot .xe lv r 0x240007000000 none = .ok (.rclr a 1 .zero) ∧
    decodeSlot .xe lv r 0x200A4406C900 none = .ok (.redAdd ⟨a, 1, .v 6, false, true, .f32, 4⟩) ∧
    decodeSlot .xe lv r 0x23005291C100 none = .ok (.rdrn a (.v 20) 1 4 false 0) ∧
    decodeSlot .mb lv r 0x801030010002 none = .ok (.redAddF32 ⟨⟨false, 1⟩, .v 12, 0, .v 8, 0, 1, false⟩) ∧
    decodeSlot .mb lv r 0x890000428004 none = .ok (.flushrOrdered a (.s 20) 0 2 false) ∧
    decodeSlot .xe lv r 0x400C1700000A none = .ok (.mcall ⟨a, 0, true, 2⟩ (.imm 5) (.imm 0)) ∧
    decodeSlot .xe lv r 0x5800620A000B none = .ok (.texS ⟨a, 0, true, 3⟩ 24 10) ∧
    decodeSlot .sa lv r 0x500000200400 none = .ok (.waita a 8 0) ∧
    decodeSlot .ma lv r 0x060050010000 none = .ok (.ldt ⟨a, .v 20, 0, .v 8, 0, false⟩) ∧
    decodeSlot .ma lv r 0xB000A0686006 none = .ok (.tsend a (.v 40) (.imm 67) 3) ∧
    decodeSlot .ma lv r 0xB200A4606064 none = .ok (.trecv a (.v 41) 3 50)) ∧
  decodeStep 0x1000000010000000 = some (.ldsb ⟨false, 0⟩ false 0 0 1 0) ∧ decodeStep 0xA000000000000000 = some .swap ∧
  decodeStep 0x3014000000600000 = some (.strm ⟨false, 0⟩ 40 0 false 0 3) ∧ decodeStep 0xB000000000000000 = some .sync ∧
  decodeStep 0x6000000000660000 = some (.drn ⟨false, 0⟩ false 0 3 0 true true) ∧ decodeStep 0xC000000000000000 = some .endStep

/-- R40: an opcode that the class of a slot does not assign raises illegal opcode, 0x00 in every class; SB accepts of 0x40 to 0x7F
only the five that R28 admits; and an assigned opcode never raises it. -/
def Obligations.UnassignedOpcodesTrap : Prop :=
  decCause .illegalOpcode = .illegalOpcode ∧
  ∀ (sl : Slot) (lv : Level) (r : Bool) (w : SlotWord) (bw : Option SlotWord),
    let op := (w.extractLsb' 40 8).toNat
    let at_ (lo hi : Nat) : Prop := lo ≤ op ∧ op ≤ hi
    let assigned : Prop := match sl with
      | .sa => at_ 0x01 0x20 ∨ at_ 0x40 0x4A ∨ at_ 0x50 0x55 ∨ at_ 0x60 0x6B
      | .sb => at_ 0x01 0x20 ∨ op = 0x50 ∨ op = 0x52 ∨ op = 0x53 ∨ op = 0x63 ∨ op = 0x64
      | .va | .vb | .vc => at_ 0x01 0x09 ∨ at_ 0x10 0x17 ∨ at_ 0x20 0x27 ∨ at_ 0x40 0x4F ∨ at_ 0x50 0x5A ∨ at_ 0x60 0x69 ∨
          at_ 0x70 0x79
      | .xe => at_ 0x01 0x08 ∨ at_ 0x11 0x18 ∨ at_ 0x20 0x24 ∨ at_ 0x40 0x46 ∨ at_ 0x50 0x54 ∨ at_ 0x58 0x5B ∨ at_ 0x60 0x64
      | .ma | .mb => at_ 0x01 0x06 ∨ at_ 0x08 0x0A ∨ at_ 0x11 0x15 ∨ at_ 0x18 0x1A ∨ at_ 0x1C 0x22 ∨ at_ 0x40 0x4B ∨
          at_ 0x50 0x59 ∨ at_ 0x60 0x6B ∨ at_ 0x70 0x79 ∨ at_ 0x80 0x84 ∨ at_ 0x88 0x89 ∨ at_ 0x90 0x91 ∨ at_ 0x98 0x9A ∨
          at_ 0xA0 0xA2 ∨ at_ 0xB0 0xB2
    decodeSlot sl lv r w bw = .error .illegalOpcode ↔ ¬ assigned

/-- R46: ERET, SEGW and PRMT need level S or F, and WFW level F; at a lower level the word raises privilege violation, whatever its
other fields hold, and no other opcode asks for a level. -/
def Obligations.OpcodesThatNeedALevel : Prop :=
  decCause .privilege = .privilegeViolation ∧
  ∀ (sl : Slot) (lv : Level) (r : Bool) (w : SlotWord) (bw : Option SlotWord),
    let op := (w.extractLsb' 40 8).toNat
    let sf : Prop := sl = .sa ∧ (op = 0x62 ∨ op = 0x65 ∨ op = 0x66)
    let f : Prop := sl = .sa ∧ op = 0x67
    ((sf ∧ lv = .u ∨ f ∧ lv ≠ .f) → decodeSlot sl lv r w bw = .error .privilege) ∧
    (¬ (sf ∧ lv = .u ∨ f ∧ lv ≠ .f) → decodeSlot sl lv r w bw = decodeSlot sl .f r w bw ∧
      decodeSlot sl lv r w bw ≠ .error .privilege)

/-- R45: the X-form commands whose arrival is required have words with AE = 1 alone, those with no arrival words with AE = 0 alone,
and those whose arrival is optional have both. -/
def Obligations.ArrivalFieldsOfCommands : Prop :=
  ∀ (op : Nat) (lv : Level) (r ae : Bool),
    let required : Prop := op = 0x43 ∨ op = 0x46 ∨ op = 0x50 ∨ op = 0x51 ∨ op = 0x52 ∨ op = 0x58 ∨ op = 0x59 ∨ op = 0x5A ∨
      op = 0x5B ∨ op = 0x62 ∨ op = 0x64
    let optional : Prop := op = 0x40 ∨ op = 0x45 ∨ op = 0x53 ∨ op = 0x54 ∨ op = 0x60 ∨ op = 0x61
    let never : Prop := op = 0x41 ∨ op = 0x42 ∨ op = 0x44 ∨ op = 0x63
    (required ∨ optional ∨ never) →
      ((∃ w bw i, (w.extractLsb' 40 8).toNat = op ∧ w.getLsbD 3 = ae ∧ decodeSlot .xe lv r w bw = .ok i) ↔
        (required → ae = true) ∧ (never → ae = false))

/-- Every well-formed instruction of the S and V classes comes back from its slot word, with every operand, in each slot that takes
it (R31 to R33, R38, R39, R41, R42). -/
def Obligations.ScalarAndVectorWordsRoundTrip : Prop :=
  ∀ (i : Instr) (sl : Slot) (r : Bool), i.wf r = true → slotAccepts i sl = true →
    (sl = .sa ∨ sl = .sb ∨ sl = .va ∨ sl = .vb ∨ sl = .vc) →
    ∃ w bw, encodeSlot i = some (w, bw) ∧ decodeSlot sl .f r w bw = .ok i

/-- Every well-formed instruction of the X and M classes comes back from its slot word, and every step of a matrix routine from its
step word (R34 to R36, R43 to R45, R208, R209). -/
def Obligations.EngineAndMemoryWordsRoundTrip : Prop :=
  (∀ (i : Instr) (sl : Slot) (r : Bool), i.wf r = true → slotAccepts i sl = true → (sl = .xe ∨ sl = .ma ∨ sl = .mb) →
    ∃ w bw, encodeSlot i = some (w, bw) ∧ decodeSlot sl .f r w bw = .ok i) ∧
  (∀ (i : Instr) (w : BitVec 64), encodeStep i = some w → decodeStep w = some i)

/-! ## Bundles and steps (R22 to R27, R47, R256, R267) -/

/-- R24 to R27, R47, R256: a bundle that a core presents in a cycle traps on a bad head or a slot word that does not decode, and
else takes its slots in order; one that FI or LI holds back takes none of them; an idle bundle changes nothing but its entry's
address, the budget and the cycle at which the core issues again. That a bundle which breaches both R114 and R123 takes the illegal
bundle, and that a bundle held back by FI or LI still takes R123's timing fault, is the model's choice (log entry 106), and so is
that a hold for a full engine queue is a delay (126). -/
def Obligations.BundleResults : Prop :=
  ∀ (s : State) (b : Bundle) (w : Nat) (e : Entry) (bs : List Byte), nextIssue s s.ev.core = some (w, e) → s.ev.idx2 = 0 →
    s.ev.write = false →
    let t := beginBundle s s.ev.core w e b.head
    t.me.after = none → budgetOf t ≠ 0 → regionAsk t = .ok false → t.me.engLate = false →
    (t.myCore.dbg.getLsbD 0 = true → t.cur.pc ≠ t.myCore.bph ++ t.myCore.bpl) →
    let takes (l : List (Slot × Instr)) : Prop :=
      let s1 := startReplay t
      let u := releaseAll (countBudget s1) (bundleDead s1 l)
      (∀ tr n, runSlots s1 l u = .error (tr, n) → exec (.bundleIssue b) s = .next (trapHere s1 tr n)) ∧
      (∀ v, runSlots s1 l u = .ok v → v.cur.stall = .queue →
        ∃ x, exec (.bundleIssue b) s = .next x ∧ SameScalars s1.me x.me ∧ SameFlow s1.me x.me ∧ x.myCore.free = s.gcc + 1 ∧
          SameBytes t x) ∧
      (∀ v x n, runSlots s1 l u = .ok v → v.cur.stall = .none → advance (applySigma s1 v (headHold b.head)) = (x, n) →
        (x.myCore.pwOf x.cur.warp).length ≤ 48 →
        exec (.bundleIssue b) s =
          .next (roleAfter (occupy (noteAfter (dropWalks (countDrain (recordTrace (countFetch x))))) b.head n)))
    (∀ n, fetchBytes t s.ev.core w t.me.level e.pc 2 = .fault n →
      exec (.bundleIssue b) s = .next (trapHere t ⟨.fetchFault, n, e.pc, 0, 3, []⟩ 0xFF)) ∧
    (fetchBytes t s.ev.core w t.me.level e.pc 2 = .miss → exec (.bundleIssue b) s = .next (holdFetch t)) ∧
    (fetchBytes t s.ev.core w t.me.level e.pc 2 = .ok bs →
      (headOk e.pc.toNat b.head = false → exec (.bundleIssue b) s = .next (trapHere t (.of .illegalBundle) 0xFF)) ∧
      (headOk e.pc.toNat b.head = true → heldBack t.me b.head = true →
        (badLoopEnd t = true → exec (.bundleIssue b) s = .next (trapHere t (.of .loopFault) 0xFF)) ∧
        (badLoopEnd t = false → takes [])) ∧
      (headOk e.pc.toNat b.head = true → heldBack t.me b.head = false →
        (∀ x sl, b.slots t.me.level t.me.region.isSome = .error (x, sl) →
          exec (.bundleIssue b) s = .next (trapHere t (.of (decCause x)) sl.num)) ∧
        (∀ l, b.slots t.me.level t.me.region.isSome = .ok l → badDelay t.me l = true →
          exec (.bundleIssue b) s = .next (trapHere t (.of .illegalBundle) 0)) ∧
        (∀ l, b.slots t.me.level t.me.region.isSome = .ok l → badDelay t.me l = false → badLoopEnd t = true →
          exec (.bundleIssue b) s = .next (trapHere t (.of .loopFault) 0xFF)) ∧
        (∀ l, b.slots t.me.level t.me.region.isSome = .ok l → badDelay t.me l = false → badLoopEnd t = false →
          t.me.delayed = 0 → 0 < portDelay (bundleReads t l) →
          ∃ x, exec (.bundleIssue b) s = .next x ∧ x.me.delayed = portDelay (bundleReads t l) ∧
            x.myCore.free = s.gcc + portDelay (bundleReads t l) ∧ SameBytes t x) ∧
        (∀ l, b.slots t.me.level t.me.region.isSome = .ok l → badDelay t.me l = false → badLoopEnd t = false →
          (portDelay (bundleReads t l) = 0 ∨ t.me.delayed ≠ 0) → takes l)) ∧
      (headOk e.pc.toNat b.head = true → headSlots b.head = [] → t.me.loops = [] → t.me.dl = 0 → t.me.spilled = [] →
        t.me.replay = false →
        t.me.entries = [e] → e.wait = .none → t.me.susp = .none → (t.myCore.pwOf w).length ≤ 48 →
        (∀ d ∈ t.pt.dies, d.2.pactl.getLsbD 0 = false) →
        ∃ x, exec (.idleBundle b.head) s = .next x ∧
          x.me.entries.map (·.pc) = [BitVec.ofNat 64 (nextPc e.pc.toNat b.head)] ∧ x.me.entries.map (·.mask) = [e.mask] ∧
          x.myCore.free = s.gcc + 1 + headHold b.head ∧ x.gcc = s.gcc ∧
          budgetOf x = (if budgetOf t = 0xFFFFFFFFFFFFFFFF then budgetOf t else budgetOf t - 1) ∧ SameScalars t.me x.me ∧
          SameBuffers t.me x.me ∧
          (∀ n, vGet x.myCore x.me n = vGet t.myCore t.me n) ∧ SameBytes t x))

/-- A step of the part at a core's turn runs the instruction that the bytes at the address of its issuing entry decode to, with the
turn moved past that core; and from reset, a placed word runs as the first instruction. The cursor that goes through the cycle
(log entry 5) and the way in which a placed word runs from reset (log entry 4) are the model's choice. -/
def Obligations.StepRunsTheDecodedBundle : Prop :=
  (∀ (s : State) (c w : Nat) (e : Entry) (h l : List Byte) (b : Bundle) (i : Instr),
    s.pt.start.started = true → s.pt.throttle = false → s.agenda = [] → 2 ≤ s.cursor → s.cursor < 146 →
    nextTurn s = some (c, i) → nextIssue s c = some (w, e) →
    let t := beginBundle s c w e 0
    t.me.after = none → budgetOf t ≠ 0 → (∀ r, regionAsk t ≠ .enter r) →
    fetchBytes t c w t.me.level e.pc 2 = .ok h → fetchBytes t c w t.me.level e.pc (bundleLen (BitVec.ofNat 16 (leNat h))) = .ok l →
    l.take 2 = h → decodeBundle l = some b → b.instr.wf t.me.region.isSome = true →
    step s = exec b.instr { s with ev := Ev.ofCore c, cursor := c + 3 }) ∧
  (∀ (nbits w : Nat) (i : Instr), decodeTableWord nbits w = some i →
    let s := State.reset.withFetchWord nbits w
    step s = exec i { s with ev := Ev.ofCore 0, cursor := 3 })

/-! ## Reset, and what every step keeps -/

/-- The values that the spec gives for reset (R376 to R379, R404, R439, R444, R445, R450, R461), and the canonical form of every
memory. That the clock stands at the 2.25 GHz of R16 from reset on, and that an empty warp slot holds the values with which a
warp starts (R82, R364), is the model's choice (log entries 93 and 2). -/
def Obligations.ResetValues : Prop :=
  let s := State.reset
  Memory.wf s.ms.mem = true ∧ Memory.wf s.pt.mailbox = true ∧ (∀ c, Memory.wf (s.core c).scratch = true) ∧
  (∀ d, (dieRegs s d).pactl = 0xFFFF0000 ∧ (dieRegs s d).ecc = 0x00400000) ∧
  (∀ q, quadState s q = { quadState s q with st := 0, err := false, gate := false, lvl := 0, ok := true }) ∧
  s.fr.stepcyc = 1048576 ∧ s.rg.ringsl = 0 ∧ s.rg.ringsh = 0 ∧ s.rg.ringfl = 0 ∧ s.rg.ringfh = 0 ∧ s.rg.ringsc = 0 ∧
  s.rg.ringfc = 0 ∧ s.pt.ckptStat = 0 ∧ s.pt.pmWake = 0 ∧ s.pt.freq = 2250000000 ∧ s.pt.start.started = false ∧ s.pt.start.journal = List.replicate 24 0 ∧
  (∀ c w, (s.warp c w).fmode = 0x80 ∧ (s.warp c w).fexc = 0 ∧ (s.warp c w).stretch = 0)

/-- Device memory keeps its canonical form in every step of the part. -/
def Obligations.MemoryStaysCanonical : Prop :=
  ∀ (s t : State), Memory.wf s.ms.mem = true → step s = .next t → Memory.wf t.ms.mem = true
end

