-- ==== Sys2Proof/Laws/State.lean ====
section
/-!
SUPPORT. What each named update of the state leaves alone, one lemma for each field, and what it gives where it writes.
-/
namespace Sys2Proof.Machine

/-! ## Sparse tables -/

@[simp] theorem tget?_tset_self {α : Type} (t : Table α) (k : Nat) (v : α) : tget? (tset t k v) k = some v := by
  induction t with
  | nil => simp [tset, tget?]
  | cons x r ih =>
    obtain ⟨k', v'⟩ := x
    simp only [tset]
    split
    · simp [tget?]
    · split
      · simp [tget?]
      · next h1 h2 => rw [tget?, if_neg (fun h => h2 h.symm), ih]

theorem tget?_tset_other {α : Type} (t : Table α) (k j : Nat) (v : α) (h : j ≠ k) :
    tget? (tset t k v) j = tget? t j := by
  induction t with
  | nil => simp [tset, tget?, Ne.symm h]
  | cons x r ih =>
    obtain ⟨k', v'⟩ := x
    simp only [tset]
    split
    · simp [tget?, Ne.symm h]
    · split
      · next h2 => subst h2; simp [tget?, Ne.symm h]
      · simp only [tget?, ih]

@[simp] theorem tget?_tdel_self {α : Type} (t : Table α) (k : Nat) : tget? (tdel t k) k = none := by
  induction t with
  | nil => rfl
  | cons x r ih =>
    obtain ⟨k', v'⟩ := x
    simp only [tdel]
    split
    · exact ih
    · next h => rw [tget?, if_neg h, ih]

theorem tget?_tdel_other {α : Type} (t : Table α) (k j : Nat) (h : j ≠ k) : tget? (tdel t k) j = tget? t j := by
  induction t with
  | nil => rfl
  | cons x r ih =>
    obtain ⟨k', v'⟩ := x
    simp only [tdel]
    split
    · next hk => subst hk; rw [ih, tget?, if_neg (Ne.symm h)]
    · simp only [tget?, ih]

@[simp] theorem tget_tset_self {α : Type} (d : α) (t : Table α) (k : Nat) (v : α) : tget d (tset t k v) k = v := by
  simp [tget]

theorem tget_tset_other {α : Type} (d : α) (t : Table α) (k j : Nat) (v : α) (h : j ≠ k) :
    tget d (tset t k v) j = tget d t j := by
  simp [tget, tget?_tset_other t k j v h]

/-! ## Updates of the state -/

@[simp] theorem State.updCore_gcc (s : State) (c : Nat) (f : Core → Core) : (s.updCore c f).gcc = s.gcc := rfl
@[simp] theorem State.updCore_ev (s : State) (c : Nat) (f : Core → Core) : (s.updCore c f).ev = s.ev := rfl
@[simp] theorem State.updCore_cur (s : State) (c : Nat) (f : Core → Core) : (s.updCore c f).cur = s.cur := rfl
@[simp] theorem State.updCore_agenda (s : State) (c : Nat) (f : Core → Core) : (s.updCore c f).agenda = s.agenda := rfl
@[simp] theorem State.updCore_cursor (s : State) (c : Nat) (f : Core → Core) : (s.updCore c f).cursor = s.cursor := rfl
@[simp] theorem State.updCore_drawn (s : State) (c : Nat) (f : Core → Core) : (s.updCore c f).drawn = s.drawn := rfl
@[simp] theorem State.updCore_nextId (s : State) (c : Nat) (f : Core → Core) : (s.updCore c f).nextId = s.nextId := rfl
@[simp] theorem State.updCore_ms (s : State) (c : Nat) (f : Core → Core) : (s.updCore c f).ms = s.ms := rfl
@[simp] theorem State.updCore_sched (s : State) (c : Nat) (f : Core → Core) : (s.updCore c f).sched = s.sched := rfl
@[simp] theorem State.updCore_fr (s : State) (c : Nat) (f : Core → Core) : (s.updCore c f).fr = s.fr := rfl
@[simp] theorem State.updCore_hd (s : State) (c : Nat) (f : Core → Core) : (s.updCore c f).hd = s.hd := rfl
@[simp] theorem State.updCore_rg (s : State) (c : Nat) (f : Core → Core) : (s.updCore c f).rg = s.rg := rfl
@[simp] theorem State.updCore_pt (s : State) (c : Nat) (f : Core → Core) : (s.updCore c f).pt = s.pt := rfl

@[simp] theorem State.updWarp_gcc (s : State) (c w : Nat) (f : Warp → Warp) : (s.updWarp c w f).gcc = s.gcc := rfl
@[simp] theorem State.updWarp_ev (s : State) (c w : Nat) (f : Warp → Warp) : (s.updWarp c w f).ev = s.ev := rfl
@[simp] theorem State.updWarp_cur (s : State) (c w : Nat) (f : Warp → Warp) : (s.updWarp c w f).cur = s.cur := rfl
@[simp] theorem State.updWarp_agenda (s : State) (c w : Nat) (f : Warp → Warp) : (s.updWarp c w f).agenda = s.agenda := rfl
@[simp] theorem State.updWarp_cursor (s : State) (c w : Nat) (f : Warp → Warp) : (s.updWarp c w f).cursor = s.cursor := rfl
@[simp] theorem State.updWarp_drawn (s : State) (c w : Nat) (f : Warp → Warp) : (s.updWarp c w f).drawn = s.drawn := rfl
@[simp] theorem State.updWarp_nextId (s : State) (c w : Nat) (f : Warp → Warp) : (s.updWarp c w f).nextId = s.nextId := rfl
@[simp] theorem State.updWarp_ms (s : State) (c w : Nat) (f : Warp → Warp) : (s.updWarp c w f).ms = s.ms := rfl
@[simp] theorem State.updWarp_sched (s : State) (c w : Nat) (f : Warp → Warp) : (s.updWarp c w f).sched = s.sched := rfl
@[simp] theorem State.updWarp_fr (s : State) (c w : Nat) (f : Warp → Warp) : (s.updWarp c w f).fr = s.fr := rfl
@[simp] theorem State.updWarp_hd (s : State) (c w : Nat) (f : Warp → Warp) : (s.updWarp c w f).hd = s.hd := rfl
@[simp] theorem State.updWarp_rg (s : State) (c w : Nat) (f : Warp → Warp) : (s.updWarp c w f).rg = s.rg := rfl
@[simp] theorem State.updWarp_pt (s : State) (c w : Nat) (f : Warp → Warp) : (s.updWarp c w f).pt = s.pt := rfl

@[simp] theorem State.updMe_gcc (s : State) (f : Warp → Warp) : (s.updMe f).gcc = s.gcc := rfl
@[simp] theorem State.updMe_ev (s : State) (f : Warp → Warp) : (s.updMe f).ev = s.ev := rfl
@[simp] theorem State.updMe_cur (s : State) (f : Warp → Warp) : (s.updMe f).cur = s.cur := rfl
@[simp] theorem State.updMe_agenda (s : State) (f : Warp → Warp) : (s.updMe f).agenda = s.agenda := rfl
@[simp] theorem State.updMe_cursor (s : State) (f : Warp → Warp) : (s.updMe f).cursor = s.cursor := rfl
@[simp] theorem State.updMe_drawn (s : State) (f : Warp → Warp) : (s.updMe f).drawn = s.drawn := rfl
@[simp] theorem State.updMe_nextId (s : State) (f : Warp → Warp) : (s.updMe f).nextId = s.nextId := rfl
@[simp] theorem State.updMe_ms (s : State) (f : Warp → Warp) : (s.updMe f).ms = s.ms := rfl
@[simp] theorem State.updMe_sched (s : State) (f : Warp → Warp) : (s.updMe f).sched = s.sched := rfl
@[simp] theorem State.updMe_fr (s : State) (f : Warp → Warp) : (s.updMe f).fr = s.fr := rfl
@[simp] theorem State.updMe_hd (s : State) (f : Warp → Warp) : (s.updMe f).hd = s.hd := rfl
@[simp] theorem State.updMe_rg (s : State) (f : Warp → Warp) : (s.updMe f).rg = s.rg := rfl
@[simp] theorem State.updMe_pt (s : State) (f : Warp → Warp) : (s.updMe f).pt = s.pt := rfl

@[simp] theorem State.updMyCore_gcc (s : State) (f : Core → Core) : (s.updMyCore f).gcc = s.gcc := rfl
@[simp] theorem State.updMyCore_ev (s : State) (f : Core → Core) : (s.updMyCore f).ev = s.ev := rfl
@[simp] theorem State.updMyCore_cur (s : State) (f : Core → Core) : (s.updMyCore f).cur = s.cur := rfl
@[simp] theorem State.updMyCore_agenda (s : State) (f : Core → Core) : (s.updMyCore f).agenda = s.agenda := rfl
@[simp] theorem State.updMyCore_cursor (s : State) (f : Core → Core) : (s.updMyCore f).cursor = s.cursor := rfl
@[simp] theorem State.updMyCore_drawn (s : State) (f : Core → Core) : (s.updMyCore f).drawn = s.drawn := rfl
@[simp] theorem State.updMyCore_nextId (s : State) (f : Core → Core) : (s.updMyCore f).nextId = s.nextId := rfl
@[simp] theorem State.updMyCore_ms (s : State) (f : Core → Core) : (s.updMyCore f).ms = s.ms := rfl
@[simp] theorem State.updMyCore_sched (s : State) (f : Core → Core) : (s.updMyCore f).sched = s.sched := rfl
@[simp] theorem State.updMyCore_fr (s : State) (f : Core → Core) : (s.updMyCore f).fr = s.fr := rfl
@[simp] theorem State.updMyCore_hd (s : State) (f : Core → Core) : (s.updMyCore f).hd = s.hd := rfl
@[simp] theorem State.updMyCore_rg (s : State) (f : Core → Core) : (s.updMyCore f).rg = s.rg := rfl
@[simp] theorem State.updMyCore_pt (s : State) (f : Core → Core) : (s.updMyCore f).pt = s.pt := rfl

@[simp] theorem State.updGroup_gcc (s : State) (h : Nat) (f : Group → Group) : (s.updGroup h f).gcc = s.gcc := rfl
@[simp] theorem State.updGroup_ev (s : State) (h : Nat) (f : Group → Group) : (s.updGroup h f).ev = s.ev := rfl
@[simp] theorem State.updGroup_cur (s : State) (h : Nat) (f : Group → Group) : (s.updGroup h f).cur = s.cur := rfl
@[simp] theorem State.updGroup_agenda (s : State) (h : Nat) (f : Group → Group) : (s.updGroup h f).agenda = s.agenda := rfl
@[simp] theorem State.updGroup_cursor (s : State) (h : Nat) (f : Group → Group) : (s.updGroup h f).cursor = s.cursor := rfl
@[simp] theorem State.updGroup_drawn (s : State) (h : Nat) (f : Group → Group) : (s.updGroup h f).drawn = s.drawn := rfl
@[simp] theorem State.updGroup_nextId (s : State) (h : Nat) (f : Group → Group) : (s.updGroup h f).nextId = s.nextId := rfl
@[simp] theorem State.updGroup_cores (s : State) (h : Nat) (f : Group → Group) : (s.updGroup h f).cores = s.cores := rfl
@[simp] theorem State.updGroup_ms (s : State) (h : Nat) (f : Group → Group) : (s.updGroup h f).ms = s.ms := rfl
@[simp] theorem State.updGroup_fr (s : State) (h : Nat) (f : Group → Group) : (s.updGroup h f).fr = s.fr := rfl
@[simp] theorem State.updGroup_hd (s : State) (h : Nat) (f : Group → Group) : (s.updGroup h f).hd = s.hd := rfl
@[simp] theorem State.updGroup_rg (s : State) (h : Nat) (f : Group → Group) : (s.updGroup h f).rg = s.rg := rfl
@[simp] theorem State.updGroup_pt (s : State) (h : Nat) (f : Group → Group) : (s.updGroup h f).pt = s.pt := rfl

@[simp] theorem State.updGrid_gcc (s : State) (i : Nat) (f : Grid → Grid) : (s.updGrid i f).gcc = s.gcc := rfl
@[simp] theorem State.updGrid_ev (s : State) (i : Nat) (f : Grid → Grid) : (s.updGrid i f).ev = s.ev := rfl
@[simp] theorem State.updGrid_cur (s : State) (i : Nat) (f : Grid → Grid) : (s.updGrid i f).cur = s.cur := rfl
@[simp] theorem State.updGrid_agenda (s : State) (i : Nat) (f : Grid → Grid) : (s.updGrid i f).agenda = s.agenda := rfl
@[simp] theorem State.updGrid_cursor (s : State) (i : Nat) (f : Grid → Grid) : (s.updGrid i f).cursor = s.cursor := rfl
@[simp] theorem State.updGrid_drawn (s : State) (i : Nat) (f : Grid → Grid) : (s.updGrid i f).drawn = s.drawn := rfl
@[simp] theorem State.updGrid_nextId (s : State) (i : Nat) (f : Grid → Grid) : (s.updGrid i f).nextId = s.nextId := rfl
@[simp] theorem State.updGrid_cores (s : State) (i : Nat) (f : Grid → Grid) : (s.updGrid i f).cores = s.cores := rfl
@[simp] theorem State.updGrid_ms (s : State) (i : Nat) (f : Grid → Grid) : (s.updGrid i f).ms = s.ms := rfl
@[simp] theorem State.updGrid_fr (s : State) (i : Nat) (f : Grid → Grid) : (s.updGrid i f).fr = s.fr := rfl
@[simp] theorem State.updGrid_hd (s : State) (i : Nat) (f : Grid → Grid) : (s.updGrid i f).hd = s.hd := rfl
@[simp] theorem State.updGrid_rg (s : State) (i : Nat) (f : Grid → Grid) : (s.updGrid i f).rg = s.rg := rfl
@[simp] theorem State.updGrid_pt (s : State) (i : Nat) (f : Grid → Grid) : (s.updGrid i f).pt = s.pt := rfl

@[simp] theorem State.updCore_core (s : State) (c : Nat) (f : Core → Core) : (s.updCore c f).core c = f (s.core c) := by
  simp [State.updCore, State.core]

theorem State.updCore_core_other (s : State) (c j : Nat) (f : Core → Core) (h : j ≠ c) :
    (s.updCore c f).core j = s.core j := by
  simp [State.updCore, State.core, tget_tset_other _ _ _ _ _ h]

@[simp] theorem Core.updWarp_warp (k : Core) (w : Nat) (f : Warp → Warp) : (k.updWarp w f).warp w = f (k.warp w) := by
  simp [Core.updWarp, Core.warp]

theorem Core.updWarp_warp_other (k : Core) (w j : Nat) (f : Warp → Warp) (h : j ≠ w) :
    (k.updWarp w f).warp j = k.warp j := by
  simp [Core.updWarp, Core.warp, tget_tset_other _ _ _ _ _ h]

@[simp] theorem State.updWarp_warp (s : State) (c w : Nat) (f : Warp → Warp) :
    (s.updWarp c w f).warp c w = f (s.warp c w) := by
  simp [State.updWarp, State.warp]

@[simp] theorem State.updMe_me (s : State) (f : Warp → Warp) : (s.updMe f).me = f s.me := by
  simp [State.updMe, State.me]

@[simp] theorem State.updMyCore_myCore (s : State) (f : Core → Core) : (s.updMyCore f).myCore = f s.myCore := by
  simp [State.updMyCore, State.myCore]

@[simp] theorem State.updGroup_group (s : State) (h : Nat) (f : Group → Group) :
    (s.updGroup h f).group h = f (s.group h) := by
  simp [State.updGroup, State.group]

@[simp] theorem State.updGrid_grid (s : State) (i : Nat) (f : Grid → Grid) : (s.updGrid i f).grid i = f (s.grid i) := by
  simp [State.updGrid, State.grid]

/-! ## Queueing a result -/

/-- A queued result adds one pending write to the issuing core. -/
theorem pend_pw (s : State) (lat : Nat) (wr : Write) :
    (pend s lat wr).myCore.pw = s.myCore.pw ++ [⟨s.cur.warp, s.cur.slot.num, lat, false, none, 0, false, false, wr, none⟩] := by
  have h : (pend s lat wr).myCore = (s.updMyCore (fun k =>
    { k with pw := k.pw ++ [⟨s.cur.warp, s.cur.slot.num, lat, false, none, 0, false, false, wr, none⟩] })).myCore := rfl
  rw [h, State.updMyCore_myCore]

/-- A queued result changes no warp. -/
@[simp] theorem pend_warp (s : State) (lat : Nat) (wr : Write) (c w : Nat) : (pend s lat wr).warp c w = s.warp c w := by
  by_cases h : c = s.cur.core
  · subst h; simp [pend, State.updMyCore, State.warp, Core.warp]
  · simp [pend, State.updMyCore, State.warp, State.updCore_core_other _ _ _ _ h]

@[simp] theorem pend_me (s : State) (lat : Nat) (wr : Write) : (pend s lat wr).me = s.me := by
  simp only [State.me, pend_warp]; rfl

@[simp] theorem pendS_warp (s : State) (lat : Nat) (n : BitVec 7) (v : Word) (c w : Nat) :
    (pendS s lat n v).warp c w = s.warp c w := pend_warp ..

@[simp] theorem pendPair_warp (s : State) (lat : Nat) (n : BitVec 7) (v : DWord) (c w : Nat) :
    (pendPair s lat n v).warp c w = s.warp c w := by simp [pendPair]

@[simp] theorem pend_gcc (s : State) (lat : Nat) (wr : Write) : (pend s lat wr).gcc = s.gcc := rfl
@[simp] theorem pend_ev (s : State) (lat : Nat) (wr : Write) : (pend s lat wr).ev = s.ev := rfl
@[simp] theorem pend_cur (s : State) (lat : Nat) (wr : Write) : (pend s lat wr).cur = s.cur := rfl
@[simp] theorem pend_agenda (s : State) (lat : Nat) (wr : Write) : (pend s lat wr).agenda = s.agenda := rfl
@[simp] theorem pend_cursor (s : State) (lat : Nat) (wr : Write) : (pend s lat wr).cursor = s.cursor := rfl
@[simp] theorem pend_drawn (s : State) (lat : Nat) (wr : Write) : (pend s lat wr).drawn = s.drawn := rfl
@[simp] theorem pend_nextId (s : State) (lat : Nat) (wr : Write) : (pend s lat wr).nextId = s.nextId := rfl
@[simp] theorem pend_ms (s : State) (lat : Nat) (wr : Write) : (pend s lat wr).ms = s.ms := rfl
@[simp] theorem pend_sched (s : State) (lat : Nat) (wr : Write) : (pend s lat wr).sched = s.sched := rfl
@[simp] theorem pend_fr (s : State) (lat : Nat) (wr : Write) : (pend s lat wr).fr = s.fr := rfl
@[simp] theorem pend_hd (s : State) (lat : Nat) (wr : Write) : (pend s lat wr).hd = s.hd := rfl
@[simp] theorem pend_rg (s : State) (lat : Nat) (wr : Write) : (pend s lat wr).rg = s.rg := rfl
@[simp] theorem pend_pt (s : State) (lat : Nat) (wr : Write) : (pend s lat wr).pt = s.pt := rfl

@[simp] theorem pendS_gcc (s : State) (lat : Nat) (n : BitVec 7) (v : Word) : (pendS s lat n v).gcc = s.gcc := rfl
@[simp] theorem pendS_ev (s : State) (lat : Nat) (n : BitVec 7) (v : Word) : (pendS s lat n v).ev = s.ev := rfl
@[simp] theorem pendS_cur (s : State) (lat : Nat) (n : BitVec 7) (v : Word) : (pendS s lat n v).cur = s.cur := rfl
@[simp] theorem pendS_agenda (s : State) (lat : Nat) (n : BitVec 7) (v : Word) : (pendS s lat n v).agenda = s.agenda := rfl
@[simp] theorem pendS_cursor (s : State) (lat : Nat) (n : BitVec 7) (v : Word) : (pendS s lat n v).cursor = s.cursor := rfl
@[simp] theorem pendS_drawn (s : State) (lat : Nat) (n : BitVec 7) (v : Word) : (pendS s lat n v).drawn = s.drawn := rfl
@[simp] theorem pendS_nextId (s : State) (lat : Nat) (n : BitVec 7) (v : Word) : (pendS s lat n v).nextId = s.nextId := rfl
@[simp] theorem pendS_ms (s : State) (lat : Nat) (n : BitVec 7) (v : Word) : (pendS s lat n v).ms = s.ms := rfl
@[simp] theorem pendS_sched (s : State) (lat : Nat) (n : BitVec 7) (v : Word) : (pendS s lat n v).sched = s.sched := rfl
@[simp] theorem pendS_fr (s : State) (lat : Nat) (n : BitVec 7) (v : Word) : (pendS s lat n v).fr = s.fr := rfl
@[simp] theorem pendS_hd (s : State) (lat : Nat) (n : BitVec 7) (v : Word) : (pendS s lat n v).hd = s.hd := rfl
@[simp] theorem pendS_rg (s : State) (lat : Nat) (n : BitVec 7) (v : Word) : (pendS s lat n v).rg = s.rg := rfl
@[simp] theorem pendS_pt (s : State) (lat : Nat) (n : BitVec 7) (v : Word) : (pendS s lat n v).pt = s.pt := rfl

/-- What a queued result leaves of any core but its pending writes. -/
theorem pend_core (s : State) (lat : Nat) (wr : Write) (c : Nat) :
    (pend s lat wr).core c = { s.core c with pw := ((pend s lat wr).core c).pw } := by
  by_cases h : c = s.cur.core
  · subst h; simp [pend, State.updMyCore]
  · simp [pend, State.updMyCore, State.updCore_core_other _ _ _ _ h]

end Sys2Proof.Machine
end

