-- ==== Sys2Proof/Laws/Slots.lean ====
section
/-!
SUPPORT. What a slot instruction taken by itself can do: it does nothing, or it traps, or its effect applies after its
bindings; and what the reads, releases and bindings of R62 are for an instruction without vector operands.
-/
namespace Sys2Proof.Machine

/-- A slot instruction always has a next state, which is one of four. -/
theorem slotExec_cases (i : Instr) (run : State → State → Run) (s : State) :
    (isOff s i = true ∧ slotExec i run s = .next (offEffect i s)) ∨
    (∃ tr, isOff s i = false ∧ prep i s = .error tr ∧ slotExec i run s = .next (takeTrap s tr)) ∨
    (∃ s1 tr, isOff s i = false ∧ prep i s = .ok s1 ∧ run s s1 = .error tr ∧
      slotExec i run s = .next (takeTrap s tr)) ∨
    (∃ s1 s2, isOff s i = false ∧ prep i s = .ok s1 ∧ run s s1 = .ok s2 ∧ slotExec i run s = .next s2) := by
  unfold slotExec
  by_cases h : isOff s i = true
  · exact .inl ⟨h, by rw [if_pos h]⟩
  · rw [if_neg h]
    have h' : isOff s i = false := by simpa using h
    cases hp : prep i s with
    | error tr => exact .inr (.inl ⟨tr, h', rfl, rfl⟩)
    | ok s1 =>
      cases hr : run s s1 with
      | error tr => exact .inr (.inr (.inl ⟨s1, tr, h', rfl, hr, by simp [hr]⟩))
      | ok s2 => exact .inr (.inr (.inr ⟨s1, s2, h', rfl, hr, by simp [hr]⟩))

/-- The effect of an instruction that acts. -/
theorem slotExec_ok {i : Instr} {run : State → State → Run} {s s1 s2 : State} (ho : isOff s i = false)
    (hp : prep i s = .ok s1) (hr : run s s1 = .ok s2) : slotExec i run s = .next s2 := by
  simp [slotExec, ho, hp, hr]

/-- The trap of an instruction whose effect ends in one. -/
theorem slotExec_trap {i : Instr} {run : State → State → Run} {s s1 : State} {tr : Trap} (ho : isOff s i = false)
    (hp : prep i s = .ok s1) (hr : run s s1 = .error tr) : slotExec i run s = .next (takeTrap s tr) := by
  simp [slotExec, ho, hp, hr]

/-- What a suppressed instruction does. -/
theorem slotExec_off {i : Instr} {run : State → State → Run} {s : State} (ho : isOff s i = true) :
    slotExec i run s = .next (offEffect i s) := by
  simp [slotExec, ho]

/-- An instruction without vector operands has nothing to check, release or bind. -/
theorem prep_none {i : Instr} (h : foot i = Foot.none) (s : State) : prep i s = .ok s := by
  simp [prep, operandTrap, h, Foot.none, releaseAll, bindAll]

end Sys2Proof.Machine
end

