-- ==== Sys2Proof/Laws/Exec.lean ====
section
/-!
SUPPORT. The effect that each slot instruction passes to the frame shared by all of them.
-/
namespace Sys2Proof.Machine

theorem exec_iadd (o : S3) (s : State) :
    exec (.iadd o) s = slotExec (.iadd o) (runIadd o) s := rfl
theorem exec_isub (o : S3) (s : State) :
    exec (.isub o) s = slotExec (.isub o) (runIsub o) s := rfl
theorem exec_imul (o : S3) (s : State) :
    exec (.imul o) s = slotExec (.imul o) (runImul o) s := rfl
theorem exec_imulh (o : S3) (uns : Bool) (s : State) :
    exec (.imulh o uns) s = slotExec (.imulh o uns) (runImulh o uns) s := rfl
theorem exec_imad (o : S3) (c : BitVec 7) (s : State) :
    exec (.imad o c) s = slotExec (.imad o c) (runImad o c) s := rfl
theorem exec_idiv (o : S3) (uns : Bool) (s : State) :
    exec (.idiv o uns) s = slotExec (.idiv o uns) (runIdiv o uns) s := rfl
theorem exec_irem (o : S3) (uns : Bool) (s : State) :
    exec (.irem o uns) s = slotExec (.irem o uns) (runIrem o uns) s := rfl
theorem exec_iand (o : S3) (s : State) :
    exec (.iand o) s = slotExec (.iand o) (runIand o) s := rfl
theorem exec_ior (o : S3) (s : State) :
    exec (.ior o) s = slotExec (.ior o) (runIor o) s := rfl
theorem exec_ixor (o : S3) (s : State) :
    exec (.ixor o) s = slotExec (.ixor o) (runIxor o) s := rfl
theorem exec_iandn (o : S3) (s : State) :
    exec (.iandn o) s = slotExec (.iandn o) (runIandn o) s := rfl
theorem exec_shl (o : S3) (s : State) :
    exec (.shl o) s = slotExec (.shl o) (runShl o) s := rfl
theorem exec_shr (o : S3) (s : State) :
    exec (.shr o) s = slotExec (.shr o) (runShr o) s := rfl
theorem exec_shra (o : S3) (s : State) :
    exec (.shra o) s = slotExec (.shra o) (runShra o) s := rfl
theorem exec_rot (o : S3) (s : State) :
    exec (.rot o) s = slotExec (.rot o) (runRot o) s := rfl
theorem exec_clz (o : S2) (s : State) :
    exec (.clz o) s = slotExec (.clz o) (runClz o) s := rfl
theorem exec_popc (o : S2) (s : State) :
    exec (.popc o) s = slotExec (.popc o) (runPopc o) s := rfl
theorem exec_brev (o : S2) (s : State) :
    exec (.brev o) s = slotExec (.brev o) (runBrev o) s := rfl
theorem exec_bfx (o : S3) (w : BitVec 5) (sgn : Bool) (s : State) :
    exec (.bfx o w sgn) s = slotExec (.bfx o w sgn) (runBfx o w sgn) s := rfl
theorem exec_bfi (o : S3) (w : BitVec 5) (s : State) :
    exec (.bfi o w) s = slotExec (.bfi o w) (runBfi o w) s := rfl
theorem exec_imin (o : S3) (uns : Bool) (s : State) :
    exec (.imin o uns) s = slotExec (.imin o uns) (runImin o uns) s := rfl
theorem exec_imax (o : S3) (uns : Bool) (s : State) :
    exec (.imax o uns) s = slotExec (.imax o uns) (runImax o uns) s := rfl
theorem exec_icmp (g : Guard) (fd : BitVec 3) (a : BitVec 7) (b : SSrc) (c : Cond) (s : State) :
    exec (.icmp g fd a b c) s = slotExec (.icmp g fd a b c) (runIcmp fd a b c) s := rfl
theorem exec_sel (o : S3) (fl : BitVec 3) (neg : Bool) (s : State) :
    exec (.sel o fl neg) s = slotExec (.sel o fl neg) (runSel o fl neg) s := rfl
theorem exec_movi (g : Guard) (d : BitVec 7) (i : BitVec 14) (s : State) :
    exec (.movi g d i) s = slotExec (.movi g d i) (runMovi d i) s := rfl
theorem exec_limmB32 (g : Guard) (d : BitVec 7) (w : Word) (s : State) :
    exec (.limmB32 g d w) s = slotExec (.limmB32 g d w) (runLimmB32 d w) s := rfl
theorem exec_limmB64 (g : Guard) (d : BitVec 7) (w : BitVec 48) (s : State) :
    exec (.limmB64 g d w) s = slotExec (.limmB64 g d w) (runLimmB64 d w) s := rfl
theorem exec_movsRf (g : Guard) (d : BitVec 7) (s : State) :
    exec (.movsRf g d) s = slotExec (.movsRf g d) (runMovsRf d) s := rfl
theorem exec_movsWf (g : Guard) (a : BitVec 7) (s : State) :
    exec (.movsWf g a) s = slotExec (.movsWf g a) (runMovsWf a) s := rfl
theorem exec_movsLc (g : Guard) (d : BitVec 7) (n : BitVec 3) (s : State) :
    exec (.movsLc g d n) s = slotExec (.movsLc g d n) (runMovsLc d n) s := rfl
theorem exec_movsRp (g : Guard) (d : BitVec 7) (p : BitVec 3) (j : BitVec 2) (s : State) :
    exec (.movsRp g d p j) s = slotExec (.movsRp g d p j) (runMovsRp d p j) s := rfl
theorem exec_movsWp (g : Guard) (p : BitVec 3) (j : BitVec 2) (a : BitVec 7) (s : State) :
    exec (.movsWp g p j a) s = slotExec (.movsWp g p j a) (runMovsWp p j a) s := rfl
theorem exec_movsRm (g : Guard) (d : BitVec 7) (j : BitVec 2) (s : State) :
    exec (.movsRm g d j) s = slotExec (.movsRm g d j) (runMovsRm d j) s := rfl
theorem exec_aadd (o : S3) (s : State) :
    exec (.aadd o) s = slotExec (.aadd o) (runAadd o) s := rfl
theorem exec_alea (o : S3) (k : BitVec 3) (z : Bool) (s : State) :
    exec (.alea o k z) s = slotExec (.alea o k z) (runAlea o k z) s := rfl
theorem exec_flop (g : Guard) (fd fa fb : BitVec 3) (t : BitVec 4) (s : State) :
    exec (.flop g fd fa fb t) s = slotExec (.flop g fd fa fb t) (runFlop fd fa fb t) s := rfl
theorem exec_rdgcc (g : Guard) (d : BitVec 7) (s : State) :
    exec (.rdgcc g d) s = slotExec (.rdgcc g d) (runRdgcc d) s := rfl
theorem exec_rdid (g : Guard) (d : BitVec 7) (sel : BitVec 3) (s : State) :
    exec (.rdid g d sel) s = slotExec (.rdid g d sel) (runRdid d sel) s := rfl
theorem exec_bru (g : Guard) (off : BitVec 26) (s : State) :
    exec (.bru g off) s = slotExec (.bru g off) (runBru off) s := rfl
theorem exec_brv (p : Guard) (off : BitVec 26) (s : State) :
    exec (.brv p off) s = slotExec (.brv p off) (runBrv p off) s := rfl
theorem exec_brd (g : Guard) (off : BitVec 26) (p : Guard) (pft ptk : BitVec 16) (s : State) :
    exec (.brd g off p pft ptk) s = slotExec (.brd g off p pft ptk) (runBrd off p pft ptk) s := rfl
theorem exec_jmp (g : Guard) (off : BitVec 26) (s : State) :
    exec (.jmp g off) s = slotExec (.jmp g off) (runJmp off) s := rfl
theorem exec_call (g : Guard) (off : BitVec 26) (link : BitVec 7) (s : State) :
    exec (.call g off link) s = slotExec (.call g off link) (runCall off link) s := rfl
theorem exec_ret (g : Guard) (a : BitVec 7) (s : State) :
    exec (.ret g a) s = slotExec (.ret g a) (runRet a) s := rfl
theorem exec_chk (off : BitVec 26) (v : BitVec 9) (s : State) :
    exec (.chk off v) s = slotExec (.chk off v) (runChk off v) s := rfl
theorem exec_loop (g : Guard) (b : SSrc) (body : BitVec 6) (s : State) :
    exec (.loop g b body) s = slotExec (.loop g b body) (runLoop b body) s := rfl
theorem exec_lstr (g : Guard) (d : BitVec 7) (b : SSrc) (level : BitVec 3) (reg : Bool) (s : State) :
    exec (.lstr g d b level reg) s = slotExec (.lstr g d b level reg) (runLstr d b level reg) s := rfl
theorem exec_yield (g : Guard) (s : State) :
    exec (.yield g) s = slotExec (.yield g) runYield s := rfl
theorem exec_exit (g : Guard) (s : State) :
    exec (.exit g) s = slotExec (.exit g) runExit s := rfl
theorem exec_waita (g : Guard) (mask : Byte) (n : BitVec 6) (s : State) :
    exec (.waita g mask n) s = slotExec (.waita g mask n) (runWaita mask n) s := rfl
theorem exec_twait (g : Guard) (pred : Bool) (num : BitVec 3) (h : BitVec 7) (mask : Byte) (watch : Bool) (s : State) :
    exec (.twait g pred num h mask watch) s = slotExec (.twait g pred num h mask watch) (runTwait pred num h mask watch) s := rfl
theorem exec_bar (g : Guard) (b : SSrc) (num : BitVec 4) (arrive : Bool) (s : State) :
    exec (.bar g b num arrive) s = slotExec (.bar g b num arrive) (runBar b num arrive) s := rfl
theorem exec_barq (g : Guard) (b : SSrc) (num : BitVec 4) (arrive : Bool) (s : State) :
    exec (.barq g b num arrive) s = slotExec (.barq g b num arrive) (runBarq b num arrive) s := rfl
theorem exec_phase (g : Guard) (a : BitVec 7) (b : SSrc) (s : State) :
    exec (.phase g a b) s = slotExec (.phase g a b) (runPhase a b) s := rfl
theorem exec_phwait (g : Guard) (b : SSrc) (s : State) :
    exec (.phwait g b) s = slotExec (.phwait g b) (runPhwait b) s := rfl
theorem exec_eret (g : Guard) (s : State) :
    exec (.eret g) s = slotExec (.eret g) runEret s := rfl
theorem exec_ctlr (g : Guard) (d : BitVec 7) (b : SSrc) (s : State) :
    exec (.ctlr g d b) s = slotExec (.ctlr g d b) (runCtlr d b) s := rfl
theorem exec_ctlw (g : Guard) (a : BitVec 7) (b : SSrc) (s : State) :
    exec (.ctlw g a b) s = slotExec (.ctlw g a b) (runCtlw a b) s := rfl
theorem exec_segw (g : Guard) (a : BitVec 7) (seg : BitVec 3) (limit : Bool) (s : State) :
    exec (.segw g a seg limit) s = slotExec (.segw g a seg limit) (runSegw a seg limit) s := rfl
theorem exec_prmt (g : Guard) (d a : BitVec 7) (kill : Bool) (s : State) :
    exec (.prmt g d a kill) s = slotExec (.prmt g d a kill) (runPrmt d a kill) s := rfl
theorem exec_wfw (o : S3) (s : State) :
    exec (.wfw o) s = slotExec (.wfw o) (runWfw o) s := rfl
theorem exec_launch (g : Guard) (d a : BitVec 7) (q : BitVec 2) (s : State) :
    exec (.launch g d a q) s = slotExec (.launch g d a q) (runLaunch d a q) s := rfl
theorem exec_wdogRd (g : Guard) (d : BitVec 7) (s : State) :
    exec (.wdogRd g d) s = slotExec (.wdogRd g d) (runWdogRd d) s := rfl
theorem exec_wdogLower (g : Guard) (a : BitVec 7) (s : State) :
    exec (.wdogLower g a) s = slotExec (.wdogLower g a) (runWdogLower a) s := rfl
theorem exec_wdogSet (g : Guard) (a : BitVec 7) (s : State) :
    exec (.wdogSet g a) s = slotExec (.wdogSet g a) (runWdogSet a) s := rfl
theorem exec_govr (g : Guard) (d : BitVec 7) (b : SSrc) (s : State) :
    exec (.govr g d b) s = slotExec (.govr g d b) (runGovr d b) s := rfl
theorem exec_govrP (g : Guard) (d : BitVec 7) (b : SSrc) (s : State) :
    exec (.govrP g d b) s = slotExec (.govrP g d b) (runGovrP d b) s := rfl
theorem exec_govrW (g : Guard) (a : BitVec 7) (b : SSrc) (s : State) :
    exec (.govrW g a b) s = slotExec (.govrW g a b) (runGovrW a b) s := rfl
theorem exec_govrWp (g : Guard) (a : BitVec 7) (b : SSrc) (s : State) :
    exec (.govrWp g a b) s = slotExec (.govrWp g a b) (runGovrWp a b) s := rfl
theorem exec_fadd (o : V2) (s : State) :
    exec (.fadd o) s = slotExec (.fadd o) (runFadd o) s := rfl
theorem exec_fsub (o : V2) (s : State) :
    exec (.fsub o) s = slotExec (.fsub o) (runFsub o) s := rfl
theorem exec_fmul (o : V2) (s : State) :
    exec (.fmul o) s = slotExec (.fmul o) (runFmul o) s := rfl
theorem exec_ffma (o : VAcc) (s : State) :
    exec (.ffma o) s = slotExec (.ffma o) (runFfma o) s := rfl
theorem exec_ffmak (o : V2) (s : State) :
    exec (.ffmak o) s = slotExec (.ffmak o) (runFfmak o) s := rfl
theorem exec_fmin (o : V2) (s : State) :
    exec (.fmin o) s = slotExec (.fmin o) (runFmin o) s := rfl
theorem exec_fmax (o : V2) (s : State) :
    exec (.fmax o) s = slotExec (.fmax o) (runFmax o) s := rfl
theorem exec_fclass (o : V1) (s : State) :
    exec (.fclass o) s = slotExec (.fclass o) (runFclass o) s := rfl
theorem exec_frnd (o : V1) (m : FrndMode) (s : State) :
    exec (.frnd o m) s = slotExec (.frnd o m) (runFrnd o m) s := rfl
theorem exec_fcmp (o : VCmp) (c : FCond) (s : State) :
    exec (.fcmp o c) s = slotExec (.fcmp o c) (runFcmp o c) s := rfl
theorem exec_hadd2 (o : V2) (f : Half) (s : State) :
    exec (.hadd2 o f) s = slotExec (.hadd2 o f) (runHadd2 o f) s := rfl
theorem exec_hmul2 (o : V2) (f : Half) (s : State) :
    exec (.hmul2 o f) s = slotExec (.hmul2 o f) (runHmul2 o f) s := rfl
theorem exec_hfma2 (o : VAcc) (f : Half) (s : State) :
    exec (.hfma2 o f) s = slotExec (.hfma2 o f) (runHfma2 o f) s := rfl
theorem exec_hdot2 (o : VAcc) (f : Half) (s : State) :
    exec (.hdot2 o f) s = slotExec (.hdot2 o f) (runHdot2 o f) s := rfl
theorem exec_vadd (o : V2) (s : State) :
    exec (.vadd o) s = slotExec (.vadd o) (runVadd o) s := rfl
theorem exec_vsub (o : V2) (s : State) :
    exec (.vsub o) s = slotExec (.vsub o) (runVsub o) s := rfl
theorem exec_vmul (o : V2) (s : State) :
    exec (.vmul o) s = slotExec (.vmul o) (runVmul o) s := rfl
theorem exec_vmulh (o : V2) (uns : Bool) (s : State) :
    exec (.vmulh o uns) s = slotExec (.vmulh o uns) (runVmulh o uns) s := rfl
theorem exec_vmad (o : VAcc) (s : State) :
    exec (.vmad o) s = slotExec (.vmad o) (runVmad o) s := rfl
theorem exec_vmin (o : V2) (uns : Bool) (s : State) :
    exec (.vmin o uns) s = slotExec (.vmin o uns) (runVmin o uns) s := rfl
theorem exec_vmax (o : V2) (uns : Bool) (s : State) :
    exec (.vmax o uns) s = slotExec (.vmax o uns) (runVmax o uns) s := rfl
theorem exec_vabs (o : V1) (s : State) :
    exec (.vabs o) s = slotExec (.vabs o) (runVabs o) s := rfl
theorem exec_vmov (o : V1) (s : State) :
    exec (.vmov o) s = slotExec (.vmov o) (runVmov o) s := rfl
theorem exec_vand (o : V2) (s : State) :
    exec (.vand o) s = slotExec (.vand o) (runVand o) s := rfl
theorem exec_vor (o : V2) (s : State) :
    exec (.vor o) s = slotExec (.vor o) (runVor o) s := rfl
theorem exec_vxor (o : V2) (s : State) :
    exec (.vxor o) s = slotExec (.vxor o) (runVxor o) s := rfl
theorem exec_vandn (o : V2) (s : State) :
    exec (.vandn o) s = slotExec (.vandn o) (runVandn o) s := rfl
theorem exec_vshl (o : V2) (s : State) :
    exec (.vshl o) s = slotExec (.vshl o) (runVshl o) s := rfl
theorem exec_vshr (o : V2) (s : State) :
    exec (.vshr o) s = slotExec (.vshr o) (runVshr o) s := rfl
theorem exec_vshra (o : V2) (s : State) :
    exec (.vshra o) s = slotExec (.vshra o) (runVshra o) s := rfl
theorem exec_vpopc (o : V1) (s : State) :
    exec (.vpopc o) s = slotExec (.vpopc o) (runVpopc o) s := rfl
theorem exec_vclz (o : V1) (s : State) :
    exec (.vclz o) s = slotExec (.vclz o) (runVclz o) s := rfl
theorem exec_vbfx (o : V2) (uns : Bool) (s : State) :
    exec (.vbfx o uns) s = slotExec (.vbfx o uns) (runVbfx o uns) s := rfl
theorem exec_vbfi (o : VAcc) (s : State) :
    exec (.vbfi o) s = slotExec (.vbfi o) (runVbfi o) s := rfl
theorem exec_vsel (o : V2) (s : State) :
    exec (.vsel o) s = slotExec (.vsel o) (runVsel o) s := rfl
theorem exec_vdot4 (o : VAcc) (uns : Bool) (s : State) :
    exec (.vdot4 o uns) s = slotExec (.vdot4 o uns) (runVdot4 o uns) s := rfl
theorem exec_vcmp (o : VCmp) (c : Cond) (s : State) :
    exec (.vcmp o c) s = slotExec (.vcmp o c) (runVcmp o c) s := rfl
theorem exec_cvt (o : V1) (sf df : CvtFmt) (rmo : Rmo) (sp : BitVec 3) (s : State) :
    exec (.cvt o sf df rmo sp) s = slotExec (.cvt o sf df rmo sp) (runCvt o sf df rmo sp) s := rfl
theorem exec_cvtmx (o : V1) (ef : MxFmt) (rmo : Rmo) (s : State) :
    exec (.cvtmx o ef rmo) s = slotExec (.cvtmx o ef rmo) (runCvtmx o ef rmo) s := rfl
theorem exec_cvtxm (o : V1) (ef : MxFmt) (rmo : Rmo) (s : State) :
    exec (.cvtxm o ef rmo) s = slotExec (.cvtxm o ef rmo) (runCvtxm o ef rmo) s := rfl
theorem exec_pack (o : V2) (s : State) :
    exec (.pack o) s = slotExec (.pack o) (runPack o) s := rfl
theorem exec_unpk (o : V1) (x z : Bool) (n : BitVec 2) (s : State) :
    exec (.unpk o x z n) s = slotExec (.unpk o x z n) (runUnpk o x z n) s := rfl
theorem exec_perm (o : V2) (s : State) :
    exec (.perm o) s = slotExec (.perm o) (runPerm o) s := rfl
theorem exec_vlane (o : V1) (pat : VlanePat) (k : BitVec 4) (s : State) :
    exec (.vlane o pat k) s = slotExec (.vlane o pat k) (runVlane o pat k) s := rfl
theorem exec_xsh (o : V1) (x : Bool) (k : BitVec 3) (s : State) :
    exec (.xsh o x k) s = slotExec (.xsh o x k) (runXsh o x k) s := rfl
theorem exec_vrand (o : V0) (s : State) :
    exec (.vrand o) s = slotExec (.vrand o) (runVrand o) s := rfl
theorem exec_mode (p : Guard) (value mask : ImmOrS) (s : State) :
    exec (.mode p value mask) s = slotExec (.mode p value mask) (runMode value mask) s := rfl
theorem exec_rcp (o : V1) (s : State) :
    exec (.rcp o) s = slotExec (.rcp o) (runRcp o) s := rfl
theorem exec_rsq (o : V1) (s : State) :
    exec (.rsq o) s = slotExec (.rsq o) (runRsq o) s := rfl
theorem exec_sqrt (o : V1) (s : State) :
    exec (.sqrt o) s = slotExec (.sqrt o) (runSqrt o) s := rfl
theorem exec_exp2 (o : V1) (s : State) :
    exec (.exp2 o) s = slotExec (.exp2 o) (runExp2 o) s := rfl
theorem exec_log2 (o : V1) (s : State) :
    exec (.log2 o) s = slotExec (.log2 o) (runLog2 o) s := rfl
theorem exec_sin (o : V1) (s : State) :
    exec (.sin o) s = slotExec (.sin o) (runSin o) s := rfl
theorem exec_cos (o : V1) (s : State) :
    exec (.cos o) s = slotExec (.cos o) (runCos o) s := rfl
theorem exec_tanh (o : V1) (s : State) :
    exec (.tanh o) s = slotExec (.tanh o) (runTanh o) s := rfl
theorem exec_rcpA (o : V1) (s : State) :
    exec (.rcpA o) s = slotExec (.rcpA o) (runRcpA o) s := rfl
theorem exec_rsqA (o : V1) (s : State) :
    exec (.rsqA o) s = slotExec (.rsqA o) (runRsqA o) s := rfl
theorem exec_sqrtA (o : V1) (s : State) :
    exec (.sqrtA o) s = slotExec (.sqrtA o) (runSqrtA o) s := rfl
theorem exec_exp2A (o : V1) (s : State) :
    exec (.exp2A o) s = slotExec (.exp2A o) (runExp2A o) s := rfl
theorem exec_log2A (o : V1) (s : State) :
    exec (.log2A o) s = slotExec (.log2A o) (runLog2A o) s := rfl
theorem exec_sinA (o : V1) (s : State) :
    exec (.sinA o) s = slotExec (.sinA o) (runSinA o) s := rfl
theorem exec_cosA (o : V1) (s : State) :
    exec (.cosA o) s = slotExec (.cosA o) (runCosA o) s := rfl
theorem exec_tanhA (o : V1) (s : State) :
    exec (.tanhA o) s = slotExec (.tanhA o) (runTanhA o) s := rfl
theorem exec_redAdd (o : VRed) (s : State) :
    exec (.redAdd o) s = slotExec (.redAdd o) (runRedAdd o) s := rfl
theorem exec_redMin (o : VRed) (s : State) :
    exec (.redMin o) s = slotExec (.redMin o) (runRedMin o) s := rfl
theorem exec_redMax (o : VRed) (s : State) :
    exec (.redMax o) s = slotExec (.redMax o) (runRedMax o) s := rfl
theorem exec_rdrn (p : Guard) (d : Spec) (ps : BitVec 2) (w : BitVec 3) (kc : Bool) (ki : BitVec 3) (s : State) :
    exec (.rdrn p d ps w kc ki) s = slotExec (.rdrn p d ps w kc ki) (runRdrn p d ps w kc ki) s := rfl
theorem exec_rclr (p : Guard) (ps : BitVec 2) (c : FillCode) (s : State) :
    exec (.rclr p ps c) s = slotExec (.rclr p ps c) (runRclr p ps c) s := rfl
theorem exec_mcall (x : XCtl) (k o : ImmOrS) (s : State) :
    exec (.mcall x k o) s = slotExec (.mcall x k o) (runMcall x k o) s := rfl
theorem exec_mpar (x : XCtl) (q : BitVec 3) (v : ImmOrS) (s : State) :
    exec (.mpar x q v) s = slotExec (.mpar x q v) (runMpar q v) s := rfl
theorem exec_mfmt (x : XCtl) (v : ImmOrS) (s : State) :
    exec (.mfmt x v) s = slotExec (.mfmt x v) (runMfmt v) s := rfl
theorem exec_mstat (x : XCtl) (d : BitVec 7) (s : State) :
    exec (.mstat x d) s = slotExec (.mstat x d) (runMstat x d) s := rfl
theorem exec_mpsw (x : XCtl) (v t : BitVec 7) (s : State) :
    exec (.mpsw x v t) s = slotExec (.mpsw x v t) (runMpsw v t) s := rfl
theorem exec_wst (x : XCtl) (a : BitVec 7) (wb : Bool) (s : State) :
    exec (.wst x a wb) s = slotExec (.wst x a wb) (runWst x a wb) s := rfl
theorem exec_wstat (x : XCtl) (d : BitVec 7) (s : State) :
    exec (.wstat x d) s = slotExec (.wstat x d) (runWstat x d) s := rfl
theorem exec_rqCl (x : XCtl) (blk : BitVec 9) (st : BitVec 7) (s : State) :
    exec (.rqCl x blk st) s = slotExec (.rqCl x blk st) (runRqCl x blk st) s := rfl
theorem exec_rqAn (x : XCtl) (blk : BitVec 9) (st : BitVec 7) (s : State) :
    exec (.rqAn x blk st) s = slotExec (.rqAn x blk st) (runRqAn x blk st) s := rfl
theorem exec_rqOc (x : XCtl) (blk : BitVec 9) (st : BitVec 7) (s : State) :
    exec (.rqOc x blk st) s = slotExec (.rqOc x blk st) (runRqOc x blk st) s := rfl
theorem exec_bvhb (x : XCtl) (a : BitVec 7) (s : State) :
    exec (.bvhb x a) s = slotExec (.bvhb x a) (runBvhb x a) s := rfl
theorem exec_bvhf (x : XCtl) (a : BitVec 7) (s : State) :
    exec (.bvhf x a) s = slotExec (.bvhf x a) (runBvhf x a) s := rfl
theorem exec_texS (x : XCtl) (blk : BitVec 9) (a : BitVec 7) (s : State) :
    exec (.texS x blk a) s = slotExec (.texS x blk a) (runTexS x blk a) s := rfl
theorem exec_texF (x : XCtl) (blk : BitVec 9) (a : BitVec 7) (s : State) :
    exec (.texF x blk a) s = slotExec (.texF x blk a) (runTexF x blk a) s := rfl
theorem exec_texL (x : XCtl) (blk : BitVec 9) (a : BitVec 7) (s : State) :
    exec (.texL x blk a) s = slotExec (.texL x blk a) (runTexL x blk a) s := rfl
theorem exec_texq (x : XCtl) (blk : BitVec 9) (a : BitVec 7) (s : State) :
    exec (.texq x blk a) s = slotExec (.texq x blk a) (runTexq x blk a) s := rfl
theorem exec_copy (x : XCtl) (a : BitVec 7) (q : BitVec 2) (s : State) :
    exec (.copy x a q) s = slotExec (.copy x a q) (runCopy x a q) s := rfl
theorem exec_cmpt (x : XCtl) (a : BitVec 7) (s : State) :
    exec (.cmpt x a) s = slotExec (.cmpt x a) (runCmpt x a) s := rfl
theorem exec_cmpq (x : XCtl) (d sn : BitVec 7) (s : State) :
    exec (.cmpq x d sn) s = slotExec (.cmpq x d sn) (runCmpq x d sn) s := rfl
theorem exec_mark (x : XCtl) (mask : BitVec 9) (m : BitVec 3) (s : State) :
    exec (.mark x mask m) s = slotExec (.mark x mask m) (runMark mask m) s := rfl
theorem exec_markw (x : XCtl) (m : BitVec 3) (s : State) :
    exec (.markw x m) s = slotExec (.markw x m) (runMarkw x m) s := rfl
theorem exec_ldM (t : LdTy) (o : MOps) (s : State) :
    exec (.ldM t o) s = slotExec (.ldM t o) (runLdM t o) s := rfl
theorem exec_stM (t : StTy) (o : MOps) (s : State) :
    exec (.stM t o) s = slotExec (.stM t o) (runStM t o) s := rfl
theorem exec_ldt (o : MOps) (s : State) :
    exec (.ldt o) s = slotExec (.ldt o) (runLdt o) s := rfl
theorem exec_ldMw (t : LdTy) (o : MWOps) (s : State) :
    exec (.ldMw t o) s = slotExec (.ldMw t o) (runLdMw t o) s := rfl
theorem exec_stMw (t : StTy) (o : MWOps) (s : State) :
    exec (.stMw t o) s = slotExec (.stMw t o) (runStMw t o) s := rfl
theorem exec_ldS (o : MWOps) (s : State) :
    exec (.ldS o) s = slotExec (.ldS o) (runLdS o) s := rfl
theorem exec_ldPoll (o : MWOps) (s : State) :
    exec (.ldPoll o) s = slotExec (.ldPoll o) (runLdPoll o) s := rfl
theorem exec_ldAcq (o : MWOps) (s : State) :
    exec (.ldAcq o) s = slotExec (.ldAcq o) (runLdAcq o) s := rfl
theorem exec_stRel (o : MWOps) (s : State) :
    exec (.stRel o) s = slotExec (.stRel o) (runStRel o) s := rfl
theorem exec_ldSc (o : MWOps) (s : State) :
    exec (.ldSc o) s = slotExec (.ldSc o) (runLdSc o) s := rfl
theorem exec_stSc (o : MWOps) (s : State) :
    exec (.stSc o) s = slotExec (.stSc o) (runStSc o) s := rfl
theorem exec_pref (p : Guard) (core : Bool) (adr : PairSpec) (ofs : BitVec 9) (ad : Bool) (s : State) :
    exec (.pref p core adr ofs ad) s = slotExec (.pref p core adr ofs ad) (runPref p core adr ofs) s := rfl
theorem exec_atomAdd (o : MWOps) (w : Bool) (s : State) :
    exec (.atomAdd o w) s = slotExec (.atomAdd o w) (runAtomAdd o w) s := rfl
theorem exec_atomMin (o : MWOps) (w u : Bool) (s : State) :
    exec (.atomMin o w u) s = slotExec (.atomMin o w u) (runAtomMin o w u) s := rfl
theorem exec_atomMax (o : MWOps) (w u : Bool) (s : State) :
    exec (.atomMax o w u) s = slotExec (.atomMax o w u) (runAtomMax o w u) s := rfl
theorem exec_atomAnd (o : MWOps) (w : Bool) (s : State) :
    exec (.atomAnd o w) s = slotExec (.atomAnd o w) (runAtomAnd o w) s := rfl
theorem exec_atomOr (o : MWOps) (w : Bool) (s : State) :
    exec (.atomOr o w) s = slotExec (.atomOr o w) (runAtomOr o w) s := rfl
theorem exec_atomXor (o : MWOps) (w : Bool) (s : State) :
    exec (.atomXor o w) s = slotExec (.atomXor o w) (runAtomXor o w) s := rfl
theorem exec_atomExch (o : MWOps) (w : Bool) (s : State) :
    exec (.atomExch o w) s = slotExec (.atomExch o w) (runAtomExch o w) s := rfl
theorem exec_atomCas (o : MWOps) (w : Bool) (s : State) :
    exec (.atomCas o w) s = slotExec (.atomCas o w) (runAtomCas o w) s := rfl
theorem exec_atomAddF32 (o : MWOps) (s : State) :
    exec (.atomAddF32 o) s = slotExec (.atomAddF32 o) (runAtomAddF32 o) s := rfl
theorem exec_atomAddBf16 (o : MWOps) (s : State) :
    exec (.atomAddBf16 o) s = slotExec (.atomAddBf16 o) (runAtomAddBf16 o) s := rfl
theorem exec_atomSc (o : MWOps) (op : AtomOp) (s : State) :
    exec (.atomSc o op) s = slotExec (.atomSc o op) (runAtomSc o op) s := rfl
theorem exec_redAddF32 (o : MWOps) (s : State) :
    exec (.redAddF32 o) s = slotExec (.redAddF32 o) (runRedAddF32 o) s := rfl
theorem exec_redAddN32 (o : MWOps) (s : State) :
    exec (.redAddN32 o) s = slotExec (.redAddN32 o) (runRedAddN32 o) s := rfl
theorem exec_redMinF32 (o : MWOps) (s : State) :
    exec (.redMinF32 o) s = slotExec (.redMinF32 o) (runRedMinF32 o) s := rfl
theorem exec_redMaxF32 (o : MWOps) (s : State) :
    exec (.redMaxF32 o) s = slotExec (.redMaxF32 o) (runRedMaxF32 o) s := rfl
theorem exec_redAddBf16 (o : MWOps) (s : State) :
    exec (.redAddBf16 o) s = slotExec (.redAddBf16 o) (runRedAddBf16 o) s := rfl
theorem exec_flushr (p : Guard) (ac : BitVec 3) (s : State) :
    exec (.flushr p ac) s = slotExec (.flushr p ac) (runFlushr ac) s := rfl
theorem exec_flushrOrdered (p : Guard) (a : PairSpec) (ofs : BitVec 9) (ac : BitVec 3) (ad : Bool) (s : State) :
    exec (.flushrOrdered p a ofs ac ad) s = slotExec (.flushrOrdered p a ofs ac ad) (runFlushrOrdered p a ofs ac) s := rfl
theorem exec_fenceAcq (p : Guard) (sc : Scope) (s : State) :
    exec (.fenceAcq p sc) s = slotExec (.fenceAcq p sc) (runFenceAcq sc) s := rfl
theorem exec_fenceRel (p : Guard) (sc : Scope) (s : State) :
    exec (.fenceRel p sc) s = slotExec (.fenceRel p sc) (runFenceRel sc) s := rfl
theorem exec_fenceAr (p : Guard) (sc : Scope) (s : State) :
    exec (.fenceAr p sc) s = slotExec (.fenceAr p sc) (runFenceAr sc) s := rfl
theorem exec_xfence (p : Guard) (up down : BitVec 7) (sc : Scope) (s : State) :
    exec (.xfence p up down sc) s = slotExec (.xfence p up down sc) (runXfence up down sc) s := rfl
theorem exec_semp (p : Guard) (n adr : ImmOrS) (ofs : BitVec 12) (s : State) :
    exec (.semp p n adr ofs) s = slotExec (.semp p n adr ofs) (runSemp n adr ofs) s := rfl
theorem exec_semw (p : Guard) (n adr : ImmOrS) (ofs : BitVec 12) (s : State) :
    exec (.semw p n adr ofs) s = slotExec (.semw p n adr ofs) (runSemw n adr ofs) s := rfl
theorem exec_watchArm (p : Guard) (adr : PairSpec) (ofs : BitVec 12) (ad : Bool) (s : State) :
    exec (.watchArm p adr ofs ad) s = slotExec (.watchArm p adr ofs ad) (runWatch true p adr ofs) s := rfl
theorem exec_watchDisarm (p : Guard) (adr : PairSpec) (ofs : BitVec 12) (ad : Bool) (s : State) :
    exec (.watchDisarm p adr ofs ad) s = slotExec (.watchDisarm p adr ofs ad) (runWatch false p adr ofs) s := rfl
theorem exec_stset (p : Guard) (k : BitVec 4) (cap base : BitVec 7) (s : State) :
    exec (.stset p k cap base) s = slotExec (.stset p k cap base) (runStset k cap base) s := rfl
theorem exec_stapp (p : Guard) (val key : Spec) (zb nk : BitVec 4) (ad : Bool) (s : State) :
    exec (.stapp p val key zb nk ad) s = slotExec (.stapp p val key zb nk ad) (runStapp p val key zb nk) s := rfl
theorem exec_stcmt (p : Guard) (k : BitVec 4) (sc : Scope) (dest : BitVec 7) (n : Byte) (s : State) :
    exec (.stcmt p k sc dest n) s = slotExec (.stcmt p k sc dest n) (runStcmt k sc dest n) s := rfl
theorem exec_tsend (p : Guard) (val : Spec) (core : ImmOrS) (slot : BitVec 5) (s : State) :
    exec (.tsend p val core slot) s = slotExec (.tsend p val core slot) (runTsend val core slot) s := rfl
theorem exec_tsendM (p : Guard) (val : Spec) (mask : ImmOrS) (slot : BitVec 5) (s : State) :
    exec (.tsendM p val mask slot) s = slotExec (.tsendM p val mask slot) (runTsendM val mask slot) s := rfl
theorem exec_trecv (p : Guard) (d : Spec) (slot : BitVec 5) (stamp : BitVec 12) (s : State) :
    exec (.trecv p d slot stamp) s = slotExec (.trecv p d slot stamp) (runTrecv p d slot stamp) s := rfl

end Sys2Proof.Machine
end

