-- ==== Sys2Proof/Laws/Memory.lean ====
section
/-!
SUPPORT. The laws of memory as a list of cells: every operation keeps the canonical form, a read after a write to the same
place gives the value written, and a write leaves every other place alone.
-/
namespace Sys2Proof.Machine

/-- Every cell of a list lies at or above an address. -/
def cellsFrom (lo : Nat) : List Host.Cell → Prop
  | [] => True
  | (k, v) :: r => lo ≤ k ∧ v ≠ 0 ∧ cellsFrom (k + 1) r

theorem cellsFrom_mono {lo hi : Nat} (h : lo ≤ hi) {m : List Host.Cell} (hm : cellsFrom hi m) : cellsFrom lo m := by
  cases m with
  | nil => trivial
  | cons x r => exact ⟨Nat.le_trans h hm.1, hm.2⟩

/-- The canonical form says that the addresses rise strictly from the first one and that no zero is listed. -/
theorem Memory.wf_iff (m : List Host.Cell) : Memory.wf m = true ↔ cellsFrom 0 m := by
  induction m with
  | nil => simp [Memory.wf, cellsFrom]
  | cons x r ih =>
    obtain ⟨k, v⟩ := x
    cases r with
    | nil => simp [Memory.wf, cellsFrom]
    | cons y t =>
      obtain ⟨k', v'⟩ := y
      simp only [Memory.wf, Bool.and_eq_true, bne_iff_ne, decide_eq_true_eq, ih, cellsFrom] at *
      constructor
      · rintro ⟨⟨h1, h2⟩, h3⟩; exact ⟨Nat.zero_le _, h1, h2, h3.2⟩
      · rintro ⟨_, h1, h2, h3⟩; exact ⟨⟨h1, h2⟩, Nat.zero_le _, h3⟩

/-- Below the first address a memory reads as zero. -/
theorem memGet_below {lo a : Nat} {m : List Host.Cell} (hm : cellsFrom lo m) (h : a < lo) : memGet m a = 0 := by
  induction m generalizing lo with
  | nil => rfl
  | cons x r ih =>
    obtain ⟨k, v⟩ := x
    have : k ≠ a := by have := hm.1; omega
    simp only [memGet, if_neg this]
    exact ih hm.2.2 (by have := hm.1; omega)

theorem cellsFrom_memSet {lo a : Nat} (b : Byte) {m : List Host.Cell} (hm : cellsFrom lo m) (h : lo ≤ a) :
    cellsFrom lo (memSet m a b) := by
  induction m generalizing lo with
  | nil =>
    simp only [memSet]
    split
    · trivial
    · next hb => exact ⟨h, hb, trivial⟩
  | cons x r ih =>
    obtain ⟨k, v⟩ := x
    obtain ⟨h1, h2, h3⟩ := hm
    simp only [memSet]
    split
    · next hk =>
      split
      · exact ⟨h1, h2, h3⟩
      · next hb => exact ⟨h, hb, hk, h2, h3⟩
    · split
      · next hk hk2 =>
        split
        · exact cellsFrom_mono (by omega) h3
        · next hb => subst hk2; exact ⟨h, hb, h3⟩
      · exact ⟨h1, h2, ih h3 (by omega)⟩

/-- A stored byte keeps the canonical form. -/
theorem Memory.wf_memSet {m : List Host.Cell} (hm : Memory.wf m = true) (a : Nat) (b : Byte) :
    Memory.wf (memSet m a b) = true := by
  rw [Memory.wf_iff] at *
  exact cellsFrom_memSet b hm (Nat.zero_le _)

/-- Stored bytes keep the canonical form. -/
theorem Memory.wf_memWrite (l : List Byte) {m : List Host.Cell} (hm : Memory.wf m = true) (a : Nat) :
    Memory.wf (memWrite m a l) = true := by
  induction l generalizing m a with
  | nil => exact hm
  | cons b r ih => exact ih (Memory.wf_memSet hm a b) (a + 1)

theorem memGet_memSet_from {lo : Nat} {m : List Host.Cell} (hm : cellsFrom lo m) (a : Nat) (b : Byte) (x : Nat) :
    memGet (memSet m a b) x = if x = a then b else memGet m x := by
  induction m generalizing lo with
  | nil =>
    simp only [memSet]
    split
    · next hb => split <;> simp only [memGet, hb]
    · simp only [memGet, eq_comm (a := x)]
  | cons y r ih =>
    obtain ⟨k, v⟩ := y
    obtain ⟨h1, h2, h3⟩ := hm
    simp only [memSet]
    split
    · next hk =>
      have hz : memGet ((k, v) :: r) a = 0 := memGet_below (lo := k) ⟨Nat.le_refl _, h2, h3⟩ hk
      split
      · next hb => split
                   · next hx => rw [hx, hz, hb]
                   · rfl
      · rw [memGet]; simp only [eq_comm (a := x)]
    · split
      · next hk hk2 =>
        subst hk2
        have hz : memGet r a = 0 := memGet_below h3 (by omega)
        split
        · next hb => split
                     · next hx => rw [hx, hz, hb]
                     · next hx => rw [memGet, if_neg (Ne.symm hx)]
        · simp only [memGet, eq_comm (a := x)]
          split <;> rfl
      · next hk hk2 =>
        simp only [memGet, ih h3]
        by_cases hx : x = a
        · subst hx; simp only [if_neg (Ne.symm hk2), if_true]
        · simp only [if_neg hx]

/-- A read after a stored byte. -/
theorem memGet_memSet {m : List Host.Cell} (hm : Memory.wf m = true) (a : Nat) (b : Byte) (x : Nat) :
    memGet (memSet m a b) x = if x = a then b else memGet m x :=
  memGet_memSet_from ((Memory.wf_iff m).1 hm) a b x

/-- A read outside the bytes stored. -/
theorem memGet_memWrite_other (l : List Byte) {m : List Host.Cell} (hm : Memory.wf m = true) (a x : Nat)
    (h : x < a ∨ a + l.length ≤ x) : memGet (memWrite m a l) x = memGet m x := by
  induction l generalizing m a with
  | nil => rfl
  | cons b r ih =>
    simp only [List.length_cons] at h
    rw [memWrite, ih (Memory.wf_memSet hm a b) (a + 1) (by omega), memGet_memSet hm, if_neg (by omega)]

/-- A read of a byte stored. -/
theorem memGet_memWrite_self (l : List Byte) {m : List Host.Cell} (hm : Memory.wf m = true) (a i : Nat)
    (h : i < l.length) : memGet (memWrite m a l) (a + i) = l[i] := by
  induction l generalizing m a i with
  | nil => simp at h
  | cons b r ih =>
    cases i with
    | zero =>
      show memGet (memWrite (memSet m a b) (a + 1) r) a = b
      rw [memGet_memWrite_other r (Memory.wf_memSet hm a b) (a + 1) a (by omega),
        memGet_memSet hm, if_pos rfl]
    | succ j =>
      have := ih (Memory.wf_memSet hm a b) (a + 1) j (by simpa using h)
      rw [memWrite, show a + (j + 1) = a + 1 + j from by omega, this]
      rfl

theorem cellsFrom_filter {lo : Nat} (f : Host.Cell → Bool) {m : List Host.Cell} (hm : cellsFrom lo m) :
    cellsFrom lo (m.filter f) := by
  induction m generalizing lo with
  | nil => exact hm
  | cons x r ih =>
    obtain ⟨h1, h2, h3⟩ := hm
    rw [List.filter_cons]
    split
    · exact ⟨h1, h2, ih h3⟩
    · exact cellsFrom_mono (Nat.le_succ_of_le h1) (ih h3)

/-- Cells taken out keep the canonical form (R439, R456). -/
theorem Memory.wf_filter {m : List Host.Cell} (hm : Memory.wf m = true) (f : Host.Cell → Bool) :
    Memory.wf (m.filter f) = true := by
  rw [Memory.wf_iff] at *
  exact cellsFrom_filter f hm

/-! ## Stores at a line's home -/

/-- A watch that is hit changes no memory. -/
theorem hitWatches_ms (s : State) (ln : Nat) : (hitWatches s ln).ms = s.ms := by
  simp only [hitWatches]

/-- A store at a home keeps the canonical form. -/
theorem Memory.wf_homeWrite {s : State} (hm : Memory.wf s.ms.mem = true) (pa : Nat) (l : List Byte) :
    Memory.wf (homeWrite s pa l).ms.mem = true := by
  simp only [homeWrite, hitWatches_ms]
  split <;> exact Memory.wf_memWrite l hm pa

/-- Stores at virtual addresses keep it. -/
theorem Memory.wf_putBytes (l : List (Nat × List Byte)) {s : State} (hm : Memory.wf s.ms.mem = true) :
    Memory.wf (putBytes s l).ms.mem = true := by
  induction l generalizing s with
  | nil => exact hm
  | cons x r ih =>
    refine ih ?_
    dsimp only
    split
    · exact Memory.wf_homeWrite hm ..
    · exact hm

/-- A counted access keeps it. -/
theorem Memory.wf_countAccess {s : State} (hm : Memory.wf s.ms.mem = true) (ln : Nat) :
    Memory.wf (countAccess s ln).ms.mem = true := by
  simp only [countAccess]
  split
  · exact hm
  · split
    · exact hm
    · split
      · exact Memory.wf_homeWrite hm ..
      · split
        · exact Memory.wf_homeWrite hm ..
        · refine Memory.wf_putBytes _ ?_
          split <;> exact Memory.wf_homeWrite hm ..

/-- The accesses of a walk keep it. -/
theorem Memory.wf_countAccesses (l : List Nat) {s : State} (hm : Memory.wf s.ms.mem = true) :
    Memory.wf (List.foldl countAccess s l).ms.mem = true := by
  induction l generalizing s with
  | nil => exact hm
  | cons x r ih => exact ih (Memory.wf_countAccess hm x)

end Sys2Proof.Machine
end

