-- ==== Sys2Proof/Tests/Slice0.lean ====
section
/-!
SUPPORT. Small tests: ill-formed terms that the check refuses, slot words written out from the spec's encodings, single steps
whose results the spec gives, and for each statement a state and operands that meet its premises.
-/
namespace Sys2Proof.Tests
set_option Elab.async false
open Sys2Proof Sys2Proof.Machine

/-! ## Small states -/

/-- The condition that always holds (f0), one that does not (f1), and the predicate of lane 0. -/
def always : Guard := ⟨false, 0⟩

def off1 : Guard := ⟨false, 1⟩

def lane0 : Guard := ⟨false, 1⟩

/-- A running warp of level `lv`: one entry of all lanes, v0 to v15 and v24 to v31 bound, some scalar registers, p1 true in lane 0. -/
def warpOf (lv : Level) : Warp :=
  { Warp.empty with
    status := .run, level := lv, entries := [⟨0x1000, 0, BitVec.allOnes 128, false, 0, .none, none⟩]
    s := [(1, 5), (2, 0x2000), (3, 0x80000000), (4, 0xFFFFFFFF), (5, 0x105), (6, 0x1008), (10, 0x2000), (12, 64), (13, 2)]
    p := [(1, 1)]
    map := (List.range 16 ++ [24, 25, 26, 27, 28, 29, 30, 31]).map (fun n => (n, ⟨BitVec.ofNat 9 (n / 8), n⟩))
    segLimit := [(0, 0x200000000000000), (1, 0xC00000), (2, 0xC00000), (4, 0x100000000000000), (5, 0xC00000)] }

/-- A core with that warp in slot 0, and with the translation of the lowest pages. -/
def coreOf (w : Warp) : Core := { Core.reset with warps := [(0, w)], tlb := [⟨0, 16, 0, true, true, true, false⟩], current := some 0 }

/-- A started part with that core as core 0 and as the one whose bundle issues. -/
def stateOf (w : Warp) : State :=
  { State.reset with
    gcc := 1000, cores := [(0, coreOf w)], cursor := 2
    cur := { Cur.reset with pc := 0x1000, nextPc := 0x1008, mask := BitVec.allOnes 128 }
    sched := { State.reset.sched with
      groups := [(0, { Group.empty with
        status := .resident, core := 0, warps := 1, slots := [0], pools := List.replicate 8 512, allot := 0x100000
        budget := 0xFFFFFFFFFFFFFFFF, roles := [⟨0x1000, 0, List.replicate 8 512⟩, ⟨0x1000, 0, List.replicate 8 512⟩] })]
      treeMask := [(0, 1)] }
    pt := { State.reset.pt with start := { State.reset.pt.start with started := true } } }

/-- The states most tests start from: level U and level S. -/
def U : State := stateOf (warpOf .u)

def S : State := stateOf (warpOf .s)

/-- A change of the issuing warp. -/
def upd (s : State) (f : Warp → Warp) : State := s.updMe f

/-- The same with one lane in the entry. -/
def one (s : State) : State :=
  { s.updMe (fun w => { w with entries := [⟨0x1000, 0, 1, false, 0, .none, none⟩] }) with cur := { s.cur with mask := 1 } }

/-- Inside a static region entered at cycle 990. -/
def inReg (s : State) : State := upd s (fun w => { w with region := some ⟨0x1000, 0x2000, 500, true, 990, 0⟩ })

/-- An instruction acts: its guard admits it and its operands and bindings are found. -/
def acts (s : State) (i : Instr) : Bool := !isOff s i && (match prep i s with | .ok _ => true | .error _ => false)

theorem acts_ready (s : State) (i : Instr) (h : acts s i = true) : ∃ t, Ready i s t := by
  unfold acts at h
  cases hp : prep i s with
  | error e => simp [hp] at h
  | ok t => exact ⟨t, by simpa [hp] using h, hp⟩

/-- Whether a run goes on. -/
def nexts (o : Host.Outcome State Fault Refusal) : Bool := match o with | .next _ => true | _ => false

def o3 : S3 := ⟨always, 5, 3, .reg 4⟩

def o2 : S2 := ⟨always, 5, 3⟩

def v2 : V2 := ⟨always, .v 1, .v 2, .v 3, false, false, false, 0⟩

def v1 : V1 := ⟨always, .v 1, .v 2, false, false, 0⟩

def va : VAcc := ⟨always, 1, .v 2, .v 3, false, false, false, 0⟩

def vc : VCmp := ⟨always, 2, .v 2, .v 3, false, false⟩

def vr : VRed := ⟨always, 1, .v 2, false, false, .i32, 2⟩


/-! ## Slot words, written out field by field from R31 to R37 and the entries -/

/-- Condition f2 or predicate p2, negated: FN or PN is 1 and FL or PR is 2. -/
def n2 : Guard := ⟨true, 2⟩

/-- S-form: OP, FN, FL, SD, SA_, I, SB_, FX (R32). -/
def sW (op : BitVec 8) (sd sa : BitVec 7) (i : BitVec 1) (b : BitVec 14) (fx : BitVec 7) : SlotWord :=
  op ++ 1#1 ++ 2#3 ++ sd ++ sa ++ i ++ b ++ fx

/-- B-form: OP, CN, CD, OFF, AUX (R37). -/
def bW (op : BitVec 8) (off : BitVec 26) (aux : BitVec 10) : SlotWord := op ++ 1#1 ++ 2#3 ++ off ++ aux

/-- V-form: OP, PN, PR, DST, SRA, SRB, DA, DB, KC, KI (R31). -/
def vW (op : BitVec 8) (dst a b : BitVec 10) (da db kc : BitVec 1) (ki : BitVec 3) : SlotWord :=
  op ++ 1#1 ++ 2#3 ++ dst ++ a ++ b ++ da ++ db ++ kc ++ ki

/-- M-form: OP, PN, PR, DAT, SEG, ADR, OFS, AD (R33). -/
def mW (op : BitVec 8) (dat : BitVec 10) (seg : BitVec 3) (adr : BitVec 10) (ofs : BitVec 12) (ad : BitVec 1) : SlotWord :=
  op ++ 1#1 ++ 2#3 ++ dat ++ seg ++ adr ++ ofs ++ ad

/-- MW-form: OP, PN, PR, DAT, SEG, ADR, OFS, AC, AD (R34). -/
def mwW (op : BitVec 8) (dat : BitVec 10) (seg : BitVec 3) (adr : BitVec 10) (ofs : BitVec 9) (ac : BitVec 3) (ad : BitVec 1) :
    SlotWord :=
  op ++ 1#1 ++ 2#3 ++ dat ++ seg ++ adr ++ ofs ++ ac ++ ad

/-- X-form: OP, PN, PR, OPA, OPB, SCO, AE, AC (R36). -/
def xW (op : BitVec 8) (a b : BitVec 10) (ae : BitVec 1) (ac : BitVec 3) : SlotWord :=
  op ++ 1#1 ++ 2#3 ++ a ++ b ++ 0#12 ++ ae ++ ac

/-- The specifiers of v20, s5, k3, ps1 and the immediate 5 (R38). -/
def spV : BitVec 10 := 20
def spS : BitVec 10 := 0b1000000101
def spK : BitVec 10 := 0b1010000011
def spP : BitVec 10 := 0b1010010001
def spI : BitVec 10 := 0b1100000101

/-- Whether each word of a list decodes in a slot, at level F, to the instruction beside it, which is well-formed and whose word it
is. -/
def decodes (sl : Slot) (l : List (SlotWord × Option SlotWord × Instr)) (r : Bool := false) : Bool :=
  l.all (fun x => (decodeSlot sl .f r x.1 x.2.1).toOption == some x.2.2 && encodeSlot x.2.2 == some (x.1, x.2.1) &&
    x.2.2.wf r && slotAccepts x.2.2 sl)

def g3 : S3 := ⟨n2, 5, 6, .reg 7⟩

def sWords1 : List (SlotWord × Option SlotWord × Instr) :=
  [(sW 0x01 5 6 0 7 0, none, .iadd g3), (sW 0x02 5 6 0 7 0, none, .isub g3), (sW 0x03 5 6 0 7 0, none, .imul g3),
   (sW 0x04 5 6 0 7 1, none, .imulh g3 true), (sW 0x05 5 6 0 7 9, none, .imad g3 9), (sW 0x06 5 6 0 7 1, none, .idiv g3 true),
   (sW 0x07 5 6 0 7 0, none, .irem g3 false), (sW 0x08 5 6 0 7 0, none, .iand g3), (sW 0x09 5 6 0 7 0, none, .ior g3),
   (sW 0x0A 5 6 0 7 0, none, .ixor g3), (sW 0x0B 5 6 0 7 0, none, .iandn g3), (sW 0x0C 5 6 0 7 0, none, .shl g3),
   (sW 0x0D 5 6 0 7 0, none, .shr g3), (sW 0x0E 5 6 1 0x3FFD 0, none, .shra { g3 with b := .imm 0x3FFD }),
   (sW 0x0F 5 6 0 7 0, none, .rot g3), (sW 0x10 5 6 0 0 0, none, .clz ⟨n2, 5, 6⟩), (sW 0x11 5 6 0 0 0, none, .popc ⟨n2, 5, 6⟩),
   (sW 0x12 5 6 0 0 0, none, .brev ⟨n2, 5, 6⟩), (sW 0x13 5 6 0 7 0b0111111, none, .bfx g3 31 true),
   (sW 0x14 5 6 0 7 0b0000011, none, .bfi g3 3), (sW 0x15 5 6 0 7 1, none, .imin g3 true), (sW 0x16 5 6 0 7 0, none, .imax g3 false)]

def sWords2 : List (SlotWord × Option SlotWord × Instr) :=
  [(sW 0x17 3 6 0 7 9, none, .icmp n2 3 6 (.reg 7) .geN), (sW 0x18 5 6 0 7 0b0001100, none, .sel g3 4 true),
   (sW 0x19 5 0 1 0x2000 0, none, .movi n2 5 0x2000), (sW 0x1A 5 0 0 0 0, some 0x0000DEADBEEF, .limmB32 n2 5 0xDEADBEEF),
   (sW 0x1A 4 0 1 0 0, some 0x8000DEADBEEF, .limmB64 n2 4 0x8000DEADBEEF), (sW 0x1B 5 0 1 0 0, none, .movsRf n2 5),
   (sW 0x1B 0 6 1 0 1, none, .movsWf n2 6), (sW 0x1B 5 0 1 5 2, none, .movsLc n2 5 5),
   (sW 0x1B 5 0 1 0b11011 3, none, .movsRp n2 5 3 3), (sW 0x1B 0 6 1 0b10111 4, none, .movsWp n2 7 2 6),
   (sW 0x1B 5 0 1 2 5, none, .movsRm n2 5 2), (sW 0x1C 4 6 0 8 0, none, .aadd ⟨n2, 4, 6, .reg 8⟩),
   (sW 0x1D 4 6 0 7 0b0001011, none, .alea ⟨n2, 4, 6, .reg 7⟩ 3 true), (sW 0x1E 3 1 0 2 0b1000, none, .flop n2 3 1 2 8),
   (sW 0x1F 4 0 0 0 0, none, .rdgcc n2 4), (sW 0x20 5 0 0 0 6, none, .rdid n2 5 6)]

def sWords3 : List (SlotWord × Option SlotWord × Instr) :=
  [(bW 0x40 0x3FFFFFF 0, none, .bru n2 0x3FFFFFF), (bW 0x41 4 0, none, .brv n2 4),
   (bW 0x42 4 0, some 0x000B12345678, .brd n2 4 ⟨true, 3⟩ 0x1234 0x5678), (bW 0x43 4 0, none, .jmp n2 4),
   (bW 0x44 4 0b1000011110, none, .call n2 4 30), (sW 0x45 0 30 0 0 0, none, .ret n2 30),
   (sW 0x46 0 0 0 7 63, none, .loop n2 (.reg 7) 63), (sW 0x47 5 0 0 7 0b0001101, none, .lstr n2 5 (.reg 7) 5 true),
   (sW 0x48 0 0 0 0 0, none, .yield n2), (sW 0x49 0 0 0 0 0, none, .exit n2),
   (0x4A#8 ++ 0#4 ++ 4#26 ++ spV, none, .chk 4 20), (sW 0x50 0 0 1 6 3, none, .waita n2 6 3),
   (sW 0x51 0b0001011 6 1 1 1, none, .twait n2 true 3 6 1 true), (sW 0x52 0 0 0 7 0b0011111, none, .bar n2 (.reg 7) 15 true),
   (sW 0x53 0 0 0 7 0b0000011, none, .barq n2 (.reg 7) 3 false), (sW 0x54 0 6 0 7 0, none, .phase n2 6 (.reg 7)),
   (sW 0x55 0 0 0 7 0, none, .phwait n2 (.reg 7))]

def sWords4 : List (SlotWord × Option SlotWord × Instr) :=
  [(sW 0x60 0 0 1 17 0, none, .trap n2 (.imm 17)), (sW 0x61 0 0 1 3 0, none, .sys n2 (.imm 3)), (sW 0x62 0 0 0 0 0, none, .eret n2),
   (sW 0x63 5 0 1 0x40 0, none, .ctlr n2 5 (.imm 0x40)), (sW 0x64 0 6 1 0x41 0, none, .ctlw n2 6 (.imm 0x41)),
   (sW 0x65 0 6 0 0 0b0001101, none, .segw n2 6 5 true), (sW 0x66 5 6 0 0 1, none, .prmt n2 5 6 true),
   (sW 0x67 5 6 0 7 0, none, .wfw g3), (sW 0x68 5 6 0 0 3, none, .launch n2 5 6 3), (sW 0x69 0 0 1 2 0, none, .role n2 (.imm 2)),
   (sW 0x6A 4 0 0 0 0, none, .wdogRd n2 4), (sW 0x6A 0 4 0 0 1, none, .wdogLower n2 4), (sW 0x6A 0 4 0 0 2, none, .wdogSet n2 4),
   (sW 0x6B 5 0 1 5 0, none, .govr n2 5 (.imm 5)), (sW 0x6B 4 0 1 2 2, none, .govrP n2 4 (.imm 2)),
   (sW 0x6B 0 6 1 5 1, none, .govrW n2 6 (.imm 5)), (sW 0x6B 0 6 1 2 3, none, .govrWp n2 6 (.imm 2))]

def sWords : List (SlotWord × Option SlotWord × Instr) := sWords1 ++ sWords2 ++ sWords3 ++ sWords4

theorem test_scalar_words_decode : decodes .sa sWords = true := by decide +kernel

def w2 : V2 := ⟨n2, .v 20, .s 5, .k 3, false, false, true, 6⟩

/-- d = v20, a = s5, b = k3, with a copy into k6. -/
def vw2 (op : BitVec 8) : SlotWord := vW op spV spS spK 0 0 1 6

def w1 : V1 := ⟨n2, .v 20, .v 20, true, true, 6⟩

/-- d = v20, a = v20 and dead after it, with a copy into k6. -/
def vw1 (op : BitVec 8) (b : BitVec 10) : SlotWord := vW op spV spV b 1 0 1 6

def wa : VAcc := ⟨n2, 20, .s 5, .v 20, false, true, false, 0⟩

def vwa (op : BitVec 8) : SlotWord := vW op spV spS spV 0 1 0 0

def wc : VCmp := ⟨n2, 4, .s 5, .k 3, false, false⟩

def vwc (op : BitVec 8) : SlotWord := vW op 4 spS spK 0 0 0 0

def vWords1 : List (SlotWord × Option SlotWord × Instr) :=
  [(vw2 0x01, none, .fadd w2), (vw2 0x02, none, .fsub w2), (vw2 0x03, none, .fmul w2), (vwa 0x04, none, .ffma wa), (vw2 0x05, none, .ffmak w2),
   (vw2 0x06, none, .fmin w2), (vw2 0x07, none, .fmax w2), (vw1 0x08 0, none, .fclass w1), (vw1 0x09 0b1100000011, none, .frnd w1 .rd),
   (vwc 0x10, none, .fcmp wc .eq), (vwc 0x12, none, .fcmp wc .lt), (vwc 0x17, none, .fcmp wc .uno), (vw2 0x20, none, .hadd2 w2 .h16),
   (vw2 0x25, none, .hmul2 w2 .bf16), (vwa 0x22, none, .hfma2 wa .h16), (vwa 0x27, none, .hdot2 wa .bf16), (vw2 0x40, none, .vadd w2),
   (vw2 0x41, none, .vsub w2), (vw2 0x42, none, .vmul w2), (vw2 0x43, none, .vmulh w2 false), (vw2 0x44, none, .vmulh w2 true),
   (vwa 0x45, none, .vmad wa), (vw2 0x46, none, .vmin w2 false), (vw2 0x49, none, .vmax w2 true), (vw1 0x4A 0, none, .vabs w1)]

def vWords2 : List (SlotWord × Option SlotWord × Instr) :=
  [(vw2 0x4B, none, .vand w2), (vw2 0x4C, none, .vor w2), (vw2 0x4D, none, .vxor w2), (vw2 0x4E, none, .vandn w2), (vw1 0x4F 0, none, .vmov w1),
   (vw2 0x50, none, .vshl w2), (vw2 0x51, none, .vshr w2), (vw2 0x52, none, .vshra w2), (vw1 0x53 0, none, .vpopc w1),
   (vw1 0x54 0, none, .vclz w1), (vw2 0x55, none, .vbfx w2 false), (vw2 0x56, none, .vbfx w2 true), (vwa 0x57, none, .vbfi wa),
   (vw2 0x58, none, .vsel w2), (vwa 0x59, none, .vdot4 wa false), (vwa 0x5A, none, .vdot4 wa true), (vwc 0x60, none, .vcmp wc .eq),
   (vwc 0x64, none, .vcmp wc .gtI), (vwc 0x69, none, .vcmp wc .geN), (vw1 0x70 0, some 0x83E4, .cvt w1 .i8 .e4m3 .dyn 1),
   (vw1 0x71 0, some 0x4080, .cvtmx w1 .e5m2 .sr), (vw1 0x72 0, some 0x50E0, .cvtxm w1 .e2m1 .dyn), (vw2 0x73, none, .pack w2)]

def vWords3 : List (SlotWord × Option SlotWord × Instr) :=
  [(vw1 0x74 0b1100001101, none, .unpk w1 true true 1), (vw2 0x75, none, .perm w2), (vw1 0x76 0b1100001111, none, .xsh w1 true 7),
   (vw1 0x77 0b1101000101, none, .vlane w1 .add 5), (vW 0x78 spV 0 0 0 0 1 6, none, .vrand ⟨n2, .v 20, true, 6⟩),
   (vW 0x79 0 spI 0b1100000111 0 0 0 0, none, .mode n2 (.imm 5) (.imm 7))]

def vWords : List (SlotWord × Option SlotWord × Instr) := vWords1 ++ vWords2 ++ vWords3

theorem test_vector_words_decode : decodes .va vWords = true := by decide +kernel

def xs : XCtl := ⟨n2, 0, true, 5⟩

def xn : XCtl := ⟨n2, 0, false, 0⟩

/-- The specifiers of s10 and s12, and of v24. -/
def spS10 : BitVec 10 := 0b1000001010
def spS12 : BitVec 10 := 0b1000001100
def spV24 : BitVec 10 := 24

def xWords1 : List (SlotWord × Option SlotWord × Instr) :=
  [(vw1 0x01 0, none, .rcp w1), (vw1 0x02 0, none, .rsq w1), (vw1 0x03 0, none, .sqrt w1), (vw1 0x04 0, none, .exp2 w1), (vw1 0x05 0, none, .log2 w1),
   (vw1 0x06 0, none, .sin w1), (vw1 0x07 0, none, .cos w1), (vw1 0x08 0, none, .tanh w1), (vw1 0x11 0, none, .rcpA w1), (vw1 0x12 0, none, .rsqA w1),
   (vw1 0x13 0, none, .sqrtA w1), (vw1 0x14 0, none, .exp2A w1), (vw1 0x15 0, none, .log2A w1), (vw1 0x16 0, none, .sinA w1),
   (vw1 0x17 0, none, .cosA w1), (vw1 0x18 0, none, .tanhA w1),
   (vW 0x20 spP spV 0b1100101011 1 0 0 0, none, .redAdd ⟨n2, 1, .v 20, true, true, .i32, 3⟩),
   (vW 0x21 spP spV 0b1100010111 0 0 0 0, none, .redMin ⟨n2, 1, .v 20, false, false, .n32, 7⟩),
   (vW 0x22 spP spV 0b1100000000 0 0 0 0, none, .redMax ⟨n2, 1, .v 20, false, false, .f32, 0⟩),
   (vW 0x23 spV spP 0b1100000100 0 0 1 6, none, .rdrn n2 (.v 20) 1 4 true 6), (vW 0x24 3 0b1100000101 0 0 0 0 0, none, .rclr n2 3 .ones)]

def xWords2 : List (SlotWord × Option SlotWord × Instr) :=
  [(xW 0x40 spI spS 1 5, none, .mcall xs (.imm 5) (.s 5)), (xW 0x41 3 spS10 0 0, none, .mpar xn 3 (.s 10)), (xW 0x42 spI 0 0 0, none, .mfmt xn (.imm 5)),
   (xW 0x43 spS10 0 1 5, none, .mstat xs 10), (xW 0x44 spS10 spS 0 0, none, .mpsw xn 10 5), (xW 0x45 spS10 0b1100000001 1 5, none, .wst xs 10 true),
   (xW 0x46 spS10 0 1 5, none, .wstat xs 10), (xW 0x50 spV24 spS10 1 5, none, .rqCl xs 24 10), (xW 0x51 spV24 spS10 1 5, none, .rqAn xs 24 10),
   (xW 0x52 spV24 spS10 1 5, none, .rqOc xs 24 10), (xW 0x53 spS10 0 1 5, none, .bvhb xs 10), (xW 0x54 spS10 0 0 0, none, .bvhf xn 10),
   (xW 0x58 spV24 spS10 1 5, none, .texS xs 24 10), (xW 0x59 spV24 spS10 1 5, none, .texF xs 24 10), (xW 0x5A spV24 spS10 1 5, none, .texL xs 24 10),
   (xW 0x5B spV24 spS10 1 5, none, .texq xs 24 10), (xW 0x60 spS12 2 1 5, none, .copy xs 12 2), (xW 0x61 spS12 0 1 5, none, .cmpt xs 12),
   (xW 0x62 spS10 spS12 1 5, none, .cmpq xs 10 12), (xW 0x63 0x13 2 0 0, none, .mark xn 0x13 2), (xW 0x64 2 0 1 5, none, .markw xs 2)]

def xWords : List (SlotWord × Option SlotWord × Instr) := xWords1 ++ xWords2

theorem test_engine_words_decode : decodes .xe xWords = true := by decide +kernel

/-- DAT v20, address v20 (a pair where the segment asks for one) and dead after it, offset −4, counter a5. -/
def mwo (seg : BitVec 3) : MWOps := ⟨n2, .v 20, seg, .v 20, 0x1FC, 5, true⟩

def mww (op : BitVec 8) (seg : BitVec 3) : SlotWord := mwW op spV seg spV 0x1FC 5 1

def mo20 : MOps := ⟨n2, .v 20, 2, .v 20, 0xFFC, true⟩

def mw20 (op : BitVec 8) : SlotWord := mW op spV 2 spV 0xFFC 1

/-- LD.ACQ and ST.REL: the scope .pk and the offset −4. -/
def acqo : MWOps := { mwo 0 with ofs := 0b100111100 }

def mWords1 : List (SlotWord × Option SlotWord × Instr) :=
  [(mw20 0x01, none, .ldM .i8 mo20), (mw20 0x02, none, .ldM .n8 mo20), (mw20 0x03, none, .ldM .i16 mo20), (mw20 0x04, none, .ldM .n16 mo20),
   (mw20 0x05, none, .ldM .b32 mo20), (mW 0x06 spV 0 spV 0xFFC 1, none, .ldt { mo20 with seg := 0 }), (mw20 0x08, none, .stM .n8 mo20),
   (mw20 0x09, none, .stM .n16 mo20), (mw20 0x0A, none, .stM .b32 mo20), (mww 0x11 4, none, .ldMw .i8 (mwo 4)), (mww 0x12 4, none, .ldMw .n8 (mwo 4)),
   (mww 0x13 3, none, .ldMw .i16 (mwo 3)), (mww 0x14 0, none, .ldMw .n16 (mwo 0)), (mww 0x15 0, none, .ldMw .b32 (mwo 0)),
   (mww 0x18 0, none, .stMw .n8 (mwo 0)), (mww 0x19 4, none, .stMw .n16 (mwo 4)), (mww 0x1A 0, none, .stMw .b32 (mwo 0)), (mww 0x1C 0, none, .ldS (mwo 0)),
   (mww 0x1D 3, none, .ldPoll (mwo 3)), (mwW 0x1E spV 0 spV 0b100111100 5 1, none, .ldAcq acqo),
   (mwW 0x1F spV 0 spV 0b100111100 5 1, none, .stRel acqo), (mww 0x20 0, none, .ldSc (mwo 0)), (mww 0x21 0, none, .stSc (mwo 0)),
   (mwW 0x22 1 0 spS10 0x1FC 0 0, none, .pref n2 true (.s 10) 0x1FC false)]

def mWords2 : List (SlotWord × Option SlotWord × Instr) :=
  [(mww 0x40 0, none, .atomAdd (mwo 0) false), (mww 0x50 4, none, .atomAdd (mwo 4) true), (mww 0x41 0, none, .atomMin (mwo 0) false false),
   (mww 0x52 0, none, .atomMin (mwo 0) true true), (mww 0x43 0, none, .atomMax (mwo 0) false false), (mww 0x54 0, none, .atomMax (mwo 0) true true),
   (mww 0x45 0, none, .atomAnd (mwo 0) false), (mww 0x46 0, none, .atomOr (mwo 0) false), (mww 0x47 0, none, .atomXor (mwo 0) false),
   (mww 0x48 0, none, .atomExch (mwo 0) false), (mww 0x59 0, none, .atomCas (mwo 0) true), (mww 0x4A 0, none, .atomAddF32 (mwo 0)),
   (mww 0x4B 0, none, .atomAddBf16 (mwo 0)), (mww 0x69 0, none, .atomSc (mwo 0) (.cas false)), (mww 0x70 0, none, .atomSc (mwo 0) (.add true)),
   (mww 0x80 0, none, .redAddF32 (mwo 0)), (mww 0x81 4, none, .redAddN32 (mwo 4)), (mww 0x82 0, none, .redMinF32 (mwo 0)),
   (mww 0x83 0, none, .redMaxF32 (mwo 0)), (mww 0x84 0, none, .redAddBf16 (mwo 0)), (mwW 0x88 0 0 0 0 5 0, none, .flushr n2 5),
   (mwW 0x89 0 0 spV 0x1FC 5 1, none, .flushrOrdered n2 (.v 20) 0x1FC 5 true)]

def mWords3 : List (SlotWord × Option SlotWord × Instr) :=
  [(mW 0x90 0 0 0 0b01100 0, none, .fenceAcq n2 .pk), (mW 0x90 0 0 0 0b10110 0, none, .fenceRel n2 .sy),
   (mW 0x90 0 0 0 0b11000 0, none, .fenceAr n2 .wp), (mW 0x91 2 0 9 0b000100 0, none, .xfence n2 2 9 .pk),
   (mW 0x98 spI 0 spS 0x040 0, none, .semp n2 (.imm 5) (.s 5) 0x040), (mW 0x99 spS 0 spI 0x040 0, none, .semw n2 (.s 5) (.imm 5) 0x040),
   (mW 0x9A 0b1100000001 0 spV 0xFFC 1, none, .watchArm n2 (.v 20) 0xFFC true),
   (mW 0x9A 0b1100000000 0 spS10 0 0, none, .watchDisarm n2 (.s 10) 0 false), (mW 0xA0 spS 5 spS10 3 0, none, .stset n2 3 5 10),
   (mW 0xA1 spV 5 spS 0b000001110100 0, none, .stapp n2 (.v 20) (.s 5) 4 7 false),
   (mW 0xA2 0b1100000001 5 spS 0b000000100100 0, none, .stcmt n2 4 .qd 5 1)]

def mWords : List (SlotWord × Option SlotWord × Instr) := mWords1 ++ mWords2 ++ mWords3

theorem test_memory_words_decode : decodes .ma mWords = true := by decide +kernel

/-- The timed transfers, which decode inside a region: to core 75 by an s-register, slot 3. -/
theorem test_transfer_words_decode :
    decodes .mb [(mW 0xB0 spV 0 0b1101001011 3 0, none, .tsend n2 (.v 20) (.imm 75) 3), (mW 0xB1 spV 0 spS 3 0, none, .tsendM n2 (.v 20) (.s 5) 3),
      (mW 0xB2 spV 0 0b1100000011 212 0, none, .trecv n2 (.v 20) 3 212)] true = true := by decide +kernel

/-- Step words (R208, R209): OP, QE, QN, then the fields of the step. -/
def stepWord (op : BitVec 4) (f : BitVec 56) : BitVec 64 := op ++ 1#1 ++ 5#3 ++ f

def q5 : StepQ := ⟨true, 5⟩

/-- A step word decodes to the step, and is the word of it. -/
abbrev stepIs (w : BitVec 64) (i : Instr) : Prop := decodeStep w = some i ∧ encodeStep i = some w

theorem test_step_words_decode :
    stepIs (stepWord 1 (1#1 ++ 9#15 ++ 3#4 ++ 7#8 ++ 5#15 ++ 0#13)) (.ldsb q5 true 9 3 7 5) ∧
      stepIs (stepWord 2 (40#9 ++ 41#9 ++ 3#4 ++ 7#8 ++ 0#26)) (.ldsv q5 40 41 3 7) ∧
      stepIs (stepWord 3 (40#9 ++ 41#9 ++ 1#1 ++ 8#8 ++ 3#8 ++ 0#21)) (.strm q5 40 41 true 8 3) ∧
      stepIs (stepWord 4 (40#9 ++ 41#9 ++ 1#1 ++ 8#8 ++ 3#8 ++ 0#21)) (.acc q5 40 41 true 8 3) ∧
      stepIs (stepWord 5 (40#9 ++ 0#9 ++ 1#1 ++ 8#8 ++ 3#8 ++ 0#21)) (.scal q5 40 true 8 3) ∧
      stepIs (stepWord 6 (0#18 ++ 1#1 ++ 8#8 ++ 3#8 ++ 2#2 ++ 1#1 ++ 0#1 ++ 0#17)) (.drn q5 true 8 3 2 true false) ∧
      stepIs (stepWord 7 (0#18 ++ 1#1 ++ 8#8 ++ 3#8 ++ 0#21)) (.zero q5 true 8 3) ∧
      stepIs (stepWord 8 (12#12 ++ 4#5 ++ 1#1 ++ 6#3 ++ 7#3 ++ 0#32)) (.stepLoop q5 12 4 true 6 7) ∧
      stepIs (9#4 ++ 0#4 ++ 1#1 ++ 0#55) (.waitf true) ∧ stepIs (10#4 ++ 0#60) .swap ∧
      stepIs (11#4 ++ 0#60) .sync ∧ stepIs (12#4 ++ 0#60) .endStep ∧ decodeStep (13#4 ++ 0#60) = none := by
  decide +kernel

/-! ## Ill-formed terms, which the check refuses -/

/-- An odd pair register, a flag or predicate 0 as destination, a level or mask outside its range. -/
theorem test_wf_refuses_scalar_terms :
    (Instr.limmB64 always 5 0).wf false = false ∧ (Instr.icmp always 0 1 (.imm 0) .eq).wf false = false ∧
      (Instr.movsLc always 5 6).wf false = false ∧ (Instr.movsWp always 0 0 5).wf false = false ∧
      (Instr.aadd ⟨always, 5, 6, .reg 8⟩).wf false = false ∧ (Instr.call always 0 0).wf false = false ∧
      (Instr.waita always 0 0).wf false = false ∧ (Instr.twait always false 0 0 0 false).wf false = false ∧
      (Instr.ctlr always 5 (.imm 0x1000)).wf false = false ∧ (Instr.segw always 6 6 false).wf false = false := by decide +kernel

/-- An immediate as destination, a dead mark on an s-register, KI without KC, a sub-element outside its source. -/
theorem test_wf_refuses_vector_terms :
    (Instr.fadd { v2 with d := .imm 1 }).wf false = false ∧ (Instr.fadd { v2 with a := .s 1, da := true }).wf false = false ∧
      (Instr.fadd { v2 with ki := 1 }).wf false = false ∧ (Instr.vmad { va with b := .null }).wf false = false ∧
      (Instr.vcmp { vc with pd := 0 } .eq).wf false = false ∧ (Instr.redAdd { vr with a := .s 1, da := true }).wf false = false ∧
      (Instr.cvt v1 .i16 .f32 .rne 2).wf false = false ∧ (Instr.unpk v1 true true 2).wf false = false ∧
      (Instr.vlane v1 .rev 1).wf false = false ∧ (Instr.vrand ⟨always, .v 1, false, 1⟩).wf false = false := by decide +kernel

/-- A segment the opcode does not take, an odd address pair, a data operand or scope outside its table, a required arrival left out. -/
theorem test_wf_refuses_memory_and_engine_terms :
    (Instr.ldM .b32 { mo20 with seg := 0 }).wf false = false ∧ (Instr.ldMw .b32 { mwo 0 with adr := .v 21 }).wf false = false ∧
      (Instr.atomAdd { mwo 0 with dat := .s 5 } true).wf false = false ∧ (Instr.ldAcq { mwo 0 with ofs := 0b111000000 }).wf false = false ∧
      (Instr.pref always false (.s 10) 0 true).wf false = false ∧ (Instr.xfence always 0 1 .pk).wf false = false ∧
      (Instr.stapp always (.v 1) (.imm 0) 12 7 false).wf false = false ∧ (Instr.stcmt always 0 .wp 5 1).wf false = false ∧
      (Instr.mstat xn 10).wf false = false ∧ (Instr.mpar xs 0 (.imm 0)).wf false = false ∧
      (Instr.mstat { xs with sco := 1 } 10).wf false = false ∧ (Instr.texS xs 25 10).wf false = false ∧ (Instr.mark xn 0 0).wf false = false ∧
      (Instr.bundleIssue ⟨1, []⟩).wf false = false ∧ (Instr.idleBundle 1).wf false = false := by decide +kernel

/-- Words of the commands whose arrival is optional, with AE = 0. -/
theorem wit_arrivalFields :
    decodes .xe [(xW 0x40 spI spS 0 0, none, .mcall xn (.imm 5) (.s 5)), (xW 0x45 spS10 0b1100000001 0 0, none, .wst xn 10 true),
      (xW 0x53 spS10 0 0 0, none, .bvhb xn 10), (xW 0x60 spS12 2 0 0, none, .copy xn 12 2), (xW 0x61 spS12 0 0 0, none, .cmpt xn 12)] = true ∧
      (decodeSlot .xe .u false (xW 0x43 spS10 0 0 0) none).toOption = none ∧
      (decodeSlot .xe .u false (xW 0x44 spS10 spS 1 0) none).toOption = none := by decide +kernel
/-! ## Premises of the statements: scalar instructions, control and waiting -/

theorem wit_scalarArithmetic :
    flagOn U.me always = true ∧ (SSrc.imm 0).val U.me = 0 ∧ sGet U.me 3 = 0x80000000 ∧ (SSrc.reg 4).val U.me = 0xFFFFFFFF ∧
      sGet U.me 1 = 5 := by decide +kernel

theorem wit_scalarShift : flagOn U.me o3.g = true ∧ flagOn U.me o2.g = true ∧ sGet U.me o2.a ≠ 0 := by decide +kernel

theorem wit_scalarMoves : flagOn U.me o3.g = true ∧ U.me.handle ≠ noGroup := by decide +kernel

theorem wit_scalarFrame : isScalarResult (.iadd o3) = true ∧ nexts (exec (.iadd o3) U) = true ∧
    isScalarResult (.iadd { o3 with g := off1 }) = true ∧ isOff U (.iadd { o3 with g := off1 }) = true := by decide +kernel

/-- A loop whose body ends at the bundle that issues. -/
def inLoop : State := upd U (fun w => { w with loops := [⟨0x1000, 0x1000, 3, true, none, none⟩] })

theorem wit_controlTransfer :
    controlFault U (some 0x2000) = false ∧ controlFault U none = false ∧ seqFrom U 0 .u 0x1000 4 = some 0x1008 ∧ U.cur.mask ≠ 0 ∧
      predMask U.me always &&& U.cur.mask = U.cur.mask ∧ predMask U.me ⟨true, 0⟩ &&& U.cur.mask = 0 ∧
      predMask U.me lane0 &&& U.cur.mask ≠ 0 ∧ predMask U.me lane0 &&& U.cur.mask ≠ U.cur.mask ∧
      (tget? U.me.map 1).isSome = true ∧ controlFault inLoop (some 0x2000) = true ∧ nearEnd inLoop = true ∧
      (inLoop.me.loops.getLast?).map (·.stop) = some inLoop.cur.pc := by decide +kernel

theorem wit_divergence :
    predMask U.me ⟨true, 0⟩ &&& U.cur.mask = 0 ∧ U.cur.mask &&& ~~~predMask U.me always = 0 ∧
      predMask U.me always &&& U.cur.mask ≠ 0 ∧ predMask U.me lane0 &&& U.cur.mask ≠ 0 ∧
      U.cur.mask &&& ~~~predMask U.me lane0 ≠ 0 ∧ U.me.region = none ∧ (inReg U).me.region ≠ none ∧
      controlFault U (some 0x1000) = false := by decide +kernel

theorem wit_delayBundles : U.me.xfer = .none ∧ (upd U (fun w => { w with falls := [(3, 7)] })).me.falls = [(3, 7)] := by decide +kernel

theorem wit_loops :
    U.me.loops.length < 6 ∧ (U.me.loops.getLast?).map (·.stop) ≠ some U.cur.pc ∧ (SSrc.imm 5).val U.me ≠ 0 ∧
      (SSrc.imm 0).val U.me = 0 ∧ seqFrom U 0 .u 0x1000 3 = some 0x1006 ∧ seqFrom U 0 .u 0x1000 4 = some 0x1008 ∧
      inLoop.me.loops[(0 : BitVec 3).toNat]? ≠ none ∧ U.me.loops.length ≤ (0 : BitVec 3).toNat := by decide +kernel

theorem wit_yieldAndExit : flagOn U.me always = true ∧ U.me.region = none ∧ (inReg U).me.region ≠ none := by decide +kernel

theorem wit_suppressed :
    isOff U (.iadd { o3 with g := off1 }) = true ∧ isOff U (.bru off1 4) = true ∧ U.cur.after = none ∧ U.me.susp = .none := by
  decide +kernel

/-- A warp with an arrived result on counter 1 and an open one on counter 2. -/
def withResults : State :=
  upd U (fun w => { w with
    results := [⟨7, 1, true, [], 0, false, false, false, none, false⟩, ⟨8, 2, false, [], 0, false, false, false, none, false⟩] })

theorem wit_waits :
    owesWait withResults (coverMask withResults.me 2 0) = false ∧ waitaTrap withResults.me (coverMask withResults.me 2 0) = none ∧
      coverMask withResults.me 2 0 = [7] ∧ twaitMet withResults.me 4 false = false ∧ twaitMet withResults.me 2 false = true ∧
      sGet U.me 0 = 0 ∧ sGet U.me 1 ≠ 0 ∧ withResults.me.susp = .none := by decide +kernel

/-- A barrier at which two are expected and one has arrived, and one at which one is expected. -/
def atBar : State := U.updGroup 0 (fun g => { g with bars := [(1, ⟨some 2, [(0, 0)], [], []⟩), (2, ⟨some 1, [(0, 0)], [], []⟩)] })

theorem wit_barriers :
    U.me.handlerOf = none ∧ U.me.wnum < 16 ∧ (barGet U false 0 1).expect = none ∧ ¬ (16 < 16) ∧
      barExpect atBar false 0 (barGet atBar false 0 1) = some 2 ∧ barCount atBar false 0 (barGet atBar false 0 1) < 2 ∧
      barExpect atBar false 0 (barGet atBar false 0 2) = some 1 ∧ 1 ≤ barCount atBar false 0 (barGet atBar false 0 2) ∧
      (barGet atBar false 0 1).expect ≠ some 5 := by decide +kernel

theorem wit_phases :
    ((SSrc.imm 8).val U.me).extractLsb' 3 29 = 1 ∧ (phaseOf U 0 0).last = 0 ∧ 0 ∈ treeCores U 0 ∧ 0 ∉ treeCores U 1 ∧
      tget 0 U.sched.released 0 < 1 ∧ U.me.susp = .none := by decide +kernel

/-- A phase declared for one arrival: with none come, with one come, and with its release still to perform. -/
def declaring (cur : List Nat) (rel : Option Nat) : State :=
  U.updMyCore (fun k => { k with phases := [(0, ⟨1, some 1, false, cur, [], rel, []⟩)] })

theorem wit_declaredPhases :
    (phaseOf (declaring [] none) 0 0).declared = some 1 ∧ (phaseOf (declaring [] none) 0 0).raised = false ∧
      ¬ 1 ≤ (phaseOf (declaring [] none) 0 0).cur.length ∧ 1 ≤ (phaseOf (declaring [1] (some 5)) 0 0).cur.length ∧
      getReq (declaring [1] (some 5)) 5 = none := by decide +kernel

/-! ## Premises: traps, system instructions -/

/-- A trap-handler warp of the S ring. -/
def handlerState : State := upd S (fun w => { w with handlerOf := some (recordOf U (.of .illegalOperand) 0 0x1000) })

theorem wit_traps :
    Cause.illegalOperand.disp U.me.level ≠ .g ∧ handlerState.me.handlerOf.isSome = true ∧ Cause.fetchFault.disp U.me.level = .g ∧
      U.me.handlerOf = none ∧ (tget? U.sched.groups U.me.handle.toNat).isSome = true ∧ 0 ∈ quadGroup U 0 ∧
      U.me.delay = none ∧ U.me.drain = false ∧
      (U.group 0).status = .resident := by decide +kernel

theorem wit_softwareTraps :
    ((SSrc.imm 255).val U.me).toNat < 256 ∧ 256 ≤ ((SSrc.imm 256).val U.me).toNat ∧ U.cur.after = none ∧
      flagOn S.me always = true := by decide +kernel

theorem wit_controlRegisters :
    ctlNumber U (.imm 0) = some 0 ∧ 0 ∈ ctlAssigned ∧ ctlAllowed .u false 0 = true ∧ ctlAllowed .u true 0 = true ∧
      (sGet U.me 12).toNat % 8 ≤ 4 ∧ 0x40 ∈ ctlAssigned ∧ ctlAllowed .u false 0x40 = false ∧ ctlAllowed .u true 0x40 = false ∧
      U.cur.control = false ∧ ctlNumber U (.reg 3) = none ∧ ctlNumber U (.imm 0x0FF) = some 0xFF ∧ 0xFF ∉ ctlAssigned := by decide +kernel

theorem wit_controlRegisterWrites : 0x41 ∈ [0x41, 0x44, 0x48, 0x4A, 0x50] ∧ 0x00 < 0x80 ∧ 0x00 ≠ 0x10 := by decide +kernel

theorem wit_system :
    ((SSrc.imm 63).val U.me).toNat < 64 ∧ ((SSrc.imm 62).val U.me).toNat % 2 = 0 ∧ S.me.level ≠ .u ∧ U.me.level = .u ∧
      64 ≤ ((SSrc.imm 64).val U.me).toNat ∧ prmtStatus U 5 ≠ 0 := by decide +kernel

/-- Whether lanes were found and translated. -/
def found (r : Except Trap Lanes) : Bool := match r with | .ok (.ok _) => true | _ => false

theorem wit_launch :
    (sPairGet (one S).me 10).toNat % 64 = 0 ∧
      badTrap 0 ((lanesOf (one S).cur.mask).filterMap
        (fun l => checkAddr 64 none false l 0 (sPairGet (one S).me 10 + BitVec.ofNat 64 (64 * l)))) = none ∧
      found (translateLanes (one S) .read 0
        ((lanesOf (one S).cur.mask).map (fun l => (l, sPairGet (one S).me 10 + BitVec.ofNat 64 (64 * l))))) = true ∧
      childRoom (one S).myCore 0 (one S).cur.mask = true ∧ launchAhead (one S).myCore 0 = none := by decide +kernel

theorem wit_role :
    U.me.region = none ∧ U.me.wnum < 16 ∧ ((SSrc.imm 1).val U.me).toNat < U.myGroup.roles.length ∧ U.me.loops = [] ∧
      transferPending U.me = false ∧ U.me.entries.length + U.me.spilled.length ≤ 1 ∧ U.myGroup.arrivedRole = [] := by decide +kernel

/-! ## Premises: vectors -/

theorem wit_bindings :
    acts U (.fadd v2) = true ∧ acts U (.fadd { v2 with d := .v 16 }) = true ∧ acts U (.fadd { v2 with da := true }) = true ∧
      (foot (.fadd { v2 with da := true })).dead = [2] ∧ (foot (.fadd v2)).dsts = [1] ∧ tget? U.me.map 16 = none ∧
      tget? U.me.map 1 ≠ none := by decide +kernel

def vectorForms1 : List Instr :=
  [.vadd v2, .vsub v2, .vmul v2, .vmulh v2 false, .vmulh v2 true, .vmin v2 false, .vmin v2 true, .vmax v2 false, .vmax v2 true,
   .vand v2, .vor v2, .vxor v2, .vandn v2, .vshl v2, .vshr v2, .vshra v2, .vbfx v2 true, .pack v2, .perm v2, .vsel v2]

def vectorForms2 : List Instr :=
  [.vabs v1, .vmov v1, .vpopc v1, .vclz v1, .unpk v1 true false 3, .unpk v1 false false 0, .unpk v1 true true 1,
   .unpk v1 false true 1, .vlane v1 .rev 0, .xsh v1 true 7, .xsh v1 false 7, .vrand ⟨always, .v 1, false, 0⟩]

def vectorForms3 : List Instr :=
  [.vmad va, .vbfi va, .vdot4 va false, .vdot4 va true, .vcmp vc .eq, .fcmp vc .lt]

def vectorForms4 : List Instr :=
  [.fadd v2, .fsub v2, .fmul v2, .fmin v2, .fmax v2, .hadd2 v2 .h16, .hmul2 v2 .bf16, .ffma va, .hfma2 va .h16, .hdot2 va .bf16]

def vectorForms5 : List Instr :=
  [.fclass v1, .frnd v1 .rne, .rcp v1, .rsq v1, .sqrt v1, .exp2 v1, .log2 v1, .sin v1, .cos v1, .tanh v1, .rcpA v1, .rsqA v1,
   .sqrtA v1, .exp2A v1, .log2A v1, .sinA v1, .cosA v1, .tanhA v1]

def vectorForms6 : List Instr :=
  [.cvt v1 .f32 .h16 .rne 0, .cvtmx v1 .e4m3 .rne, .cvtxm v1 .e4m3 .rne, .redAdd vr, .redMin vr, .redMax vr]

/-- The instructions of two sources, one source, accumulating forms, compares and reductions, over operands that are bound. -/
def vectorForms : List Instr := vectorForms1 ++ vectorForms2 ++ vectorForms3 ++ vectorForms4 ++ vectorForms5 ++ vectorForms6

theorem wit_vectorForms : vectorForms.all (acts U) = true := by decide +kernel

theorem wit_vectorSources :
    (srcVal U immInt (.v 2)).lanes.length = 128 ∧ (srcVal U immF32 (.v 3)).lanes.length = 128 ∧
      (srcVal U immInt (.imm 3)).lanes.length = 128 ∧ (srcVal U (cvtImm .h16) (.v 2)).lanes.length = 128 ∧ Rmo.rne.rm (fmodeOf U) ≠ .sr := by decide +kernel

/-- A valid partial sum and a valid operand-cache entry. -/
def withBuffers : State := upd U (fun w => { w with lv := 0xFFF#12, kv := 0xFF#8 })

theorem wit_buffers :
    acts withBuffers (.rdrn always (.v 1) 1 2 false 0) = true ∧ acts withBuffers (.ffmak v2) = true ∧
      acts withBuffers (.redAdd { vr with acc := true }) = true ∧ (srcVal withBuffers immF32 (.k 0)).lanes.length = 128 := by decide +kernel

theorem wit_mode :
    always.never = false ∧ ((U.me.fmode &&& ~~~(7 : Word)) ||| ((ImmOrS.imm 4).val U.me &&& 7)).toNat % 8 ≤ 4 ∧
      5 ≤ ((U.me.fmode &&& ~~~(7 : Word)) ||| ((ImmOrS.imm 5).val U.me &&& 7)).toNat % 8 := by decide +kernel

theorem wit_vectorFrame : vectorForms.all isVector = true ∧ nexts (exec (.vadd v2) U) = true := by decide +kernel

/-! ## Premises: scratchpad, streams and timed transfers -/

def mo (seg : BitVec 3) : MOps := ⟨always, .v 1, seg, .s 1, 3, false⟩

def spadOk (r : Except Trap (List SpadLane)) : Bool := match r with | .ok (_ :: _) => true | _ => false

theorem wit_scratchpad :
    acts (one U) (.ldM .b32 (mo 1)) = true ∧ acts (one U) (.stM .b32 (mo 1)) = true ∧
      spadOk (spadLanes (one U) (activeMask (one U) always) 1 (.s 1) 3 4 0) = true ∧
      spadOk (spadLanes (one U) (activeMask (one U) always) 1 (.s 1) 3 4 1) = true ∧
      sigmaFault (one U) (wordCount (wordRanks [⟨0, 0, 8⟩] [])) = false ∧ (srcVal (one U) immInt (.v 1)).poison = 0 := by decide +kernel

/-- A poisoned v1. -/
def poisoned : State := (one U).updMyCore (fun k => { k with regs := [(regIndex 1 ⟨0, 1⟩, { VReg.zero with poison := 1 })] })

theorem wit_poisonedStore :
    acts poisoned (.stM .b32 (mo 1)) = true ∧
      (srcVal poisoned immInt (.v 1)).poison &&& activeMask poisoned always ≠ 0 := by decide +kernel

theorem wit_scratchpadPerforms :
    Memory.wf (U.core 0).scratch = true ∧
      (⟨1, 6, 0, 0, 990, .store 4 [(8, 5)]⟩ : Access).kind = .store 4 [(8, 5)] ∧
      (⟨1, 6, 0, 0, 990, .load 9 .b32 [(0, 8)] true⟩ : Access).kind = .load 9 .b32 [(0, 8)] true := by decide +kernel

def semOk (r : Except Trap Nat) : Bool := match r with | .ok _ => true | _ => false

theorem wit_semaphores :
    activeMask U always ≠ 0 ∧ semOk (semAddress U (.imm 8) 0) = true ∧ Memory.wf U.myCore.scratch = true ∧ always.never = false ∧
      (0 : Int) ≤ (((ImmOrS.imm 8).val U.me).toNat : Int) + (0 : BitVec 12).toInt ∧
      ((8 : Int) + 4 ≤ (tget 0 U.me.segLimit sgs.toNat).toNat) ∧ (wrapAddr (tget 0 U.me.segBase sgs.toNat) 8).toNat = 8 ∧
      8 + 4 ≤ U.myCore.carve * 2 ^ 20 ∧ U.me.region = none ∧ U.me.susp = .none := by decide +kernel

theorem wit_streams :
    (sGet U.me 10).toNat < 2 ^ 24 ∧ (sGet U.me 1).toNat ≤ 4194303 ∧ streamBeyond U 0x2000 24 = false ∧
      (sGet U.me 10).toNat % 4 = 0 ∧ streamOff U 0x2000 % 4 = 0 ∧ acts (one U) (.stapp always (.v 1) (.imm 0) 2 3 false) = true ∧
      ((srcVal (one U) immInt (.v 1)).poison ||| (srcVal (one U) immNat (.imm 0)).poison) &&& (one U).cur.mask = 0 ∧
      streamBeyond U (zGet U 2).base 4 = false ∧ ((sGet U.me 10).extractLsb' 24 8).toNat ≠ 0xFF ∧
      ((sGet U.me 4).extractLsb' 24 8).toNat = 0xFF ∧ dieOf 64 = 4 ∧ dieOf U.cur.core < 4 ∧ U.cur.zset = [] ∧
      streamBeyond U (tget .reset (zSeen U) 15).base 4 = false := by decide +kernel

/-- A stream with room for the one word that lane 0 appends. -/
def withStream : State := (one U).updGroup 0 (fun g => { g with z := [(2, ⟨0x2000, 64, 0, 0, 0⟩)] })

def appended : Table ZDesc × List (SpadLane × Word) :=
  appendLanes withStream 2 4 (srcVal withStream immNat (.imm 0)) (srcVal withStream immInt (.v 1)) [0] (zSeen withStream) []

theorem wit_append :
    acts withStream (.stapp always (.v 1) (.imm 0) 2 3 false) = true ∧ appended.2 ≠ [] ∧
      appended.2.all (fun x => (appendBad withStream x).isNone) = true ∧
      sigmaFault withStream (wordCount (wordRanks (appended.2.map (·.1)) [])) = false ∧
      ((srcVal withStream immInt (.v 1)).poison ||| (srcVal withStream immNat (.imm 0)).poison) &&& activeMask withStream always = 0 := by
  decide +kernel

theorem wit_appendLane :
    4 ≤ (5 : Nat) ∧ (3 : Nat) < 4 ∧ (tget ZDesc.reset [(3, ⟨0, 2, 2, 0, 0⟩)] 3).cap ≤ 2 ∧
      (tget ZDesc.reset [(3, ⟨0, 2, 1, 0, 0⟩)] 3).count < 2 := by decide +kernel

/-- A packet in inbox slot 3 with stamp 50, and core 1 there. -/
def withPacket : State :=
  inReg (U.updMyCore (fun k => { k with inbox := [(3, ⟨VReg.zero, 50, false⟩), (4, ⟨VReg.zero, 50, true⟩)] }))

theorem wit_transfers :
    acts (inReg U) (.tsend always (.v 1) (.imm 67) 3) = true ∧ coreThere (inReg U) 67 = true ∧
      acts (inReg U) (.tsendM always (.v 1) (.imm 3) 3) = true ∧ maskCores ((ImmOrS.imm 3).val (inReg U).me) ≠ [] ∧
      (maskCores ((ImmOrS.imm 3).val (inReg U).me)).all (coreThere (inReg U)) = true ∧ coreThere (inReg U) 200 = false ∧
      acts (inReg U) (.tsend always (.v 1) (.imm 200) 3) = true ∧
      acts withPacket (.trecv always (.v 1) 3 50) = true ∧ (tget? withPacket.myCore.inbox 3).isSome = true ∧
      50 % 4096 = (50 : BitVec 12).toNat ∧ tget? withPacket.myCore.inbox 5 = none ∧
      acts withPacket (.trecv always (.v 1) 5 50) = true ∧ ((tget? withPacket.myCore.inbox 4).map (·.overrun)) = some true ∧
      acts withPacket (.trecv always (.v 1) 4 50) = true ∧ maskCores ((ImmOrS.imm 0).val (inReg U).me) = [] ∧ U.me.region = none ∧ acts U (.tsend always (.v 1) (.imm 67) 3) = true ∧
      acts U (.tsendM always (.v 1) (.imm 3) 3) = true ∧ acts U (.trecv always (.v 1) 3 50) = true ∧
      acts (inReg U) (.tsendM always (.v 1) (.imm 0) 3) = true ∧ 50 % 4096 ≠ (51 : BitVec 12).toNat := by decide +kernel

/-! ## Premises: memory accesses -/

def mw : MWOps := ⟨always, .v 2, 0, .s 10, 4, 1, false⟩

def mwOk (s : State) (p : Path) (ofs : Int) (n ak : Nat) (need : Need) : Bool :=
  match memLanes s (activeMask s always) 0 (.s 10) ofs n ak need with
  | .ok (.ok ls) => !ls.isEmpty && !portFull s p ls
  | _ => false

theorem wit_globalAccesses :
    (one U).me.region = none ∧ resultRoom (one U).me 1 = true ∧
      (∀ t, acts (one U) (.ldMw t mw) = true ∧ mwOk (one U) .cached 4 t.bytes 0 .read = true) ∧
      (∀ t, acts (one U) (.stMw t mw) = true ∧ mwOk (one U) .cached 4 t.bytes 1 .write = true) ∧
      acts (one U) (.ldPoll mw) = true ∧ mwOk (one U) .home 4 4 0 .read = true ∧ acts (one U) (.ldAcq mw) = true ∧
      mwOk (one U) .home (acqOfs mw) 4 0 .read = true ∧ acts (one U) (.ldSc mw) = true ∧ acts (one U) (.stRel mw) = true ∧
      mwOk (one U) .cached (acqOfs mw) 4 1 .write = true ∧ acts (one U) (.stSc mw) = true ∧
      mwOk (one U) .home 4 4 1 .write = true ∧ (srcVal (one U) immInt (.v 2)).poison = 0 := by
  refine ⟨?_, ?_, fun t => ?_, fun t => ?_, ?_⟩ <;> try cases t
  all_goals decide +kernel

theorem wit_softLoadsTimedLoadsAndPref :
    acts (one U) (.ldS mw) = true ∧
      portFull (one U) .cached ((softLanes (one U) 1 0 (some (tget 0 U.me.segLimit 0)) true (.s 10) 4 4).filter (fun x => !x.bad)) =
        false ∧
      acts (one U) (.ldt ⟨always, .v 2, 0, .s 10, 4, false⟩) = true ∧
      acts (one U) (.pref always false (.s 10) 4 false) = true ∧
      portFull (one U) .home ((softLanes (one U) (activeMask (one U) always) 0 none true (.s 10) 4 1).filter (fun x => !x.bad)) = false := by
  decide +kernel

/-- The issue of an access adds its result under a number that no request and no result has. -/
theorem wit_accessIssue :
    (∀ q ∈ U.ms.reqs, q.rid ≠ some U.nextId) ∧ U.me.results = [] ∧ (Result.new U.nextId 1 [] 1).rid = U.nextId := by
  decide +kernel

def at8 (o : MWOps) : MWOps := { o with ofs := 8 }

theorem wit_atomics :
    (acts (one U) (.atomAdd mw false) && acts (one U) (.atomAdd (at8 mw) true) && acts (one U) (.atomMin mw false true) &&
      acts (one U) (.atomMax (at8 mw) true false) && acts (one U) (.atomAnd mw false) && acts (one U) (.atomOr mw false) &&
      acts (one U) (.atomXor mw false) && acts (one U) (.atomExch (at8 mw) true) && acts (one U) (.atomCas (at8 mw) true) &&
      acts (one U) (.atomAddF32 mw) && acts (one U) (.atomAddBf16 mw) && acts (one U) (.atomSc mw (.add false))) = true ∧
      mwOk (one U) .home 4 4 2 .write = true ∧ mwOk (one U) .home 8 8 2 .write = true ∧
      (atomOperands (one U) (.cas true) (.v 2)).2.2 = 0 ∧ (atomOperands (one U) (.add false) (.v 2)).2.2 = 0 := by decide +kernel

theorem wit_atomLane : U.ms.poisoned.contains (lineOf 0x2004) = false ∧ Memory.wf U.ms.mem = true := by decide +kernel

/-- A store and a load of one lane that perform at their home. -/
def homeReq (k : ReqKind) (x : LaneReq) : Req :=
  ⟨1, 0, 0, none, k, .home, 0x40, [x], [], 0, false, none, none, false, none, none, .listed, 0, false, 0xFF⟩

theorem wit_homeAccesses :
    (tget? (U.core 0).cache 0x40) = none ∧ (0x207C : Nat) / 128 = 0x40 ∧ (0x207C : Nat) % 128 + StTy.b32.bytes ≤ 128 ∧
      (∀ ty : StTy, (homeReq (.store ty) ⟨0, 0x207C, 0x207C, 5, 0, 0, false⟩).acq = none) ∧ Memory.wf U.ms.mem = true := by
  refine ⟨?_, ?_, ?_, fun ty => rfl, ?_⟩ <;> decide +kernel

/-- A session descriptor at 0x2000: session 1, one contributor, one home. -/
def withSession : State :=
  { one S with ms := { (one S).ms with
      mem := [(0x2000, 1), (0x2004, 1), (0x2008, 1)] } }

/-- Whether the lanes of a RED find their ports open. -/
def redPuts (s : State) : Bool :=
  match memLanes s (activeMask s always) 0 (.s 10) 4 4 2 .write with
  | .ok (.ok ls) => !drainsFull s.fresh.2 (ls.foldl (fun u x => redPut false .addF32 u x) s.fresh.2)
  | _ => false

/-- An entry of the reduction buffer that FLUSHR sends. -/
def held : State := (one U).updMyCore (fun k => { k with red := [⟨0, 0, false, 5, .addF32, [(0, 1)]⟩] })

theorem wit_reductionBuffer :
    acts (one U) (.redAddF32 mw) = true ∧ acts (one U) (.redAddN32 mw) = true ∧ acts (one U) (.redMinF32 mw) = true ∧
      acts (one U) (.redMaxF32 mw) = true ∧ acts (one U) (.redAddBf16 mw) = true ∧ activeMask (one U) always ≠ 0 ∧
      acts withSession (.flushrOrdered always (.s 10) 0 1 false) = true ∧
      (match oneAddress withSession (activeMask withSession always) (.s 10) 0 64 0 .read with
        | .ok (.ok [x]) => x.pa == 0x2000
        | _ => false) = true ∧
      (SessDesc.parse ((warpRead withSession.fresh.2 0x2000 64).2.map (·.1))).ok = true ∧ redPuts (one U) = true ∧
      (held.myCore.red.all (fun e => !e.fabric && !portFull held .home (entryLanes e)) && acts held (.flushr always 1)) = true := by
  decide +kernel

theorem wit_fencesAndWatches :
    always.never = false ∧ activeMask (one U) always ≠ 0 ∧ acts (one U) (.watchArm always (.s 10) 3 false) = true ∧
      acts (one U) (.watchDisarm always (.s 10) 3 false) = true ∧
      (match oneAddress (one U) (activeMask (one U) always) (.s 10) 3 1 0 .read with
        | .ok (.ok [x]) => x.pa == 0x2003
        | _ => false) = true := by decide +kernel

/-! ## Premises: engines -/

def xc : XCtl := ⟨always, 0, true, 2⟩

/-- The group of the warp holds the lease; buffer 0 is full; bytes at 0x2000 give a texture of 64 by 64. -/
def lease (s : State) : State :=
  let e := { Engine.empty with holder := some 0, wb0 := { WBuf.empty with state := .filled } }
  { updEng s 0 (fun _ => e) with ms := { s.ms with mem := [(0x2008, 63), (0x200A, 63), (0x200F, 2)] } }

def L : State := lease U

theorem wit_matrixCommands :
    holdsLease L = true ∧ L.me.region = none ∧ (engOf L 0).flt = false ∧ ((ImmOrS.imm 7).val L.me).toNat < 256 ∧
      (engOf L 0).queue.length < 4 ∧ acts L (.mcall xc (.imm 7) (.imm 0)) = true ∧ acts L (.mpsw xc 10 1) = true ∧
      acts L (.mpar xc 3 (.imm 9)) = true ∧ acts L (.mfmt xc (.imm 0)) = true ∧ fmtOk 0 = true ∧ acts L (.wst xc 10 true) = true ∧
      (sPairGet L.me 10).toNat % 64 = 0 ∧ acts L (.mstat xc 20) = true ∧ owesFault L = false ∧ acts L (.wstat xc 20) = true ∧
      resultRoom L.me 2 = true ∧ (inReg L).gcc + 4 ≤ 990 + 0 + (xc.sco.toNat + 2000) := by decide +kernel

def found? (o : Option α) (f : α → Bool) : Bool := match o with | some x => f x | none => false

def descBytes (s : State) (n : Nat) : List Byte := (warpRead s 0x2000 n).2.map (·.1)

def looked (r : TRes) : Bool := match r with | .ok pa => pa == 0x2000 | _ => false

def looked' (r : TRes) (a : Nat) : Bool := match r with | .ok pa => pa == a | _ => false

theorem descIs_of (s s1 : State) (va : DWord) (align n : Nat) (h : (va.toNat % align != 0) = false)
    (hl : looked (tlbLook s s.cur.core s.cur.warp s.me.level .read va.toNat) = true) :
    DescIs s s1 va align n (warpRead s1 0x2000 n).1 (descBytes s1 n) := by
  intro k
  unfold descriptor descBytes
  rw [h]
  generalize tlbLook s s.cur.core s.cur.warp s.me.level .read va.toNat = r at hl
  cases r <;> simp_all [looked]

theorem wit_descriptor (s1 : State) :
    DescIs L s1 (sPairGet L.me 10) 64 64 (warpRead s1 0x2000 64).1 (descBytes s1 64) ∧
      DescIs L s1 (sPairGet L.me 10) 32 32 (warpRead s1 0x2000 32).1 (descBytes s1 32) :=
  ⟨descIs_of _ _ _ _ _ (by decide +kernel) (by decide +kernel), descIs_of _ _ _ _ _ (by decide +kernel) (by decide +kernel)⟩

theorem wit_engineCommands :
    found? (prep (.texF xc 8 10) L).toOption (fun s1 => (TexDesc.parse (descBytes s1 64)).ok) = true ∧ acts L (.texF xc 8 10) = true ∧ acts L (.texL xc 8 10) = true ∧
      acts L (.texq xc 8 10) = true ∧ acts L (.texS xc 8 10) = true ∧ (sPairGet L.me 10).extractLsb' 2 4 = 0 ∧
      acts L (.rqCl xc 8 10) = true ∧ acts L (.rqAn xc 8 10) = true ∧ acts L (.rqOc xc 8 10) = true ∧
      acts L (.bvhb xc 10) = true ∧ acts L (.bvhf xc 10) = true ∧ acts L (.copy xc 10 1) = true ∧
      (tget [] L.myCore.copyq 1).length < 16 ∧ acts L (.cmpt xc 10) = true ∧ cmptOk (descBytes L 32) = false ∧
      cmptOk (List.replicate 32 0) = true ∧ acts L (.cmpq xc 20 1) = true ∧ acts L (.markw xc 0) = true ∧
      acts L (.mark xc 0x1FF 0) = true ∧ (∀ i, i < 64 → looked' (tlbLook L 0 0 .u .read (0x2000 + i)) (0x2000 + i) = true) := by
  decide +kernel

/-- A routine of four steps that runs on core 0. -/
def routine (fmt : Byte) (ns : Nat) : Routine :=
  { id := 1, warp := 0, alive := true, k := 0, base := 0, len := 4, ns := ns, pos := 0, rank := 0, q := List.replicate 8 0, fmt := fmt
    ov := false, ae := true, rids := [], syncs := 0, syncRid := none, loops := [], drain := none, block := .none, next := 0
    done := 0, region := false, stopped := false }

def running (ns : Nat) (wb : FillState) : State :=
  updEng L 0 (fun e => { e with
    run := some (routine 0 ns), wb0 := { e.wb0 with state := wb }, active := some ⟨1, 1, fmtKeyB 0, [], [], false⟩ })

/-- The same inside a static region. -/
def timedRun : State :=
  updEng (running 1 .filling) 0 (fun e => { e with run := e.run.map (fun r => { r with region := true }) })

theorem wit_matrixSteps :
    (stepTurn (running 0 .filled) 0).isSome = true ∧ (stepTurn (running 1 .filling) 0).isSome = true ∧
      (stepTurn (running 1 .error) 0).isSome = true ∧ (stepTurn timedRun 0).map (·.region) = some true ∧ ((engOf (running 0 .filled) 0).wbuf false).state = .filled ∧
      (engOf (running 0 .filled) 0).loadFree ≤ U.gcc ∧ (engOf (running 0 .filled) 0).arrJob = none ∧
      (engOf (running 0 .filled) 0).entered < U.gcc ∧ 0 + 1 ≤ fmtKM 0 ∧ fmtBs 0 = false ∧ fmtAs 0 = false ∧ fmtClass 0 ≠ 2 ∧
      64 * 0 + 1 * 1 * fmtEB 0 ≤ 2 ^ 21 ∧ rowUnitFree (engOf (running 0 .filled) 0) (routine 0 0) U.gcc = true ∧
      rowsReady (engOf (running 0 .filled) 0) (routine 0 0) U.gcc false 255 1 = true ∧ (routine 0 1).syncs < (routine 0 1).ns ∧
      (routine 0 0).ns ≤ (routine 0 0).syncs ∧ (routine 0 0).loops.length < 2 ∧ 0 + 1 + 1 < (routine 0 0).len := by
  decide +kernel

/-! ## Premises: events of cores, engines and memory -/

def core0 (s : State) (f : Core → Core) : State := s.updCore 0 f

def pend (i : Option Nat) (wr : Write) : Pending := ⟨0, 0, 0, false, i, 0, false, false, wr, none⟩

/-- A landing that writes s7, and one whose bank port is taken. -/
def landing : State := core0 U (fun k => { k with pw := [pend none (.sreg 7 9)] })

def taken : State := core0 U (fun k => { k with pw := [pend none (.vec (some (0, 0)) 1 .zero none none)], ports := 1 })

/-- A late reply for a frozen warp. -/
def late : State := upd (core0 U (fun k => { k with pw := [pend (some 3) (.sreg 7 9)] })) (fun w => { w with frozen := 1 })

/-- One that finds its bank's port taken. -/
def lateTaken : State := upd taken (fun w => { w with frozen := 1 })

def lateVec : State := lateTaken.updMyCore (fun k => { k with pw := k.pw.map (fun p => { p with id := some 3 }) })

def answered : State :=
  { U with ms := { U.ms with reqs := [⟨1, 0, 0, some 9, .load .b32, .home, 0x40, [], [], 0, false, none, none, false, none, none, .answered, 5, true, 0xFF⟩] } }

def doneCmd : ECmd := ⟨7, 0, 0, some 9, .u, 0, 4, 5, false, [], false, .done⟩

def cmdDone : State := core0 U (fun k => { k with ecmds := [doneCmd] })

theorem wit_landings :
    (nextLanding (landing.core 0)).map (lateWrite (landing.core 0)) = some false ∧
      (nextLanding (taken.core 0)).map (lateWrite (taken.core 0)) = some false ∧
      (nextLanding (late.core 0)).map (lateWrite (late.core 0)) = some true ∧
      (nextLanding (lateVec.core 0)).map (lateWrite (lateVec.core 0)) = some true ∧
      (nextLanding (lateVec.core 0)).map (portTaken (lateVec.core 0)) = some true ∧ VReg.zero.lanes.length = 128 ∧
      answered.ev.ans = none ∧
      (nextAnswer answered 0).isSome = true ∧ nextAnswer cmdDone 0 = none ∧ (cmdArrived cmdDone 0).isSome = true := by
  decide +kernel

def waitingFor (x : Susp) : State := upd withResults (fun w => { w with susp := x })

/-- A warp that waits for the result of a MARKW. -/
def atMarkw : State := upd (waitingFor (.waita [9])) (fun w => { w with mwaits := [9] })

def gatedCore : State := upd (core0 U (fun k => { k with gated := true })) (fun w => { w with ready := some 990 })

theorem wit_endsOfWaits :
    waitaDone ((waitingFor (.waita [])).warp 0 0) = true ∧ ((waitingFor (.waita [])).warp 0 0).mwaits = [] ∧
      waitaDone (atMarkw.warp 0 0) = true ∧ (atMarkw.warp 0 0).susp = .waita [9] ∧ (atMarkw.warp 0 0).mwaits = [9] ∧
      twaitOut 1000 ((waitingFor (.twait 1000 4 false true 2 [])).warp 0 0) = true ∧ (gatedCore.core 0).gated = true ∧
      earliestReady (gatedCore.core 0) = some 990 ∧
      ((waitingFor (.wfw (some 1000) 0 5)).warp 0 0).susp = .wfw (some 1000) 0 5 ∧ U.pt.pmWake &&& 0 = 0 := by decide +kernel

def withPackets : State := core0 U (fun k => { k with packets := [⟨1000, 4, 50, .zero, 0⟩], winq := [⟨1, 0, 0, 990, 2, 1010, []⟩] })

def retiring : State := upd U (fun w => { w with entries := [], handle := noGroup })

def issuing (w : Warp → Warp) : State := upd U (fun x => w { x with ready := some 990 })

theorem wit_packetsAndRetirement :
    (withPackets.core 0).packets.find? (fun p => decide (p.due ≤ 1000)) ≠ none ∧ inboxSaved withPackets 0 = false ∧
      (nextWin withPackets 0).isSome = true ∧ canRetire retiring 0 0 = true ∧ (retiring.warp 0 0).handlerOf = none ∧
      tget? retiring.sched.groups (retiring.warp 0 0).handle.toNat = none ∧ (retiring.warp 0 0).wnum < 16 := by decide +kernel

/-- A group with a static region at 0x1000 whose start is aligned to 16 cycles, and one whose budget is used up. -/
def regionGroup (s : State) : State := s.updGroup 0 (fun g => { g with stats := [⟨0x1000, 0x2000, 500, true, false, 4, 0⟩] })

def noBudget (s : State) : State := s.updGroup 0 (fun g => { g with budget := 0 })

def begun (s : State) : State := match nextIssue s 0 with | some (w, e) => beginBundle s 0 w e 0 | none => s

/-- Whether the fetch of the head waits for a walk. -/
def heldFetch (s : State) : Bool := match fetchBytes (begun s) 0 0 .u 0x1000 2 with | .miss => true | _ => false

theorem wit_watchdogAndRegionEntry :
    (nextIssue (issuing id) 0).isSome = true ∧ (begun (issuing id)).me.after = none ∧ budgetOf (begun (issuing id)) ≠ 0 ∧
      budgetOf (begun (noBudget (issuing id))) = 0 ∧ regionAsk (begun (issuing id)) = .ok false ∧
      regionAsk (begun (regionGroup (issuing id))) = .enter ⟨0x1000, 0x2000, 500, true, false, 4, 0⟩ ∧
      heldFetch (regionGroup (issuing id)) = false ∧ (begun (regionGroup (issuing id))).me.entries.length = 1 ∧
      (1000 + 2 ^ 4 - 1) / 2 ^ 4 * 2 ^ 4 ≤ 1000 + 2 ^ 20 ∧ transferPending (begun (issuing id)).me = false := by decide +kernel

def withEngine (f : Engine → Engine) : State := updEng L 0 f

def mcallOf : MCall := ⟨1, 0, true, 0, 0, List.replicate 8 0, 0, false, false, 0, [], none, 0, []⟩

def dirOne : Table Word := [(0, 0x80002000)]

theorem wit_engineEvents :
    (engOf (withEngine (fun e => { e with release := [3] })) 0).release ≠ [] ∧
      (firstFill { Engine.empty with fills := [⟨1, false, 0x2000, 0, none, 0, .u, 5, false, []⟩] } false).isSome = true ∧
      fillReady L 0 ⟨1, false, 0x2000, 0, none, 0, .u, 5, false, []⟩ = true ∧
      mcallReady (withEngine (fun e => { e with queue := [.mcall mcallOf], dir := dirOne })) 0 mcallOf = true ∧
      (tget 0 dirOne 0).getLsbD 31 = true ∧
      ((tget 0 dirOne 0).extractLsb' 0 13).toNat + ((tget 0 dirOne 0).extractLsb' 13 14).toNat ≤ 8192 ∧
      mcallOf.o < ((tget 0 dirOne 0).extractLsb' 13 14).toNat ∧ mpswReady L 0 [] = true ∧
      (0x80000005 : Word).getLsbD 31 = true ∧ (0x80000005 : Word).extractLsb' 8 23 = 0 ∧
      (5 : Word).getLsbD 31 = false ∧ (0x1FFF : Word).extractLsb' 13 18 = 0 := by decide +kernel

/-- Tables that map the lowest GiB onto itself for every level. -/
def tables : List Host.Cell :=
  [(0x100000, 0x39), (0x100001, 0x10), (0x100002, 0x10), (0x101000, 0x39), (0x101001, 0x20), (0x101002, 0x10), (0x102000, 0x79)]

def mapped (cells : List Host.Cell) (s : State) : State := { s with ms := { s.ms with root := 0x100000, mem := cells ++ tables } }

def walking : State :=
  { mapped [] U with ev := { Ev.none with idx := 0, addr := 0x20000 }, ms := { (mapped [] U).ms with walks := [⟨0, 0, 0x20000, 5, none⟩] } }

def homeReqs : State :=
  { U with ev := { Ev.none with idx := 1 }, ms := { U.ms with
      reqs := [{ homeReq (.load .b32) ⟨0, 0x2004, 0x2004, 0, 0, 0, false⟩ with stage := .waiting }] } }

/-- The same on a die that is off. -/
def absent : State := { homeReqs with pt := { homeReqs.pt with dies := [(0, { Die.reset with present := false })] } }

theorem wit_memoryEvents :
    (walking.ms.walks.filter (walkOf 0 0x20000)).any (fun k => decide (k.due ≤ 1000)) = true ∧
      found? (getReq homeReqs 1) (homeReady homeReqs) = true ∧ present homeReqs (0x40 * 128) = true ∧
      found? (getReq absent 1) (homeReady absent) = true ∧ present absent (0x40 * 128) = false ∧
      missReady U ⟨0x40, 5, false, []⟩ = true ∧ missReady U ⟨0x40, 5, true, [1, 2]⟩ = true ∧
      wheelFree { U with gcc := 960 } 0 = true ∧ droppedInUse { U with ms := { U.ms with busy := true } } = false ∧
      0x20000 ∈ Machine.walking walking 0 ∧ (walkLines walking 0 0x20000).all (fun n => !readHeld walking n) = true ∧ (walkAt walking 0 0x20000).isOk = true := by decide +kernel

/-- A build that is due. -/
def building : State :=
  { U with ev := { Ev.none with idx := 3 }, sched := { U.sched with builds := [⟨3, List.replicate 64 0, false, 0, 0, 0, 0, .u, none, none, none, 900⟩] } }

theorem wit_builds : (building.sched.builds.find? (fun b => b.id == building.ev.idx)).map (·.due) = some 900 ∧ anyHeld building = false := by decide +kernel

/-! ## Premises: groups, handlers, streams and frames -/

def rec0 : Record := recordOf U (.of .illegalOperand) 0 0x1000

def captured (f : Warp → Warp) : State := upd U (fun w => f { w with status := .captured rec0 })

/-- A record in slot 0 of the S ring, with the ring enabled and a handler slot free on core 130. -/
def ringed : State := { U with rg := { U.rg with sRing := [⟨0, 0, rec0, .none, true, none⟩], ringsc := 0x10 } }

def resuming (f : Warp → Warp) : State := upd U (fun w => f { w with status := .resuming rec0 })

theorem wit_capturedWarps :
    ((captured id).warp 0 0).handlerOf = none ∧ (tget? (captured id).sched.groups ((captured id).warp 0 0).handle.toNat).isSome = true ∧
      tget? (captured (fun w => { w with handle := noGroup })).sched.groups noGroup.toNat = none ∧
      found? (nextHandled ringed false) (·.written) = true ∧ (handlerSlot ringed 130).isSome = true ∧ ringEn ringed.rg.ringsc = true ∧
      handlerRoom ringed 130 = true ∧ roomAt { U with rg := { U.rg with ringfc := 0x10 } } true = true ∧ U.rg.fWait = [] ∧ ringCore false = 130 ∧
      ((resuming id).group 0).status = .resident ∧ checkedBlock (resuming id) ((resuming id).group 0) 0 0 = none ∧
      tget? (resuming (fun w => { w with handle := noGroup })).sched.groups noGroup.toNat = none ∧
      ((captured (fun w => { w with handlerOf := some rec0 })).warp 0 0).handlerOf.isSome = true ∧
      ((resuming (fun w => { w with handlerOf := some rec0 })).warp 0 0).handlerOf.isSome = true := by decide +kernel

/-- The first line of bytes cut at line boundaries starts where the bytes do. -/
theorem cutLines_head (va : Nat) (b : Byte) (r : List Byte) : ∃ l t, cutLines va (b :: r) = (va, l) :: t := by
  unfold cutLines
  split
  · split <;> exact ⟨_, _, rfl⟩
  · exact ⟨_, _, rfl⟩

/-- A write of the save engine at an address that is not mapped fails there. -/
theorem saveVa_unmapped (s : State) (va e : Nat) (b : Byte) (r : List Byte) (h : xlateOn s 8 .s .write va = .error e) :
    saveVa s .s va (b :: r) = .error (e, va) := by
  obtain ⟨l, t, hc⟩ := cutLines_head va b r
  simp [saveVa, strictOn, hc, writeParts, h]

theorem blockHead_cons (s : State) (w : Warp) (l : List Byte) (b : DWord) (pw : List Pending) (toks : List (Nat × Nat × Nat)) :
    ∃ x r, blockHead s w l b pw toks = x :: r := by
  cases h : blockHead s w l b pw toks with
  | cons x r => exact ⟨x, r, rfl⟩
  | nil =>
    unfold blockHead at h
    simp only [List.append_eq_nil_iff] at h
    have h1 : padTo 64 l = [] := by
      repeat' (first | exact h | rcases h with ⟨h, -⟩)
    have h2 := congrArg List.length h1
    simp only [padTo, List.length_take, List.length_append, List.length_replicate, List.length_nil] at h2
    omega

theorem opaqueBytes_snd (s : State) (n : Nat) : (opaqueBytes s n).2 = { s with drawn := s.drawn + n } := rfl

theorem error_of_isOk (r : Except Nat Nat) (h : r.isOk = false) : ∃ e, r = .error e := by
  cases r with
  | error e => exact ⟨e, rfl⟩
  | ok => cases h

/-- Saving a block fails at its first byte where the block is not mapped. -/
theorem saveBlock_unmapped (s : State) (g : Group) (wi : Nat) (l : List Byte) (b : DWord)
    (h : (xlateOn { s with drawn := s.drawn + 0x11000 } 8 .s .write (blockAddr g (s.warp g.core wi).wnum)).isOk = false) :
    saveBlock s g wi l b = .error (blockAddr g (s.warp g.core wi).wnum) := by
  obtain ⟨e, h⟩ := error_of_isOk _ h
  simp only [saveBlock]
  rw [opaqueBytes_snd]
  obtain ⟨x, r, hb⟩ := blockHead_cons { s with drawn := s.drawn + 0x11000 } (s.warp g.core wi) l b
    (storedOrder ((s.core g.core).pwOf wi)) (recsOf s g wi)
  rw [hb]
  simp only [List.cons_append, writeSpans, saveVa_unmapped _ _ _ _ _ h]

/-- A captured warp whose swap area is not mapped: its save fails at the block's first byte. -/
theorem wit_saveFails (l : List Byte) (b : DWord) :
    saveBlock (captured id) ((captured id).group 0) 0 l b = .error (blockAddr ((captured id).group 0) 0) :=
  saveBlock_unmapped (captured id) ((captured id).group 0) 0 l b (by decide +kernel)

def leaving (kill : Bool) : State := core0 (U.updGroup 0 (fun g => { g with status := .leaving, kill := kill, due := 990 })) (fun k => { k with current := none })

def stoppedGroup : State := upd (leaving false) (fun w => { w with status := .stopped })

def openGroup : State := U.updGroup 0 (fun g => { g with status := .held, open_ := true })

/-- A group that waits at core 0 with nothing there, and the same with another carve and leave to move. -/
def waitingGroup (carve : Nat) : State :=
  core0 (U.updGroup 0 (fun g => { g with status := .waiting, slots := [], carve := carve, reloc := true, fresh := carve != 12 }))
    (fun k => { k with warps := [] })

/-- A group that a PRMT has killed in its core's list, and one that has been killed. -/
def killedInList : State := (waitingGroup 12).updGroup 0 (fun g => { g with kill := true })

def killedGroup : State := U.updGroup 0 (fun g => { g with status := .killed, gone := false })

def retired : State := upd U (fun w => { w with status := .ended, entries := [] })

def withRed : State := core0 retired (fun k => { k with red := [⟨0, 0, false, 5, .addF32, [(0, 1)]⟩] })

theorem wit_groups :
    haltDue (leaving true) 0 = true ∧ haltDue (leaving false) 0 = true ∧ ((leaving true).group 0).kill = true ∧
      0 ∈ (quadGroup stoppedGroup 0).filter (fun x => (stoppedGroup.group x).status == .leaving) ∧ quadGroup stoppedGroup 0 = [0] ∧
      atRest stoppedGroup 0 = true ∧ (stoppedGroup.group 0).kill = false ∧ stillOpen openGroup 0 = false ∧
      inCheckpoint (waitingGroup 12) = false ∧ ((waitingAt (waitingGroup 12) 0).find? (fun x => ((waitingGroup 12).group x).kill)) = none ∧
      readyMembers (waitingGroup 12) 0 = some [0] ∧ ((waitingGroup 11).group 0).fresh = true ∧
      (admitAll [0] (waitingGroup 12)).isSome = true ∧
      (waitingAt (killedInList) 0).find? (fun x => (killedInList.group x).kill) = some 0 ∧
      (killedGroup.group 0).status = .killed ∧ (killedGroup.group 0).gone = false ∧ outstanding killedGroup 0 = false ∧ carveDue (waitingGroup 11) 0 = some 11 ∧
      (moveTarget ((waitingGroup 12)) 0).isSome = true ∧ allRetired retired 0 = true ∧ outstanding retired 0 = false ∧
      (flushOrder retired 0 0).isEmpty = true ∧ (flushOrder withRed 0 0).isEmpty = false ∧ outstanding withRed 0 = false ∧
      allRetired withRed 0 = true := by decide +kernel

def launching : State :=
  core0 U (fun k => { k with
    launchq := [⟨0, 1, 5, 0x4000, 2, [some (List.replicate 64 0)]⟩]
    childq := [(1, [⟨0x4000, some (List.replicate 64 0), 0, 0, 0, 0, none, 0⟩])] })

theorem wit_children :
    (launchReady launching 0 2).isSome = true ∧ (tget [] (launching.core 0).childq 1) ≠ [] ∧
      (tget [] (launching.core 0).childq 1).all (fun x => launchOpen launching (readLaunch launching x.body)) = true := by
  decide +kernel

/-- Stream 0 stands at a command at 0x3000; the command's block is at 0x4000, the kernel image at 0x5000. -/
def streaming (cells : List Host.Cell) : State :=
  let s := mapped cells U
  { s with sched := { s.sched with streams := [(0, { Stream.reset with head := 0x3000, state := 1 })] } }

/-- The cells of a command of an opcode with the address 0x4000. -/
def cmdAt (op : Byte) (rest : List Host.Cell) : List Host.Cell := [(0x3000, op), (0x3009, 0x40)] ++ rest

/-- A packet for one group of an image of one warp, whose role is the entry of the header itself, on core 0. -/
def goodLaunch : List Host.Cell :=
  cmdAt 1 [(0x4001, 0x50), (0x4019, 0x60), (0x4038, 1), (0x5000, 1), (0x5002, 1), (0x5003, 12), (0x5005, 1), (0x500A, 1), (0x5020, 64), (0x502E, 1),
    (0x5030, 96), (0x5034, 128), (0x5038, 64)]

def takes (s : State) (op : Nat) : Bool :=
  match nextStream s with
  | some (0, some c) => c.op == op && c.ok && c.arg == 0x4000
  | _ => false

def after0 (s : State) : State := { s with sched := { s.sched with lastStream := 0 } }

def launchOf (s : State) : Option Nat := (launch (after0 s) (packetAt (after0 s) 0x4000) (some 0) 0).2.1

/-- Every check of a launch but the carve limits of its core, which the capability list gives and the model leaves open. -/
def checksOf (s : State) : Bool :=
  let l := readLaunch (after0 s) (packetAt (after0 s) 0x4000)
  l.pkt.ok && readable s l && headerValid s l && placesOf s l == [0] && coreThere s 0 && treesOk s l [0] &&
    sizesOk ((roleBytes s l).map (roleOf l.pkt.img l.hdr)) l.hdr [0] && l.pkt.plen == l.hdr.plen

theorem wit_launchCommands :
    takes (streaming goodLaunch) 1 = true ∧ checksOf (streaming goodLaunch) = true ∧ takes (streaming (cmdAt 1 [])) 1 = true ∧
      launchOf (streaming (cmdAt 1 [])) = some 1 := by decide +kernel

theorem wit_eventCommands :
    takes (streaming (cmdAt 2 [(0x3010, 1)])) 2 = true ∧ (readVa (streaming (cmdAt 2 [(0x3010, 1)])) .s 0x4000 8).isOk = true ∧
      (readVa { streaming (cmdAt 2 []) with ms := { (streaming (cmdAt 2 [])).ms with poisoned := [0x4000 / 128] } } .s 0x4000 8).isOk = false ∧
      takes { streaming (cmdAt 2 []) with ms := { (streaming (cmdAt 2 [])).ms with poisoned := [0x4000 / 128] } } 2 = true ∧
      takes (streaming (cmdAt 3 [])) 3 = true ∧ (writeVa (after0 (streaming (cmdAt 3 []))) .s 0x4000 (bytesOf 8 0)).isOk = true ∧
      takes (streaming (cmdAt 3 [(0x3018, 1)])) 3 = true ∧ (addCounter (after0 (streaming (cmdAt 3 []))) .s 0x4000 1).isOk = true ∧
      takes (streaming (cmdAt 4 [])) 4 = true ∧ (readVa (streaming (cmdAt 4 [])) .s 0x4000 64).isOk = true ∧
      takes (streaming (cmdAt 9 [])) 9 = true := by decide +kernel

/-- A stream that waits for an event, and one that waits for its NEXT. -/
def polling (st : Byte) : State :=
  let s := mapped [] U
  { s with sched := { s.sched with streams := [(0, { Stream.reset with head := 0x3000, state := st, waitEv := some (0x4000, 0), nextPoll := 1000 })] } }

/-- A copy of no rows that has started on core 128. -/
def copied : State :=
  U.updCore 128 (fun k => { k with copyq := [(1, [⟨List.replicate 64 0, 0, 128, 0, none, none, 1, false, true, .s, [], 4, 0, false, []⟩])] })

theorem wit_pollsAndCopies :
    pollDue (polling 3) 0 3 = true ∧ (readVa (polling 3) .s 0x4000 8).isOk = true ∧ pollDue (polling 2) 0 2 = true ∧
      (readVa (polling 2) .s 0x3008 8).isOk = true ∧ found? (copyHead copied 128 1) copyMoved = true ∧
      found? (copyHead copied 128 1) (evtTurn copied 128 1) = true ∧ (CopyDesc.parse (List.replicate 64 0)).evi = false ∧
      (nextStream { streaming [] with ms := { (streaming []).ms with poisoned := [0x3000 / 128] } }) = some (0, none) := by decide +kernel

/-! ## Premises: frames, tiles, Hedgerow, the host, power -/

/-- A BIN or COVER of one tile and no primitives: its bins at 0x6000. -/
def binCells (op : Byte) : List Host.Cell := cmdAt op [(0x400C, 1), (0x400E, 1), (0x4011, 0x60), (0x4018, 1)]

def coverCells : List Host.Cell := cmdAt 6 [(0x4001, 0x60), (0x4008, 1), (0x400C, 1), (0x400E, 1), (0x4011, 0x70)]

def blockAt (s : State) : List Byte := match readVa (after0 s) .s 0x4000 64 with | .ok b => b | .error _ => []

theorem wit_binAndCover :
    takes (streaming (binCells 5)) 5 = true ∧ (BinBlock.parse false 0x4000 (blockAt (streaming (binCells 5)))).ok = true ∧
      (binAreas (after0 (streaming (binCells 5))) 0 (BinBlock.parse false 0x4000 (blockAt (streaming (binCells 5))))).2 = true ∧
      takes (streaming coverCells) 6 = true ∧ (BinBlock.parse true 0x4000 (blockAt (streaming coverCells))).ok = true ∧
      (coverAreas (after0 (streaming coverCells)) 0 (BinBlock.parse true 0x4000 (blockAt (streaming coverCells)))).2 = true ∧
      takes (streaming (cmdAt 5 [])) 5 = true ∧ (BinBlock.parse false 0x4000 (blockAt (streaming (cmdAt 5 [])))).ok = false ∧
      takes (streaming (cmdAt 6 [])) 6 = true ∧ (BinBlock.parse true 0x4000 (blockAt (streaming (cmdAt 6 [])))).ok = false ∧
      (binRead (streaming (binCells 5)) 0 0x4000 64).2.isOk = true ∧ (binRead (streaming coverCells) 0 0x4000 64).2.isOk = true := by
  decide +kernel

/-- The descriptor of a session of one rank: the root, one tile, a frame each 65,536 cycles, shown by head 0. -/
def sessCells : List Host.Cell :=
  [(0x4000, 1), (0x4004, 1), (0x400E, 1), (0x401E, 0xFF), (0x4020, 1), (0x4022, 1), (0x4024, 0xFF), (0x4027, 0xFF), (0x402A, 0xFF), (0x402D, 0xFF)]

def sessBytes (ncon : Byte) : List Byte :=
  [1, 0, 0, 0, ncon, 0, 0, 0, 0, 0, 0, 0, 0, 0, 1, 0] ++ List.replicate 8 0 ++ [0, 0, 0, 0, 0, 0, 0xFF, 0, 1, 0, 1, 0] ++
    [0xFF, 0, 0, 0xFF, 0, 0, 0xFF, 0, 0, 0xFF, 0, 0] ++ List.replicate 80 0

theorem wit_compose :
    takes (streaming (cmdAt 7 sessCells)) 7 = true ∧ (readVa (streaming (cmdAt 7 sessCells)) .s 0x4000 128).toOption = some (sessBytes 1) ∧
      (SDesc.parse (sessBytes 1)).ok (sessBytes 1) = true ∧ (SDesc.parse (sessBytes 1)).ncon ≠ 0 ∧ U.hd.csess.length < 16 ∧
      (SDesc.parse (sessBytes 3)).ok (sessBytes 3) = false ∧ (SDesc.parse (sessBytes 3)).ncon ≠ 0 ∧ sessOf U 1 = none ∧
      ranksDown U (SDesc.parse (sessBytes 1)) = [] ∧ (SDesc.parse (sessBytes 0)).ncon = 0 ∧ (SDesc.parse (sessBytes 0)).sess ≠ 0 ∧
      zeroAt (sessBytes 0) 64 64 = true := by decide +kernel

/-- A frame with two steps and one acknowledged, whose counter stands at 0x4000. -/
def governed : State :=
  { mapped [(0x4000, 8)] U with fr := { U.fr with frame := some ⟨0, 1, 5000, 0, 0, 0x4000, 1, 2, 1, 2, 0, 0⟩, govWrites := [(990, 4, [7])] } }

theorem wit_governor :
    takes (streaming (cmdAt 8 [(0x4004, 1), (0x4005, 64)])) 8 = true ∧
      govBlockOk 0x4000 (blockAt (streaming (cmdAt 8 [(0x4004, 1), (0x4005, 64)]))) = true ∧
      govBlockOk 0x4000 (blockAt (streaming (cmdAt 8 []))) = false ∧ takes (streaming (cmdAt 8 [])) 8 = true ∧
      (ackDue governed).isSome = true ∧ governed.fr.govWrites.length = 1 := by decide +kernel

/-- Core 0 has handed over a record that sends its first tile to tile core 3; a tile has crossed to core 64. -/
def sending (ver : Byte) : State :=
  { core0 U (fun k => { k with scratch := [(0x100, ver), (0x101, 3), (0x10C, 0xFF), (0x10D, 0xFF), (0x10E, 0xFF), (0x10F, 0xFF),
      (0x11C, 0xFF), (0x11D, 0xFF), (0x11E, 0xFF), (0x11F, 0xFF)] }) with
    fr := { U.fr with sends := [(0, [⟨0, 0, 0x100, 99⟩])], guides := [(0, [⟨0, 64, 0, 0, 0xFFFFFFFF, 0, 0, none, none, [1, 2]⟩])] } }

def sendRec (s : State) : SendRec := SendRec.parse (memBytes (s.core 0).scratch 0x100 64)

theorem wit_tiles :
    found? (nextSend (sending 1) 0) (fun x => x.core == 0 && dieOf x.core == 0) = true ∧ (sendRec (sending 1)).ok = true ∧
      (sendRec (sending 1)).srco + 16384 ≤ ((sending 1).group 0).allot ∧ (sendRec (sending 1)).doneo = none ∧
      spanPoison ((sending 1).core 0) 0x100 64 = false ∧ spanPoison ((sending 1).core 0) 0 16384 = false ∧
      (nextSend (sending 0) 0).isSome = true ∧ (sendRec (sending 0)).ok = false ∧
      (landable (sending 1) [] (tget [] (sending 1).fr.guides 0)).isSome = true ∧ landGroup (sending 1) 0 64 = none ∧
      (landGroup ((sending 1).updGroup 0 (fun g => { g with core := 64 })) (gridOf 0) 64).isSome = true ∧
      0 + 16384 ≤ ((sending 1).group 0).allot ∧ 0x4000 + 4 ≤ ((sending 1).group 0).allot := by decide +kernel

def incrementing (grid : Nat) : State := { U with sched := { U.sched with incrs := [⟨990, 0, 5, 3, grid, .qd, none, 0, 0⟩] } }

def starting : State := core0 U (fun k => { k with hqueue := [⟨0x1000, 0, [1, 2, 3]⟩] })

theorem wit_incrementsAndStarts :
    (nextIncr (incrementing 0)).isSome = true ∧ (groupBaseOn (incrementing 0) 0 0).isSome = true ∧
      (nextIncr (incrementing 7)).isSome = true ∧ groupBaseOn (incrementing 7) 7 0 = none ∧ (nextStart starting 0).isSome = true ∧
      (List.range 4).find? (fun n => !(handlerNumbers starting 0).contains n) = some 0 ∧ (freeSlots starting [] 0).head? = some 1 ∧
      (starting.core 0).warps.all (fun y => y.2.region.isNone) = true := by decide +kernel

def session : CSess := ⟨1, sessBytes 1, [], [], [], [], 0, [], [], 0, 0, 0, 1⟩

def composing : State :=
  { core0 U (fun k => { k with ecmds := [{ doneCmd with op := .cmpt (List.replicate 32 0) }] }) with
    hd := { U.hd with csess := [session] }, gcc := 200000 }

theorem wit_composites :
    (composing.hd.csess.find? (fillDue composing)) = some session ∧ sessOf composing 1 = some session ∧
      (vsyncDue composing 0).isSome = true ∧ composing.ev.pkt = none ∧
      found? ((composing.core 0).ecmds.find? (fun x => x.id == 7)) (cmdOpen composing) = true ∧ U.hd.joined = false ∧
      (tget Port.reset U.hd.ports 3).up = true ∧ portUp U 3 = true ∧ (0x21DE01 : Word).extractLsb' 0 2 = 1 ∧
      ((0x21DE01 : Word).extractLsb' 4 9).toNat = 480 ∧ ((0x21DE01 : Word).extractLsb' 13 9).toNat = 270 := by decide +kernel

def remote (op : RemoteOp) : RemoteReq := ⟨2, 5, 3, op, [⟨0, 0x4000, 9, 0⟩]⟩

def window : State := { mapped [] U with hd := { U.hd with control := ⟨1, 0, 0x100000, [], []⟩ } }

theorem wit_remoteAccesses :
    inCheckpoint window = false ∧ startHeld window (remote (.store .b32 false)) = false ∧ (tget Port.reset window.hd.ports 3).up = true ∧
      governing window (remote (.store .b32 false)) = none ∧
      (windowPa (countLines window (remote (.store .b32 false))) .write 0x4000).toOption = some 0x4000 ∧
      Memory.wf (countLines window (remote (.store .b32 false))).ms.mem = true := by decide +kernel

/-- A landing range over the lowest bytes of the window, into the group of handle 0. -/
def landing0 : State :=
  { window with hd := { window.hd with control := { window.hd.control with land := [0, 0, 0, 0, 0, 0, 0, 0, 0, 0x80] ++ List.replicate 22 0 } } }

theorem wit_landingRange :
    (governing landing0 (remote (.store .b32 false))).isSome = true ∧ startHeld landing0 (remote (.store .b32 false)) = false ∧
      found? (governing landing0 (remote (.store .b32 false))) (fun r => (landTarget landing0 (remote (.store .b32 false)) r 4).isSome) = true ∧
      (governing landing0 (remote (.atom (.add false)))).isSome = true ∧ startHeld landing0 (remote (.atom (.add false))) = false ∧
      storeBytes (.atom (.add false)) = none ∧ Memory.wf (landing0.core 0).scratch = true := by decide +kernel

def flushing : State := { U with ms := { U.ms with flushes := [⟨4, 0, 0, 0, 0, 1, 1, 1, false, false, true, (0, 0), [0], 0, 0xFF, [], 0⟩] } }

theorem wit_flushRecords :
    flushing.ev.flu = none ∧
      (flushing.ms.flushes.find? (fun f => f.id == 4 && f.dest == flushing.hd.control.self.toNat)).isSome = true := by
  decide +kernel

theorem wit_hostAndTiers :
    (xlate window .s .write 0x4000).toOption = some 0x4000 ∧ inCheckpoint window = false ∧ Memory.wf (netAccess window (lineOf 0x4000)).ms.mem = true ∧ hostHeld window 0x4000 4 = false ∧ wheelOpen { window with gcc := 152 } 152 = true ∧
      (0x400 : Nat) < scBase ∧ portUp window 3 = true ∧ U.ev.write = false ∧
      (dieRegs { U with gcc := 2 ^ 31 } 0).win < windowsPast { U with gcc := 2 ^ 31 } ∧ homeDie (0x20 * 128) = some 0 ∧
      (chanOf { U with pt := { U.pt with channels := [(2, { Channel.reset with repairing := some 5 })] } } 2).repairing = some 5 ∧
      (chanOf { U with pt := { U.pt with channels := [(2, { Channel.reset with held := true })] } } 2).held = true ∧
      ckptPresent U = true ∧ ckptSt U = 0 ∧ ckptSt { U with pt := { U.pt with ckptStat := 1 } } ≠ 3 ∧
      quiesced { State.reset with pt := { U.pt with ckptStat := 1 } } = true ∧ ckptSt { U with pt := { U.pt with ckptStat := 2 } } = 2 ∧
      standing U ≠ [] ∧ standing State.reset = [] ∧
      ckptValid { State.reset with pt := { Plant.reset with ckptStat := 11 } } = true ∧
      inCheckpoint { State.reset with pt := { Plant.reset with ckptStat := 11 } } = false ∧ ckptPresent State.reset = true ∧
      Plant.reset.ckptState = none ∧ Channel.reset.replays = [] ∧ (⟨0x20, 1, 4, 1000⟩ : Replay).n = 4 := by decide +kernel

def mail (cmd : Byte) : State := { U with pt := { U.pt with mailbox := [(0, cmd)] } }

theorem wit_startAndSecurity :
    State.reset.pt.start.started = false ∧ State.reset.pt.start.recovery = false ∧ U.pt.start.lifecycle < 3 ∧
      ({ U.pt.start with recovery := true }).recovery = true ∧ mailCmd (mail 1) = 1 ∧ mailCmd (mail 2) = 2 ∧
      Memory.wf (mail 1).pt.mailbox = true ∧ debugAllowed U 0 3 = false ∧ debugAllowed U 0 1 = true ∧
      diesRest { U with sched := { U.sched with groups := [] } } = true ∧ U.pt.start.started = true := by decide +kernel

def quad (f : Quad → Quad) : State := setQuad State.reset 5 (f Quad.reset)

theorem wit_power :
    (quadState (quad (fun x => { x with st := 1 })) 5).st = 1 ∧ quadResidents (quad (fun x => { x with st := 1 })) 5 = [] ∧
      (quadState (quad (fun x => { x with st := 3 })) 5).st = 3 ∧ (quadState (quad (fun x => { x with st := 5 })) 5).st = 5 ∧
      (quadState (quad (fun x => { x with railDue := some 0 })) 5).railDue = some 0 ∧ phaseOpen U = false ∧
      phaseOpen (inReg U) = true ∧ inDomain U = false ∧ inDomain { U with hd := { U.hd with joined := true } } = true ∧
      (5 : Nat) ≠ U.pt.freq ∧ ((upd U (fun w => { w with found := some (1, 5) })).core 0).gated = false ∧
      ((upd U (fun w => { w with found := some (1, 5) })).core 0).free ≤ U.gcc + 1 ∧ opOk Quad.reset 1 = true ∧ opOk Quad.reset 4 = false ∧ flagOn U.me always = true ∧ U.me.region = none ∧ U.me.susp = .none := by decide +kernel

/-! ## Premises: bundles and steps -/

/-- The warp of slot 0 is due and its bundle, at 0x1000, is idle. -/
def due : State := issuing id

/-- The same with a head whose reserved bits are set, with a slot SA of zeros, and with an IADD in it. -/
def headed (cells : List Host.Cell) : State := { due with ms := { due.ms with mem := cells } }

def iaddCells : List Host.Cell := [(0x1000, 1), (0x1003, 8), (0x1004, 0x60), (0x1005, 0xA1), (0x1007, 1)]

def fetched (s : State) : Bool := match fetchBytes (begun s) 0 0 .u 0x1000 10 with | .ok _ => true | _ => false

def bytesAt (s : State) : List Byte := match fetchBytes (begun s) 0 0 .u 0x1000 10 with | .ok l => l | _ => []

/-- The warp of `due` in the second pass of a loop, whose body ends past its bundle. -/
def inFi : State := upd due (fun w => { w with loops := [⟨0x1000, 0x2000, 3, false, none, none⟩] })

theorem wit_bundles :
    (nextIssue due 0).isSome = true ∧ due.ev.idx2 = 0 ∧ due.ev.write = false ∧ (begun due).me.after = none ∧ budgetOf (begun due) ≠ 0 ∧
      regionAsk (begun due) = .ok false ∧ (begun due).me.engLate = false ∧ (begun due).myCore.dbg.getLsbD 0 = false ∧
      fetched due = true ∧ headOk 0x1000 0 = true ∧ headOk 0x1000 0x2000 = false ∧ headSlots 0 = [] ∧ heldBack (begun due).me 1 = false ∧
      badDelay (begun due).me [(.sa, .iadd o3)] = false ∧ badLoopEnd (begun due) = false ∧
      portDelay (bundleReads (begun due) [(.sa, .iadd o3)]) = 0 ∧ (begun due).pt.dies.all (fun d => !d.2.pactl.getLsbD 0) = true ∧
      heldBack (begun inFi).me 0x0400 = true ∧ badLoopEnd (begun inFi) = false ∧ headOk 0x1000 0x0400 = true ∧
      ((begun due).myCore.pwOf 0).length ≤ 48 ∧ (begun due).me.loops = [] ∧ (begun due).me.dl = 0 ∧ (begun due).me.spilled = [] ∧
      (begun due).me.replay = false ∧ (decodeBundle (bytesAt (headed iaddCells))).isSome = true := by decide +kernel

/-- Three reads of one bank, a BRU in a delay bundle, the end of a body with two entries, and a fetch that waits for a walk. -/
theorem wit_heldBundles :
    (begun due).me.delayed = 0 ∧
      0 < portDelay (bundleReads (begun due) [(.va, .fadd { v2 with a := .v 0, b := .v 8 }), (.vb, .fadd { v2 with a := .v 24 })]) ∧
      badDelay { (begun due).me with dl := 3, xfer := .goto 0x2000 } [(.sa, .bru always 4)] = true ∧
      badDelay inLoop.me [] = false ∧
      badLoopEnd (upd inLoop (fun w => { w with entries := w.entries ++ [⟨0x2000, 0, 1, false, 0, .none, none⟩] })) = true ∧
      heldBack (upd inLoop (fun w => { w with entries := w.entries ++ [⟨0x2000, 0, 1, false, 0, .none, none⟩] })).me 0x0800 = true ∧
      heldFetch (core0 due (fun k => { k with tlb := [] })) = true := by decide +kernel

/-- A fetch that faults: the page of the bundle may not be executed. -/
theorem wit_fetchFault :
    (match fetchBytes (begun (core0 due (fun k => { k with tlb := [⟨0, 16, 0, true, false, true, false⟩] }))) 0 0 .u 0x1000 2 with
      | .fault n => n == 2
      | _ => false) = true := by decide +kernel

theorem wit_steps :
    due.pt.start.started = true ∧ due.pt.throttle = false ∧ due.agenda = [] ∧ 2 ≤ due.cursor ∧ due.cursor < 146 ∧
      (nextTurn (headed iaddCells)).map (·.1) = some 0 ∧ found? (decodeBundle (bytesAt due)) (fun b => b.instr.wf false) = true ∧
      (decodeTableWord 0 0).isSome = true ∧
      (bytesAt (headed iaddCells)).take 2 = [1, 0] ∧ bundleLen (BitVec.ofNat 16 (leNat [1, 0])) = 8 := by decide +kernel

theorem wit_memoryStaysCanonical : Memory.wf State.reset.ms.mem = true ∧ Memory.wf (headed iaddCells).ms.mem = true := by decide +kernel

theorem wit_encodings :
    (Instr.iadd g3).wf false = true ∧ slotAccepts (.iadd g3) .sa = true ∧ encodeSlot (.iadd g3) = some (sW 0x01 5 6 0 7 0, none) ∧
      (Instr.fadd w2).wf false = true ∧ slotAccepts (.fadd w2) .vc = true ∧ encodeSlot (.fadd w2) = some (vw2 0x01, none) ∧
      (Instr.texS xs 24 10).wf false = true ∧ encodeSlot (.texS xs 24 10) = some (xW 0x58 spV24 spS10 1 5, none) ∧
      (Instr.ldMw .b32 (mwo 0)).wf false = true ∧ encodeSlot (.ldMw .b32 (mwo 0)) = some (mww 0x15 0, none) ∧
      encodeStep (.ldsv q5 40 41 3 7) = some (stepWord 2 (40#9 ++ 41#9 ++ 3#4 ++ 7#8 ++ 0#26)) := by decide +kernel

/-- An ERET at level U, and an unassigned opcode in each kind of slot. -/
theorem wit_levelsAndOpcodes :
    ((sW 0x62 0 0 0 0 0).extractLsb' 40 8).toNat = 0x62 ∧ (decodeSlot .sa .u false (sW 0x62 0 0 0 0 0) none).toOption = none ∧
      [Slot.sa, .sb, .va, .vb, .vc, .xe, .ma, .mb].all (fun sl => (decodeSlot sl .f false 0 none).toOption.isNone) = true ∧
      (Bundle.slots ⟨1, [0]⟩ .u false).toOption.isNone = true := by decide +kernel

/-! ## Single steps, against results worked out by hand from the rules -/

/-- The writes that an instruction leaves pending. -/
def writesOf (i : Instr) (s : State) : List Write := match exec i s with | .next t => t.myCore.pw.map (·.wr) | _ => []

/-- The value of lane 0 of the first vector write. -/
def lane0Of (i : Instr) (s : State) : Option Word :=
  match writesOf i s with
  | .vec _ _ v _ _ :: _ => some (v.lane 0)
  | _ => none

/-- U with registers v2 and v3 that hold one value each in every lane. -/
def regsOf (a b : Word) : State :=
  core0 U (fun k => { k with regs := [(regIndex 2 ⟨0, 2⟩, ⟨List.replicate 128 a, 0⟩), (regIndex 3 ⟨0, 3⟩, ⟨List.replicate 128 b, 0⟩)] })

/-- 0x80000000 + 0xFFFFFFFF wraps (R101). -/
theorem test_iadd_wraps : writesOf (.iadd o3) U = [.sreg 5 0x7FFFFFFF] := by decide +kernel

/-- The high half of −2³¹ × −1 is 0 signed, and of 2³¹ × (2³² − 1) is 0x7FFFFFFF unsigned (R101). -/
theorem test_imulh_signs : writesOf (.imulh o3 false) U = [.sreg 5 0] ∧ writesOf (.imulh o3 true) U = [.sreg 5 0x7FFFFFFF] := by
  decide +kernel

/-- −2³¹ divided by 3 truncates toward zero (R102). -/
theorem test_idiv_truncates : writesOf (.idiv { o3 with b := .imm 3 } false) U = [.sreg 5 0xD5555556] := by decide +kernel

/-- A field of 8 bits at bit 28 of 0x80000000 is 0b1000, which is not negative (R104). -/
theorem test_bfx_past_the_top : writesOf (.bfx { o3 with b := .imm 28 } 7 true) U = [.sreg 5 8] := by decide +kernel

/-- FLOP with the table 0b0010 gives NOT f1; f1 reads 0 here (R108). -/
theorem test_flop_not : writesOf (.flop always 3 1 0 2) U = [.flag 3 true] := by decide +kernel

/-- A write of s0 is discarded when it lands (R57). -/
theorem test_s0_discards :
    (match exec .resultLanding (core0 U (fun k => { k with pw := [pend none (.sreg 0 9)] })) with
      | .next t => sGet (t.warp 0 0) 0 == 0 && (t.core 0).pw.isEmpty
      | _ => false) = true := by decide +kernel

/-- 1.0 + 2⁻²⁴ is a tie that goes to even: 1.0 (R134, R83). -/
theorem test_fadd_ties_to_even : lane0Of (.fadd v2) (regsOf 0x3F800000 0x33800000) = some 0x3F800000 := by decide +kernel

/-- The smaller of +0 and −0 is −0 (R135). -/
theorem test_fmin_zeros : lane0Of (.fmin v2) (regsOf 0 0x80000000) = some 0x80000000 := by decide +kernel

/-- FCLASS of a negative subnormal sets bit 2 (R136). -/
theorem test_fclass_subnormal : lane0Of (.fclass v1) (regsOf 0x80000001 0) = some 4 := by decide +kernel

/-- PACK puts the low half of B above the low half of A (R150). -/
theorem test_pack_halves : lane0Of (.pack v2) (regsOf 0x11112222 0x33334444) = some 0x44442222 := by decide +kernel

/-- Byte 3, sign-extended (R150). -/
theorem test_unpk_byte : lane0Of (.unpk v1 true false 3) (regsOf 0x80112233 0) = some 0xFFFFFF80 := by decide +kernel

/-- FP32 1.5 as FP16 is 0x3E00 (R147). -/
theorem test_cvt_half : lane0Of (.cvt v1 .f32 .h16 .rne 0) (regsOf 0x3FC00000 0) = some 0x3E00 := by decide +kernel

/-- TRAP 255 captures its warp with a record of code and subcode, whose PC is that of the next bundle (R260, R375). -/
theorem test_trap_captures :
    (match exec (.trap always (.imm 255)) U with
      | .next t => (match t.me.status with
        | .captured r => r.code == .softwareTrap && r.sub == 255 && r.pc == 0x1008
        | _ => false)
      | _ => false) = true := by decide +kernel

/-- The part issues the idle bundle at 0x1000 and goes to the next one (R22). -/
theorem test_idle_bundle_passes :
    (match step due with | .next t => (t.warp 0 0).entries.map (·.pc) == [0x1002] && t.cursor == 3 | _ => false) = true := by decide +kernel
end Sys2Proof.Tests
end

section
/-!
How a decoding step can fail: on a field of its form (illegal bundle or illegal operand), on the opcode (R40) or on the level (R46).
The readers of the slot-word forms fail on a field only.
-/
namespace Sys2Proof

/-- A decoding step that fails only on a field of its form, and so neither on the opcode (R40) nor on the level (R46). -/
def FieldsOnly {α : Type} (d : Dec α) : Prop := ∀ e, d = .error e → e = .illegalBundle ∨ e = .illegalOperand

theorem FieldsOnly.ne_illegalOpcode {α : Type} {d : Dec α} (h : FieldsOnly d) : d ≠ .error .illegalOpcode :=
  fun he => by simpa using h _ he

theorem FieldsOnly.ne_privilege {α : Type} {d : Dec α} (h : FieldsOnly d) : d ≠ .error .privilege :=
  fun he => by simpa using h _ he

/-! ## The steps that decoders are built of -/

@[simp] theorem fieldsOnly_ok {α : Type} (x : α) : FieldsOnly (.ok x : Dec α) := by simp [FieldsOnly]

@[simp] theorem fieldsOnly_pure {α : Type} (x : α) : FieldsOnly (pure x : Dec α) := fieldsOnly_ok x

@[simp] theorem fieldsOnly_error_iff {α : Type} (e : DecErr) :
    FieldsOnly (.error e : Dec α) ↔ e = .illegalBundle ∨ e = .illegalOperand := by simp [FieldsOnly]

@[simp] theorem fieldsOnly_bind_iff {α β : Type} (d : Dec α) (f : α → Dec β) :
    FieldsOnly (d >>= f) ↔ FieldsOnly d ∧ ∀ x, d = .ok x → FieldsOnly (f x) := by
  cases d with
  | error e => simp [FieldsOnly, bind, Except.bind]
  | ok x => simp [FieldsOnly, bind, Except.bind]

theorem FieldsOnly.bind {α β : Type} {d : Dec α} {f : α → Dec β} (hd : FieldsOnly d) (hf : ∀ x, FieldsOnly (f x)) :
    FieldsOnly (d >>= f) := (fieldsOnly_bind_iff d f).2 ⟨hd, fun x _ => hf x⟩

@[simp] theorem fieldsOnly_map_iff {α β : Type} (f : α → β) (d : Dec α) : FieldsOnly (f <$> d) ↔ FieldsOnly d := by
  cases d with
  | error e => simp [FieldsOnly, Functor.map, Except.map]
  | ok x => simp [FieldsOnly, Functor.map, Except.map]

@[simp] theorem fieldsOnly_ite_iff {α : Type} (c : Prop) [Decidable c] (a b : Dec α) :
    FieldsOnly (if c then a else b) ↔ (c → FieldsOnly a) ∧ (¬ c → FieldsOnly b) := by
  by_cases h : c
  · simp [h]
  · simp [h]

@[simp] theorem fieldsOnly_needBun (c : Bool) : FieldsOnly (needBun c) := by
  cases c <;> simp [needBun, need]

@[simp] theorem fieldsOnly_needOp (c : Bool) : FieldsOnly (needOp c) := by
  cases c <;> simp [needOp, need]

@[simp] theorem fieldsOnly_needSome_iff {α : Type} (x : Option α) (e : DecErr) :
    FieldsOnly (needSome x e) ↔ (x = none → e = .illegalBundle ∨ e = .illegalOperand) := by
  cases x <;> simp [needSome]

/-! ## Specifiers (R38) -/

@[simp] theorem fieldsOnly_srcSpec (c : BitVec 10) : FieldsOnly (srcSpec c) := by
  unfold srcSpec
  split <;> simp

@[simp] theorem fieldsOnly_dstSpec (c : BitVec 10) : FieldsOnly (dstSpec c) := by
  unfold dstSpec
  split <;> simp

@[simp] theorem fieldsOnly_vSpec (c : BitVec 10) : FieldsOnly (vSpec c) := by
  unfold vSpec
  split <;> simp

@[simp] theorem fieldsOnly_sSpec (c : BitVec 10) : FieldsOnly (sSpec c) := by
  unfold sSpec
  split <;> simp

@[simp] theorem fieldsOnly_immSpec (c : BitVec 10) : FieldsOnly (immSpec c) := by
  unfold immSpec
  split <;> simp

@[simp] theorem fieldsOnly_immOrS (c : BitVec 10) : FieldsOnly (immOrS c) := by
  unfold immOrS
  split <;> simp

@[simp] theorem fieldsOnly_pairSpec (c : BitVec 10) : FieldsOnly (pairSpec c) := by
  unfold pairSpec
  split <;> simp

@[simp] theorem fieldsOnly_sPair (c : BitVec 10) : FieldsOnly (sPair c) := by
  unfold sPair
  split <;> simp

@[simp] theorem fieldsOnly_blockSpec (c : BitVec 10) (size : Nat) : FieldsOnly (blockSpec c size) := by
  simp [blockSpec]

/-! ## The forms of the S class (R32) -/

@[simp] theorem fieldsOnly_sSrc (i : BitVec 1) (sb : BitVec 14) : FieldsOnly (sSrc i sb) := by simp [sSrc]

@[simp] theorem fieldsOnly_s3 (r : RawS) : FieldsOnly r.s3 := by simp [RawS.s3]

@[simp] theorem fieldsOnly_s3z (r : RawS) : FieldsOnly r.s3z := by simp [RawS.s3z]

@[simp] theorem fieldsOnly_s3u (r : RawS) : FieldsOnly r.s3u := by simp [RawS.s3u]

@[simp] theorem fieldsOnly_s2 (r : RawS) : FieldsOnly r.s2 := by simp [RawS.s2]

@[simp] theorem fieldsOnly_decodeMovs (r : RawS) : FieldsOnly (decodeMovs r) := by
  refine .bind (by simp) fun _ => ?_
  split <;> simp

@[simp] theorem fieldsOnly_ctlNum (r : RawS) : FieldsOnly (ctlNum r) := by
  refine .bind (by simp) fun b => ?_
  cases b <;> simp

/-! ## The V-form (R31) -/

@[simp] theorem fieldsOnly_v1 (r : RawV) : FieldsOnly r.v1 := by simp [RawV.v1]

@[simp] theorem fieldsOnly_v1z (r : RawV) : FieldsOnly r.v1z := by simp [RawV.v1z]

@[simp] theorem fieldsOnly_v1i (r : RawV) : FieldsOnly r.v1i := by simp [RawV.v1i]

@[simp] theorem fieldsOnly_v2 (r : RawV) : FieldsOnly r.v2 := by simp [RawV.v2]

@[simp] theorem fieldsOnly_v2k (r : RawV) : FieldsOnly r.v2k := by simp [RawV.v2k]

@[simp] theorem fieldsOnly_vacc (r : RawV) : FieldsOnly r.vacc := by simp [RawV.vacc]

@[simp] theorem fieldsOnly_vcmp (r : RawV) : FieldsOnly r.vcmp := by simp [RawV.vcmp]

@[simp] theorem fieldsOnly_vred (r : RawV) : FieldsOnly r.vred := by
  refine .bind (by simp) fun _ => .bind (by simp) fun _ => .bind (by simp) fun _ => ?_
  split
  · refine .bind (by simp) fun _ => ?_
    split <;> simp
  · simp

/-! ## The X-form and the forms of the M class (R33, R34, R36) -/

@[simp] theorem fieldsOnly_ctl (r : RawX) (inRegion : Bool) (k : ArrivalRule) : FieldsOnly (r.ctl inRegion k) := by
  cases k <;> simp [RawX.ctl]

@[simp] theorem fieldsOnly_mops (r : RawM) (segs : List (BitVec 3)) (u : DatUse) : FieldsOnly (r.mops segs u) := by
  simp [RawM.mops]

@[simp] theorem fieldsOnly_mwops (r : RawW) (segs : List (BitVec 3)) (u : DatUse) : FieldsOnly (r.mwops segs u) := by
  simp [RawW.mwops]

@[simp] theorem fieldsOnly_decodeAtom (r : RawW) (sc : Bool) (op : AtomOp) : FieldsOnly (decodeAtom r sc op) := by
  simp [decodeAtom]

@[simp] theorem fieldsOnly_decodeFence (r : RawM) : FieldsOnly (decodeFence r) := by
  refine .bind (by simp) fun _ => .bind (by simp) fun _ => .bind (by simp) fun _ => ?_
  split <;> simp

end Sys2Proof
end

section
/-!
The level that an opcode asks for is judged before the fields of its word (R46, R47).
-/
namespace Sys2Proof

/-- The least level at which an S-class opcode of SA issues (R46). -/
def leastLevelSa (op : Nat) : Level :=
  if op = 0x67 then .f else if op = 0x62 ∨ op = 0x65 ∨ op = 0x66 then .s else .u

/-- The least level at which an opcode issues in a slot (R46). -/
def leastLevel (sl : Slot) (op : Nat) : Level := if sl = .sa then leastLevelSa op else .u

theorem needLevel_of_le {lv min : Level} (h : min.num ≤ lv.num) : needLevel lv min = .ok () := by
  simp [needLevel, need, h]

theorem needLevel_of_not_le {lv min : Level} (h : ¬ min.num ≤ lv.num) : needLevel lv min = .error .privilege := by
  simp [needLevel, need, h]

@[simp] theorem needLevel_f (min : Level) : needLevel .f min = .ok () := needLevel_of_le (by cases min <;> decide)

@[simp] theorem needLevel_u (lv : Level) : needLevel lv .u = .ok () := needLevel_of_le (Nat.zero_le _)

@[simp] theorem dec_ok_bind {α β : Type} (x : α) (f : α → Dec β) : ((.ok x : Dec α) >>= f) = f x := rfl

@[simp] theorem dec_error_bind {α β : Type} (e : DecErr) (f : α → Dec β) : ((.error e : Dec α) >>= f) = .error e := rfl

theorem decodeSaCtl_eq_needLevel (lv : Level) (r : RawS) :
    decodeSaCtl lv r = (do needLevel lv (leastLevelSa r.op.toNat); decodeSaCtl .f r) := by
  unfold decodeSaCtl
  split
  case h_19 => grind [leastLevelSa, needLevel_u, dec_ok_bind]
  all_goals
    rename_i hop
    simp [hop, leastLevelSa]

end Sys2Proof
end

section
/-!
The opcode maps of R41 to R44, part by part as the decoder takes them: on an assigned opcode a word fails on a field at most, and on
every other opcode it raises illegal opcode (R40).
-/
namespace Sys2Proof

/-- What R40 asks of the decoder of one opcode map at level F: a word of an assigned opcode fails on a field at most, and
any other word raises illegal opcode. -/
structure Judges (assigned : Prop) (d : Dec Instr) : Prop where
  fields : assigned → FieldsOnly d
  illegal : ¬ assigned → d = .error .illegalOpcode

section
variable {p q : Prop} {d : Dec Instr}

theorem Judges.of_assigned (h : p) (hd : FieldsOnly d) : Judges p d := ⟨fun _ => hd, fun hn => absurd h hn⟩

theorem Judges.of_unassigned (h : ¬ p) : Judges p (.error .illegalOpcode) := ⟨fun hp => absurd hp h, fun _ => rfl⟩

theorem Judges.congr (h : Judges p d) (hpq : p ↔ q) : Judges q d :=
  ⟨fun hq => h.fields (hpq.2 hq), fun hq => h.illegal (mt hpq.1 hq)⟩

theorem Judges.illegalOpcode_iff (h : Judges p d) : d = .error .illegalOpcode ↔ ¬ p :=
  ⟨fun he hp => (h.fields hp).ne_illegalOpcode he, h.illegal⟩

theorem Judges.ne_privilege (h : Judges p d) : d ≠ .error .privilege := by
  by_cases hp : p
  · exact (h.fields hp).ne_privilege
  · simp [h.illegal hp]

end

/-! ## The S class (R28, R41) -/

/-- The S-form opcodes below 0x40, which SA and SB both accept (R28, R41). -/
def aluOpcode (op : Nat) : Prop := 0x01 ≤ op ∧ op ≤ 0x20

/-- The five opcodes of 0x40 to 0x7F that SB accepts too (R28). -/
def sharedOpcode (op : Nat) : Prop := op = 0x50 ∨ op = 0x52 ∨ op = 0x53 ∨ op = 0x63 ∨ op = 0x64

/-- The opcodes of the B-form (R41). -/
def branchOpcode (op : Nat) : Prop := 0x40 ≤ op ∧ op ≤ 0x44 ∨ op = 0x4A

/-- The S-form opcodes that SA alone accepts (R28, R41). -/
def saOpcode (op : Nat) : Prop :=
  0x45 ≤ op ∧ op ≤ 0x49 ∨ op = 0x51 ∨ op = 0x54 ∨ op = 0x55 ∨ 0x60 ≤ op ∧ op ≤ 0x62 ∨ 0x65 ≤ op ∧ op ≤ 0x6B

theorem decodeAlu_judges (r : RawS) (bw : Option SlotWord) : Judges (aluOpcode r.op.toNat) (decodeAlu r bw) := by
  unfold decodeAlu aluOpcode
  split
  case h_33 => exact .of_unassigned (by grind)
  all_goals refine .of_assigned (by omega) ?_
  case h_23 =>
    refine .bind (by simp) fun _ => .bind (by simp) fun _ => ?_
    split <;> simp
  case h_26 =>
    refine .bind (by simp) fun _ => ?_
    split <;> simp
  all_goals simp

theorem decodeBothCtl_judges (r : RawS) : Judges (sharedOpcode r.op.toNat) (decodeBothCtl r) := by
  unfold decodeBothCtl sharedOpcode
  split
  case h_6 => exact .of_unassigned (by grind)
  all_goals exact .of_assigned (by omega) (by simp)

theorem decodeB_judges (r : RawB) (bw : Option SlotWord) : Judges (branchOpcode r.op.toNat) (decodeB r bw) := by
  unfold decodeB branchOpcode
  split
  case h_7 => exact .of_unassigned (by grind)
  all_goals refine .of_assigned (by omega) ?_
  case h_3 =>
    refine .bind (by simp) fun _ => ?_
    split <;> simp
  all_goals simp

theorem decodeSaCtl_judges (r : RawS) : Judges (saOpcode r.op.toNat) (decodeSaCtl .f r) := by
  unfold decodeSaCtl saOpcode
  split
  case h_19 => exact .of_unassigned (by grind)
  all_goals refine .of_assigned (by omega) ?_
  case h_17 =>
    refine .bind (by simp) fun _ => ?_
    split <;> simp
  case h_18 =>
    refine .bind (by simp) fun _ => .bind (by simp) fun _ => ?_
    split <;> simp
  all_goals simp

theorem isBOp_iff (op : BitVec 8) : isBOp op = true ↔ branchOpcode op.toNat := by
  simp only [isBOp, branchOpcode, Bool.or_eq_true, beq_iff_eq, BitVec.toNat_eq, BitVec.reduceToNat]
  omega

theorem decodeS_judges (inSa : Bool) (w : SlotWord) (bw : Option SlotWord) :
    Judges (aluOpcode (RawS.ofWord w).op.toNat ∨ sharedOpcode (RawS.ofWord w).op.toNat ∨
      inSa = true ∧ (branchOpcode (RawS.ofWord w).op.toNat ∨ saOpcode (RawS.ofWord w).op.toNat)) (decodeS inSa .f w bw) := by
  have hshared := decodeBothCtl_judges (RawS.ofWord w)
  have hb := isBOp_iff (RawS.ofWord w).op
  unfold decodeS
  dsimp only
  split
  case isTrue hlow =>
    refine (decodeAlu_judges _ bw).congr ?_
    unfold aluOpcode sharedOpcode branchOpcode saOpcode
    omega
  case isFalse hhigh =>
    have halu : ¬ aluOpcode (RawS.ofWord w).op.toNat := by unfold aluOpcode; omega
    split
    next hill =>
      have hns := hshared.illegalOpcode_iff.1 hill
      split
      next hsa =>
        split
        next hbop =>
          exact (decodeB_judges (RawB.ofWord w) bw).congr ⟨fun h => .inr (.inr ⟨hsa, .inl h⟩), fun _ => hb.1 hbop⟩
        next hbop =>
          refine (decodeSaCtl_judges (RawS.ofWord w)).congr ?_
          simp only [halu, hns, hsa, mt hb.2 hbop, false_or, true_and]
      next hsa => exact .of_unassigned fun
        | .inl h => halu h
        | .inr (.inl h) => hns h
        | .inr (.inr h) => hsa h.1
    next hne =>
      have hs : sharedOpcode (RawS.ofWord w).op.toNat := Classical.byContradiction fun hn => hne (hshared.illegal hn)
      exact .of_assigned (.inr (.inl hs)) (hshared.fields hs)

/-! ## The V class (R42) -/

/-- The opcodes of the V class (R42). -/
def vOpcode (op : Nat) : Prop :=
  0x01 ≤ op ∧ op ≤ 0x09 ∨ 0x10 ≤ op ∧ op ≤ 0x17 ∨ 0x20 ≤ op ∧ op ≤ 0x27 ∨ 0x40 ≤ op ∧ op ≤ 0x4F ∨
    0x50 ≤ op ∧ op ≤ 0x5A ∨ 0x60 ≤ op ∧ op ≤ 0x69 ∨ 0x70 ≤ op ∧ op ≤ 0x79

/-- VCMP takes its condition from the low half of its opcode (R42): none of the ten is left without one. -/
theorem condOf_low_half_eq_none_iff (op : BitVec 8) : condOf (op.extractLsb' 0 4) = none ↔ 10 ≤ op.toNat % 16 := by
  have hlow : (op.extractLsb' 0 4).toNat = op.toNat % 16 := by simp
  unfold condOf
  split <;> grind

theorem decodeV_judges (w : SlotWord) (bw : Option SlotWord) : Judges (vOpcode (RawV.ofWord w).op.toNat) (decodeV w bw) := by
  unfold decodeV vOpcode
  dsimp only
  split
  case h_73 => exact .of_unassigned (by grind)
  all_goals
    rename_i hop
    exact .of_assigned (by omega) (by simp [condOf_low_half_eq_none_iff, hop])

/-! ## The X class (R43) -/

/-- The V-form opcodes of the X class (R43). -/
def vectorXOpcode (op : Nat) : Prop := 0x01 ≤ op ∧ op ≤ 0x08 ∨ 0x11 ≤ op ∧ op ≤ 0x18 ∨ 0x20 ≤ op ∧ op ≤ 0x24

/-- The opcodes of the X-form commands (R43). -/
def commandOpcode (op : Nat) : Prop :=
  0x40 ≤ op ∧ op ≤ 0x46 ∨ 0x50 ≤ op ∧ op ≤ 0x54 ∨ 0x58 ≤ op ∧ op ≤ 0x5B ∨ 0x60 ≤ op ∧ op ≤ 0x64

theorem decodeXV_judges (r : RawV) : Judges (vectorXOpcode r.op.toNat) (decodeXV r) := by
  unfold decodeXV vectorXOpcode
  split
  case h_22 => exact .of_unassigned (by grind)
  all_goals refine .of_assigned (by omega) ?_
  case h_20 =>
    refine .bind (by simp) fun _ => .bind (by simp) fun _ => .bind (by simp) fun _ => .bind (by simp) fun _ => ?_
    split <;> simp
  all_goals simp

theorem decodeXX_judges (inRegion : Bool) (r : RawX) : Judges (commandOpcode r.op.toNat) (decodeXX inRegion r) := by
  unfold decodeXX commandOpcode
  split
  case h_22 => exact .of_unassigned (by grind)
  all_goals exact .of_assigned (by omega) (by simp)

theorem decodeX_judges (inRegion : Bool) (w : SlotWord) :
    Judges (vectorXOpcode (RawX.ofWord w).op.toNat ∨ commandOpcode (RawX.ofWord w).op.toNat) (decodeX inRegion w) := by
  unfold decodeX
  split
  next hlow =>
    refine (decodeXV_judges (RawV.ofWord w)).congr (or_iff_left ?_).symm
    unfold commandOpcode
    omega
  next hhigh =>
    refine (decodeXX_judges inRegion (RawX.ofWord w)).congr (or_iff_right ?_).symm
    unfold vectorXOpcode
    omega

/-! ## The M class (R44) -/

/-- The M-form opcodes (R44). -/
def mFormOpcode (op : Nat) : Prop :=
  0x01 ≤ op ∧ op ≤ 0x06 ∨ 0x08 ≤ op ∧ op ≤ 0x0A ∨ 0x90 ≤ op ∧ op ≤ 0x91 ∨ 0x98 ≤ op ∧ op ≤ 0x9A ∨
    0xA0 ≤ op ∧ op ≤ 0xA2 ∨ 0xB0 ≤ op ∧ op ≤ 0xB2

/-- ATOM at 32 and 64 bits, and ATOM.SC with the same operations in the same order (R44). -/
def atomicOpcode (op : Nat) : Prop :=
  0x40 ≤ op ∧ op ≤ 0x4B ∨ 0x50 ≤ op ∧ op ≤ 0x59 ∨ 0x60 ≤ op ∧ op ≤ 0x6B ∨ 0x70 ≤ op ∧ op ≤ 0x79

/-- The MW-form opcodes (R44). -/
def mwFormOpcode (op : Nat) : Prop :=
  0x11 ≤ op ∧ op ≤ 0x15 ∨ 0x18 ≤ op ∧ op ≤ 0x1A ∨ 0x1C ≤ op ∧ op ≤ 0x22 ∨ atomicOpcode op ∨ 0x80 ≤ op ∧ op ≤ 0x84 ∨
    0x88 ≤ op ∧ op ≤ 0x89

theorem atomOpOf_eq_none_iff (wide : Bool) (n : BitVec 4) :
    atomOpOf wide n = none ↔ (if wide then 9 else 11) < n.toNat := by
  unfold atomOpOf
  cases wide <;> split <;> grind

theorem decodeMM_judges (r : RawM) : Judges (mFormOpcode r.op.toNat) (decodeMM r) := by
  unfold decodeMM mFormOpcode
  split
  case h_21 => exact .of_unassigned (by grind)
  all_goals exact .of_assigned (by omega) (by simp)

theorem decodeMW_judges (r : RawW) : Judges (mwFormOpcode r.op.toNat) (decodeMW r) := by
  unfold decodeMW mwFormOpcode atomicOpcode
  split
  case h_23 =>
    have hhi : (r.op.extractLsb' 4 4).toNat = r.op.toNat / 16 := by
      simp only [BitVec.extractLsb'_toNat, Nat.shiftRight_eq_div_pow]
      omega
    have hlo : (r.op.extractLsb' 0 4).toNat = r.op.toNat % 16 := by simp
    dsimp only
    split
    next hatom => exact .of_assigned (by grind [atomOpOf_eq_none_iff, Option.map_eq_some_iff]) (by simp)
    next hnone => exact .of_unassigned (by grind [atomOpOf_eq_none_iff, Option.map_eq_none_iff])
  all_goals exact .of_assigned (by omega) (by simp)

theorem isMForm_iff (op : BitVec 8) : isMForm op = true ↔ op.toNat < 0x11 ∨ 0x90 ≤ op.toNat := by
  simp [isMForm]

theorem decodeM_judges (w : SlotWord) :
    Judges (mFormOpcode (RawM.ofWord w).op.toNat ∨ mwFormOpcode (RawM.ofWord w).op.toNat) (decodeM w) := by
  have hmw : Judges (mwFormOpcode (RawM.ofWord w).op.toNat) _ := decodeMW_judges (RawW.ofWord w)
  unfold decodeM
  split
  next hform =>
    rw [isMForm_iff] at hform
    refine (decodeMM_judges (RawM.ofWord w)).congr (or_iff_left ?_).symm
    unfold mwFormOpcode atomicOpcode
    omega
  next hform =>
    rw [isMForm_iff] at hform
    refine hmw.congr (or_iff_right ?_).symm
    unfold mFormOpcode
    omega

end Sys2Proof
end

section
/-!
The decoder of one slot word: the level first (R46), then the opcode in the class of the slot (R28, R40), then the fields.
-/
namespace Sys2Proof

/-- The opcodes that the class of a slot assigns (R28, R40 to R44). -/
def assignedIn (sl : Slot) (op : Nat) : Prop :=
  match sl with
  | .sa => aluOpcode op ∨ sharedOpcode op ∨ branchOpcode op ∨ saOpcode op
  | .sb => aluOpcode op ∨ sharedOpcode op
  | .va | .vb | .vc => vOpcode op
  | .xe => vectorXOpcode op ∨ commandOpcode op
  | .ma | .mb => mFormOpcode op ∨ mwFormOpcode op

theorem decodeSlot_judges (sl : Slot) (inRegion : Bool) (w : SlotWord) (bw : Option SlotWord) :
    Judges (assignedIn sl (w.extractLsb' 40 8).toNat) (decodeSlot sl .f inRegion w bw) := by
  cases sl with
  | sa => exact (decodeS_judges true w bw).congr (by simp [assignedIn, RawS.ofWord])
  | sb => exact (decodeS_judges false w bw).congr (by simp [assignedIn, RawS.ofWord])
  | va | vb | vc => exact decodeV_judges w bw
  | xe => exact decodeX_judges inRegion w
  | ma | mb => exact decodeM_judges w

theorem leastLevelSa_of_not_saOpcode {op : Nat} (h : ¬ saOpcode op) : leastLevelSa op = .u := by
  unfold saOpcode at h
  rw [leastLevelSa, if_neg (by omega), if_neg (by omega)]

theorem decodeS_of_saOpcode (lv : Level) {w : SlotWord} (bw : Option SlotWord) (h : saOpcode (RawS.ofWord w).op.toNat) :
    decodeS true lv w bw = decodeSaCtl lv (RawS.ofWord w) := by
  unfold saOpcode at h
  have hhigh : ¬ (RawS.ofWord w).op.toNat < 0x40 := by omega
  have hshared : decodeBothCtl (RawS.ofWord w) = .error .illegalOpcode :=
    (decodeBothCtl_judges _).illegal (by unfold sharedOpcode; omega)
  have hb : ¬ isBOp (RawS.ofWord w).op = true := by
    rw [isBOp_iff]
    unfold branchOpcode
    omega
  simp [decodeS, hhigh, hshared, hb]

theorem decodeS_eq_needLevel (lv : Level) (w : SlotWord) (bw : Option SlotWord) :
    decodeS true lv w bw = (do needLevel lv (leastLevelSa (RawS.ofWord w).op.toNat); decodeS true .f w bw) := by
  by_cases h : saOpcode (RawS.ofWord w).op.toNat
  · rw [decodeS_of_saOpcode lv bw h, decodeS_of_saOpcode .f bw h, decodeSaCtl_eq_needLevel]
  · simp only [decodeS, decodeSaCtl_eq_needLevel lv, leastLevelSa_of_not_saOpcode h, needLevel_u, dec_ok_bind]

theorem decodeSlot_eq_needLevel (sl : Slot) (lv : Level) (inRegion : Bool) (w : SlotWord) (bw : Option SlotWord) :
    decodeSlot sl lv inRegion w bw =
      (do needLevel lv (leastLevel sl (w.extractLsb' 40 8).toNat); decodeSlot sl .f inRegion w bw) := by
  cases sl with
  | sa => exact decodeS_eq_needLevel lv w bw
  | sb => simp [leastLevel, decodeSlot, decodeS]
  | va | vb | vc | xe | ma | mb => simp [leastLevel, decodeSlot]

theorem assignedIn_of_leastLevel_ne_u {sl : Slot} {op : Nat} (h : leastLevel sl op ≠ .u) : assignedIn sl op := by
  by_cases hsl : sl = .sa
  · subst hsl
    have hsa : saOpcode op := Classical.byContradiction fun hn => h (leastLevelSa_of_not_saOpcode hn)
    exact .inr (.inr (.inr hsa))
  · exact absurd (if_neg hsl) h

theorem decodeSlot_of_level {sl : Slot} {lv : Level} {w : SlotWord} (inRegion : Bool) (bw : Option SlotWord)
    (h : (leastLevel sl (w.extractLsb' 40 8).toNat).num ≤ lv.num) :
    decodeSlot sl lv inRegion w bw = decodeSlot sl .f inRegion w bw := by
  rw [decodeSlot_eq_needLevel, needLevel_of_le h, dec_ok_bind]

theorem decodeSlot_below_level {sl : Slot} {lv : Level} {w : SlotWord} (inRegion : Bool) (bw : Option SlotWord)
    (h : ¬ (leastLevel sl (w.extractLsb' 40 8).toNat).num ≤ lv.num) :
    decodeSlot sl lv inRegion w bw = .error .privilege := by
  rw [decodeSlot_eq_needLevel, needLevel_of_not_le h, dec_error_bind]

theorem decodeSlot_illegalOpcode_iff (sl : Slot) (lv : Level) (inRegion : Bool) (w : SlotWord) (bw : Option SlotWord) :
    decodeSlot sl lv inRegion w bw = .error .illegalOpcode ↔ ¬ assignedIn sl (w.extractLsb' 40 8).toNat := by
  by_cases h : (leastLevel sl (w.extractLsb' 40 8).toNat).num ≤ lv.num
  · rw [decodeSlot_of_level inRegion bw h]
    exact (decodeSlot_judges sl inRegion w bw).illegalOpcode_iff
  · have hassigned : assignedIn sl (w.extractLsb' 40 8).toNat :=
      assignedIn_of_leastLevel_ne_u fun hu => h (hu ▸ Nat.zero_le _)
    rw [decodeSlot_below_level inRegion bw h]
    exact iff_of_false (by simp) (Classical.not_not.2 hassigned)

/-- Settles O52: of the opcode maps of R41 to R44 each part of the decoder answers illegal opcode exactly off its map, and no level
check stands before an unassigned opcode. -/
theorem unassignedOpcodesTrap : Obligations.UnassignedOpcodesTrap := by
  unfold Obligations.UnassignedOpcodesTrap
  refine ⟨rfl, fun sl lv r w bw => ?_⟩
  rw [decodeSlot_illegalOpcode_iff]
  refine not_congr ?_
  generalize (w.extractLsb' 40 8).toNat = op
  cases sl with
  | sa =>
    simp only [assignedIn, aluOpcode, sharedOpcode, branchOpcode, saOpcode]
    omega
  | sb => exact Iff.rfl
  | va | vb | vc => exact Iff.rfl
  | xe =>
    simp only [assignedIn, vectorXOpcode, commandOpcode]
    omega
  | ma | mb =>
    simp only [assignedIn, mFormOpcode, mwFormOpcode, atomicOpcode]
    omega

/-- The four opcodes of R46, each at the levels below its own. -/
theorem not_leastLevel_le_iff (sl : Slot) (lv : Level) (op : Nat) :
    ¬ (leastLevel sl op).num ≤ lv.num ↔
      (sl = .sa ∧ (op = 0x62 ∨ op = 0x65 ∨ op = 0x66)) ∧ lv = .u ∨ (sl = .sa ∧ op = 0x67) ∧ lv ≠ .f := by
  cases lv <;> grind [leastLevel, leastLevelSa, Level.num]

/-- Settles O53: the level check stands before every other check of a word, and the decoder at level F makes none. -/
theorem opcodesThatNeedALevel : Obligations.OpcodesThatNeedALevel := by
  unfold Obligations.OpcodesThatNeedALevel
  refine ⟨rfl, fun sl lv r w bw => ?_⟩
  dsimp only
  rw [← not_leastLevel_le_iff]
  refine ⟨decodeSlot_below_level r bw, fun h => ?_⟩
  have hlevel := decodeSlot_of_level r bw (Classical.not_not.1 h)
  exact ⟨hlevel, hlevel ▸ (decodeSlot_judges sl r w bw).ne_privilege⟩

end Sys2Proof
end

section
/-!
The arrival fields of the X-form commands (R36, R45): each command has one arrival rule, which its words keep, and a word for each value
of AE that the rule admits.
-/
namespace Sys2Proof

/-- The arrival rule of an X-form command (R45). -/
def arrivalRule (op : Nat) : ArrivalRule :=
  if op = 0x43 ∨ op = 0x46 ∨ op = 0x50 ∨ op = 0x51 ∨ op = 0x52 ∨ op = 0x58 ∨ op = 0x59 ∨ op = 0x5A ∨ op = 0x5B ∨ op = 0x62 ∨
    op = 0x64 then .required
  else if op = 0x41 ∨ op = 0x42 ∨ op = 0x44 ∨ op = 0x63 then .none
  else .optional

/-- What an arrival rule asks of AE (R45). -/
def ArrivalRule.admits (k : ArrivalRule) (ae : Bool) : Bool :=
  match k with
  | .required => ae
  | .optional => true
  | .none => !ae

theorem dec_bind_eq_ok_iff {α β : Type} {d : Dec α} {f : α → Dec β} {y : β} :
    (d >>= f) = .ok y ↔ ∃ x, d = .ok x ∧ f x = .ok y := by
  cases d with
  | error e => simp
  | ok x => simp

theorem needBun_eq_ok_iff {c : Bool} {u : Unit} : needBun c = .ok u ↔ c = true := by
  cases c <;> simp [needBun, need]

theorem exists_ok_of_isOk {α : Type} {d : Dec α} (h : d.isOk = true) : ∃ x, d = .ok x := by
  cases d with
  | error e => cases h
  | ok x => exact ⟨x, rfl⟩

theorem ctl_of_decodeXX {inRegion : Bool} {r : RawX} {i : Instr} (h : decodeXX inRegion r = .ok i) :
    ∃ x, r.ctl inRegion (arrivalRule r.op.toNat) = .ok x := by
  unfold decodeXX at h
  split at h
  case h_22 => cases h
  all_goals
    rename_i hop
    rw [hop]
    obtain ⟨x, hx, -⟩ := dec_bind_eq_ok_iff.1 h
    exact ⟨x, hx⟩

theorem admits_of_ctl {inRegion : Bool} {r : RawX} {k : ArrivalRule} {x : XCtl} (h : r.ctl inRegion k = .ok x) :
    k.admits (isSet r.ae) = true := by
  obtain ⟨_, _, h⟩ := dec_bind_eq_ok_iff.1 h
  cases k with
  | required =>
    obtain ⟨_, hae, _⟩ := dec_bind_eq_ok_iff.1 h
    exact needBun_eq_ok_iff.1 hae
  | optional => rfl
  | none =>
    obtain ⟨_, hae, _⟩ := dec_bind_eq_ok_iff.1 h
    have hzero : r.ae = 0 := by simpa using (Bool.and_eq_true_iff.1 (needBun_eq_ok_iff.1 hae)).1
    rw [hzero]
    rfl

theorem isSet_extractLsb' (w : SlotWord) (n : Nat) : isSet (w.extractLsb' n 1) = w.getLsbD n := by
  have hbit : ∀ b : BitVec 1, isSet b = b.getLsbD 0 := by decide
  simp [hbit]

theorem admits_of_decodeSlot_xe {lv : Level} {inRegion : Bool} {w : SlotWord} {bw : Option SlotWord} {i : Instr}
    (hop : 0x40 ≤ (w.extractLsb' 40 8).toNat) (h : decodeSlot .xe lv inRegion w bw = .ok i) :
    (arrivalRule (w.extractLsb' 40 8).toNat).admits (w.getLsbD 3) = true := by
  have hx : decodeSlot .xe lv inRegion w bw = decodeXX inRegion (RawX.ofWord w) := if_neg (Nat.not_lt.2 hop)
  obtain ⟨x, hctl⟩ := ctl_of_decodeXX (hx ▸ h)
  exact isSet_extractLsb' w 3 ▸ admits_of_ctl hctl

/-- The codes of OPA and OPB of a word of each X-form command that are legal operands of it (R43): s0 for a scalar register or pair, v0
for a vector block, an immediate 0 for the flag of WST and a mask of one engine for MARK. -/
def commandOperands (op : Nat) : BitVec 10 × BitVec 10 :=
  let s0 := Spec.code (.s 0)
  let v0 := Spec.code (.v 0)
  match op with
  | 0x40 | 0x44 | 0x62 => (s0, s0)
  | 0x41 => (0, s0)
  | 0x45 => (s0, Spec.code (.imm 0))
  | 0x50 | 0x51 | 0x52 | 0x58 | 0x59 | 0x5A | 0x5B => (v0, s0)
  | 0x63 => (1, 0)
  | 0x64 => (0, 0)
  | _ => (s0, 0)

/-- A word of an X-form command with the given AE, and every other control field zero. -/
def commandWord (op : Nat) (ae : Bool) : SlotWord :=
  RawX.toWord ⟨BitVec.ofNat 8 op, 0, (commandOperands op).1, (commandOperands op).2, 0, bit ae, 0⟩

/-- The X-form command opcodes (R43). -/
def commandOpcodes : List Nat :=
  [0x40, 0x41, 0x42, 0x43, 0x44, 0x45, 0x46, 0x50, 0x51, 0x52, 0x53, 0x54, 0x58, 0x59, 0x5A, 0x5B, 0x60, 0x61, 0x62, 0x63, 0x64]

theorem commandWord_fields (ae : Bool) : ∀ op ∈ commandOpcodes,
    ((commandWord op ae).extractLsb' 40 8).toNat = op ∧ (commandWord op ae).getLsbD 3 = ae := by
  revert ae
  decide

theorem commandWord_decodes (ae inRegion : Bool) : ∀ op ∈ commandOpcodes, (arrivalRule op).admits ae = true →
    (decodeX inRegion (commandWord op ae)).isOk = true := by
  revert ae inRegion
  decide

theorem mem_commandOpcodes {op : Nat} (h : commandOpcode op) : op ∈ commandOpcodes := by
  unfold commandOpcode at h
  simp only [commandOpcodes, List.mem_cons, List.not_mem_nil]
  omega

theorem exists_word_iff_admits {op : Nat} (hop : commandOpcode op) (lv : Level) (r ae : Bool) :
    (∃ w bw i, (w.extractLsb' 40 8).toNat = op ∧ w.getLsbD 3 = ae ∧ decodeSlot .xe lv r w bw = .ok i) ↔
      (arrivalRule op).admits ae = true := by
  constructor
  · rintro ⟨w, bw, i, rfl, rfl, hok⟩
    exact admits_of_decodeSlot_xe (by unfold commandOpcode at hop; omega) hok
  · intro hadmits
    have hmem := mem_commandOpcodes hop
    obtain ⟨hcode, hae⟩ := commandWord_fields ae op hmem
    obtain ⟨i, hi⟩ := exists_ok_of_isOk (commandWord_decodes ae r op hmem hadmits)
    exact ⟨commandWord op ae, none, i, hcode, hae, hi⟩

/-- Settles O54: a command has a word with a given AE exactly where its arrival rule admits it. -/
theorem arrivalFieldsOfCommands : Obligations.ArrivalFieldsOfCommands := by
  unfold Obligations.ArrivalFieldsOfCommands
  intro op lv r ae required optional never hop
  have hcommand : commandOpcode op := by
    unfold commandOpcode
    omega
  rw [exists_word_iff_admits hcommand]
  by_cases hr : required
  · have hn : ¬ never := by omega
    have hrule : arrivalRule op = .required := if_pos hr
    simp [hrule, ArrivalRule.admits, hr, hn]
  by_cases hn : never
  · have hrule : arrivalRule op = .none := (if_neg hr).trans (if_pos hn)
    simp [hrule, ArrivalRule.admits, hr, hn]
  · have hrule : arrivalRule op = .optional := (if_neg hr).trans (if_neg hn)
    simp [hrule, ArrivalRule.admits, hr, hn]

end Sys2Proof
end
